-- ==== Sys2Proof/Word.lean ====
section
/-! DEFINITION. The word types of the Kealos Quohus (R3, R14) and their plainest arithmetic. -/

namespace Sys2Proof

/-- A byte of memory. -/
abbrev Byte := BitVec 8
/-- A 32-bit lane word of a vector register (R118). -/
abbrev Word := BitVec 32
/-- A 64-bit group-wide register, address, PC or control register (R119, R21, R393). -/
abbrev DWord := BitVec 64
/-- A lane mask: bit j gates lane j of a group (R40, R119). -/
abbrev Mask := BitVec 64
/-- A 96-bit instruction word (R21). -/
abbrev IWord := BitVec 96
/-- A 32-byte record of an operand queue (R198), or a sector of memory. -/
abbrev Rec32 := BitVec 256
/-- A 64-byte record of the Halyard loop, byte k in bits [8k+7:8k] (R331). -/
abbrev LoopRecord := BitVec 512

/-- The number of lanes of a group (R77). -/
def numLanes : Nat := 64
/-- The lanes of a group in ascending order. -/
def laneList : List Nat := List.range 64
/-- Every lane of a group. -/
def allLanes : Mask := BitVec.allOnes 64

end Sys2Proof
end

