-- ==== Sys2Proof/Config.lean ====
section
/-! DEFINITION. What one package fixes: the sizes the spec states, and the values it leaves to the individual package or to
the environment, as opaque constants with no body (R2, notes/assumptions/11.md and 12.md). -/

namespace Sys2Proof.Config

/-- Cores of a package (R11, R12). -/
def numCores : Nat := 192
/-- Partition contexts (R381). -/
def numCtx : Nat := 48
/-- Fabric ports (R11). -/
def numPorts : Nat := 32
/-- Entries of a core's split table (R80), 64 per half-core (R112). -/
def splitPerHalf : Nat := 64
/-- Group slots of a half-core (R112). -/
def slotsPerHalf : Nat := 32
/-- Register slabs of a half-core (R112, R124). -/
def slabsPerHalf : Nat := 512
/-- Accumulator tiles of a half-core (R112). -/
def tilesPerHalf : Nat := 8
/-- Barrier slots of a half-core (R112). -/
def barsPerHalf : Nat := 8
/-- Queue records of a half-core (R198). -/
def recordsPerHalf : Nat := 8192
/-- Region store buffer entries of a half-core (R218). -/
def bufPerHalf : Nat := 1024
/-- Entries of the range-lock table (R287). -/
def rangeLocks : Nat := 8192
/-- Records of the tap queue (R334). -/
def tapEntries : Nat := 256
/-- Update-only lines of a load/store unit (R276). -/
def updateLines : Nat := 32
/-- Operations of a home engine (R282). -/
def engineOps : Nat := 16
/-- Undelivered imprecise faults of a team (R228). -/
def heldFaults : Nat := 16
/-- Open frames of a team (R81). -/
def maxFrames : Nat := 512
/-- Granule counters of the sampling table (R350). -/
def sampleGranules : Nat := 65536
/-- Parking room of a node in bytes (R313). -/
def parkBytes : Nat := 16777216
/-- Sectors that the atomic cache of a node holds in its 64 MiB (R312). -/
def cacheSectors : Nat := 2097152
/-- Reduction slots of a node (R313). -/
def nodeSlots : Nat := 4096

/-- HBM bytes (R17), window bytes (R16), node DRAM bytes and tray bytes (R20). -/
def hbmBytes : Nat := 576 * 2 ^ 30
/-- The largest chip SRAM window (R235). -/
def sramBytes : Nat := 1024 * 2 ^ 20
/-- DRAM of one node (R20). -/
def nodeBytes : Nat := 4 * 2 ^ 40
/-- One memory tray (R20). -/
def trayBytes : Nat := 48 * 2 ^ 40
/-- Ensign memory (R333). -/
def ensBytes : Nat := 32 * 2 ^ 20

/-- The number of this package in the pod, below 64 (R12, R20; PKGINFO of R393). -/
opaque pkg : BitVec 6
/-- The number of Wildal nodes of the pod: 2 to this power, 0 to 5 (R20). -/
opaque logNodes : Fin 6
/-- The number of packages in the pod, less one (R20). -/
opaque podTop : BitVec 6
/-- The trays present behind each node (R20, R234). -/
opaque tray : Nat → Nat → Bool
/-- Stepping B1 rather than B0 (R1; DEVID of R393). -/
opaque steppingB1 : Bool
/-- The fused class rate k of die d in eu (R373; RATE of R393). -/
opaque rate : Nat → Nat → BitVec 64
/-- KVT of die d, 16.16, after the n-th recomputation from the sensors (R373). -/
opaque kvt : Nat → Nat → BitVec 32
/-- The power limit set for the package in mW, never above 3,200 W (R19). -/
opaque powerLimit : Fin 3200001
/-- Core clock periods that pass at the n-th step of the machine (R5, R13). -/
opaque ccStep : Nat → Nat
/-- Nanoseconds of pod time that pass at the n-th step of the machine (R5). -/
opaque nsStep : Nat → Nat
/-- Whether a sector of HBM is found in memory-side SRAM at the n-th access (R16, R272): it decides the class charged. -/
opaque sramHit : Nat → Bool
/-- HBM refresh energy, laser, core leakage of half-core h and every other cost of the n-th interval in eu (R375). -/
opaque refreshCost : Nat → Nat
/-- Laser energy of the loop tap in the n-th interval (R375). -/
opaque laserCost : Nat → Nat
/-- Leakage of half-core h in the n-th interval (R375). -/
opaque leakCost : Nat → Nat → Nat
/-- Every other cost of the n-th interval (R375). -/
opaque otherCost : Nat → Nat
/-- Node refresh charged to context c in the n-th interval (R375). -/
opaque nodeRefresh : Nat → Nat → Nat
/-- The cause, less one, that the n-th item failed by an uncorrectable error reports: R295 names the failure, R230 no cause for it. -/
opaque errorCause : Nat → Fin 127
/-- Energy of the n-th scrub, which R374 charges and no class of R373 rates, in 2^-16 eu. -/
opaque scrubCost : Nat → Nat
/-- The virtual address of the software save area of group 0 of a team, which s255 holds in its save and restore routines; those of its
other groups follow it in steps of FRAME bytes (R222). -/
opaque saveArea : Nat → DWord
/-- The virtual address of the tile area of a team, which s254 holds there (R222). -/
opaque tileArea : Nat → DWord
/-- The fused minimum security version (R395). -/
opaque minVersion : Nat
/-- SHA-256 of the ROM (0) and of the firmware image that runs after k installations (k + 1) (R396). -/
opaque digest : Nat → BitVec 256
/-- The PF requires link IDE (R391). -/
opaque ideRequired : Bool
/-- Security version of the firmware image the package shipped with (R395). -/
opaque flashVersion : Nat
/-- SHA-256 of the certificate chain (R396). -/
opaque certDigest : BitVec 256
/-- The certificate chain of the identity key, byte by byte, and its length (R396). -/
opaque certByte : Nat → Byte
/-- Length of the certificate chain (R396). -/
opaque certLen : Nat
/-- The ECDSA P-256 signature of the identity key over a transcript (R396). -/
opaque sign : BitVec 256 → BitVec 512
/-- The responder's ephemeral public key of the n-th key exchange (R396). -/
opaque spdmKey : Nat → BitVec 512

/-- Packages in the pod (R20). -/
def numPkgs : Nat := podTop.toNat + 1
/-- Nodes in the pod (R20). -/
def numNodes : Nat := 2 ^ logNodes.val

end Sys2Proof.Config
end

