-- ==== Sys2Proof/Syntax.lean ====
section
/-! DEFINITION. The rows of spec/opcode_table.json as one inductive: the instruction forms of Dvorzil 1.0 with their decoded
operands, and the events (steps no instruction word encodes) with the data their agents bring. -/

namespace Sys2Proof

/-- A group-wide register s0 to s255 (R39). -/
abbrev SReg := BitVec 8
/-- A vector register v0 to v2047 (R39). In a G form the field names an s register (R39), and `Instr.wf` bounds it. -/
abbrev VReg11 := BitVec 11
/-- An accumulator tile acc0 to acc15 (R39). -/
abbrev AReg := BitVec 4
/-- An operand queue q0 to q7 (R39). -/
abbrev QReg := BitVec 3
/-- The mask field MK: 0 leaves the execute mask alone, k names s[k] (R40). -/
abbrev MaskField := BitVec 8

/-- TY in integer and memory-width use (R41). -/
inductive IntTy | i32 | n32 | i64 | n64 | i16 | n16 | i8 | n8 | i4 | n4 | b128
  deriving DecidableEq, Repr
/-- TY in floating use (R41). -/
inductive FltTy | f32 | f16 | bf16 | e4m3 | e5m2 | e3m2 | e2m3 | e2m1 | e8m0
  deriving DecidableEq, Repr
/-- A type of either table, as CVT, PACKN and the dot products name it (R162, R164, R165). -/
inductive NumTy | int (t : IntTy) | flt (t : FltTy)
  deriving DecidableEq, Repr
/-- RM (R42). `.rs r` carries the random-bit register of X[10:0] or X12[10:0]. -/
inductive Round | rne | rz | rup | rdn | rna | rs (r : BitVec 11)
  deriving DecidableEq, Repr
/-- SCOPE (R43, R249). -/
inductive Scope | grp | team | clu | pkg | pod | sys
  deriving DecidableEq, Repr
/-- ORD (R43). -/
inductive Ord | rlx | acq | rel | ar | sc
  deriving DecidableEq, Repr

/-- A format B target: TGT lines from the line of the instruction, slot TS (R37). -/
structure Target where
  tgt : BitVec 32
  ts : BitVec 3
  deriving DecidableEq, Repr

/-- D, A and B of a two-source integer or shift form (R146). -/
structure Int2 where
  g : Bool
  ty : IntTy
  sat : Bool
  d : VReg11
  a : VReg11
  b : VReg11
  msk : MaskField
  deriving DecidableEq, Repr
/-- D and A of a one-source integer form (R146). -/
structure Int1 where
  g : Bool
  ty : IntTy
  sat : Bool
  d : VReg11
  a : VReg11
  msk : MaskField
  deriving DecidableEq, Repr
/-- D, A, B and C of IMAD (R146). -/
structure Int3 where
  g : Bool
  ty : IntTy
  sat : Bool
  d : VReg11
  a : VReg11
  b : VReg11
  c : VReg11
  msk : MaskField
  deriving DecidableEq, Repr
/-- BFX: D, A, POS and LEN (R146). -/
structure BfxArgs where
  g : Bool
  ty : IntTy
  d : VReg11
  a : VReg11
  pos : BitVec 6
  len : BitVec 7
  msk : MaskField
  deriving DecidableEq, Repr
/-- BFI: D, A (field), B (base), POS and LEN (R146). -/
structure BfiArgs where
  g : Bool
  ty : IntTy
  d : VReg11
  a : VReg11
  b : VReg11
  pos : BitVec 6
  len : BitVec 7
  msk : MaskField
  deriving DecidableEq, Repr
/-- The condition of ICMP (R151). -/
inductive ICond | eq | ne | lt | le | gt | ge
  deriving DecidableEq, Repr
/-- The condition of FCMP and ACMP (R156, R192). -/
inductive FCond | eq | ne | lt | le | gt | ge | un | ord
  deriving DecidableEq, Repr
/-- How a compare writes its mask (R150): IND 0 to 3. `.and` and `.or` name s[C]. -/
inductive CmpMode | set | keep | and (c : SReg) | or (c : SReg)
  deriving DecidableEq, Repr
/-- ICMP (R146, R150). -/
structure ICmpArgs where
  g : Bool
  cond : ICond
  ty : IntTy
  mode : CmpMode
  d : SReg
  a : VReg11
  b : VReg11
  msk : MaskField
  deriving DecidableEq, Repr
/-- SEL (R152): C names the s register of the mask. -/
structure SelArgs where
  g : Bool
  ty : IntTy
  d : VReg11
  a : VReg11
  b : VReg11
  c : SReg
  msk : MaskField
  deriving DecidableEq, Repr
/-- LEA (R149). -/
structure LeaArgs where
  g : Bool
  ty : IntTy
  d : VReg11
  a : VReg11
  b : VReg11
  sh : BitVec 3
  disp : BitVec 16
  msk : MaskField
  deriving DecidableEq, Repr

/-- FADD, FSUB, FMUL, FSCL (R153). -/
structure Flt2 where
  g : Bool
  ty : FltTy
  rm : Round
  sat : Bool
  d : VReg11
  a : VReg11
  b : VReg11
  msk : MaskField
  deriving DecidableEq, Repr
/-- FN of FFMA (R154). -/
inductive FmaKind | plain | ms | nma | nms
  deriving DecidableEq, Repr
/-- FFMA (R153). -/
structure Flt3 where
  g : Bool
  kind : FmaKind
  ty : FltTy
  rm : Round
  sat : Bool
  d : VReg11
  a : VReg11
  b : VReg11
  c : VReg11
  msk : MaskField
  deriving DecidableEq, Repr
/-- FMIN and FMAX (R153). -/
structure FMinArgs where
  g : Bool
  ty : FltTy
  d : VReg11
  a : VReg11
  b : VReg11
  msk : MaskField
  deriving DecidableEq, Repr
/-- FCMP (R156). -/
structure FCmpArgs where
  g : Bool
  cond : FCond
  ty : FltTy
  mode : CmpMode
  d : SReg
  a : VReg11
  b : VReg11
  msk : MaskField
  deriving DecidableEq, Repr
/-- FCLASS (R157). -/
structure FClassArgs where
  g : Bool
  ty : FltTy
  d : VReg11
  a : VReg11
  msk : MaskField
  deriving DecidableEq, Repr
/-- FRND, FRCP, FSQRT and the special functions (R153). -/
structure Flt1 where
  g : Bool
  ty : FltTy
  rm : Round
  sat : Bool
  d : VReg11
  a : VReg11
  msk : MaskField
  deriving DecidableEq, Repr
/-- CVT (R162): destination and source types. -/
structure CvtArgs where
  g : Bool
  dty : NumTy
  sty : NumTy
  rm : Round
  sat : Bool
  d : VReg11
  a : VReg11
  msk : MaskField
  deriving DecidableEq, Repr
/-- PACKN (R164). -/
structure PackArgs where
  ty : NumTy
  rm : Round
  sat : Bool
  d : VReg11
  a : VReg11
  msk : MaskField
  deriving DecidableEq, Repr
/-- UNPKN (R164). -/
structure UnpackArgs where
  ty : NumTy
  d : VReg11
  a : VReg11
  msk : MaskField
  deriving DecidableEq, Repr
/-- The destination of a packed dot product (R165): FN 0 and 1 write v[D] from v[C] under RM and SAT, FN 2 and 3 add into row
ROW of acc[D]. -/
inductive DotDst
  | vec (d : VReg11) (c : VReg11) (rm : Round) (sat : Bool)
  | acc (d : AReg) (row : BitVec 6)
  deriving DecidableEq, Repr
/-- DOTQ, DOTX, DOTB, DOTH (R165): element format of A, whether B has the partner format, and the destination. -/
structure DotArgs where
  ty : NumTy
  partner : Bool
  dst : DotDst
  a : VReg11
  b : VReg11
  msk : MaskField
  deriving DecidableEq, Repr

/-- MOV / GMOV (R133). -/
structure MovArgs where
  g : Bool
  ty : IntTy
  d : VReg11
  a : VReg11
  msk : MaskField
  deriving DecidableEq, Repr
/-- MOVI / GMOVI (R133). -/
structure MoviArgs where
  g : Bool
  d : VReg11
  imm : Word
  msk : MaskField
  deriving DecidableEq, Repr
/-- MOVS.LO and MOVS.HI (R133). -/
structure MovsArgs where
  hi : Bool
  d : VReg11
  a : SReg
  msk : MaskField
  deriving DecidableEq, Repr
/-- FN of MOVL (R133). -/
inductive MovlKind | s | z | h
  deriving DecidableEq, Repr
/-- MOVL / GMOVL (R133). -/
structure MovlArgs where
  g : Bool
  kind : MovlKind
  d : VReg11
  imm : Word
  msk : MaskField
  deriving DecidableEq, Repr
/-- AFF / GAFF (R135). -/
structure AffArgs where
  g : Bool
  d : VReg11
  a : VReg11
  imm : Word
  msk : MaskField
  deriving DecidableEq, Repr
/-- FN of SHAPE (R136). -/
inductive ShapeKind | tight | gen | qry
  deriving DecidableEq, Repr
/-- SHAPE (R136). MK is carried and ignored. -/
structure ShapeArgs where
  kind : ShapeKind
  d : VReg11
  a : VReg11
  msk : MaskField
  deriving DecidableEq, Repr
/-- LDX and STX (R128, R137). -/
structure IdxArgs where
  any : Bool
  d : VReg11
  a : VReg11
  b : VReg11
  len : BitVec 11
  msk : MaskField
  deriving DecidableEq, Repr
/-- PERM (R137). -/
structure PermArgs where
  d : VReg11
  a : VReg11
  b : VReg11
  msk : MaskField
  deriving DecidableEq, Repr
/-- PERM2 (R137). -/
structure Perm2Args where
  d : VReg11
  a : VReg11
  b : VReg11
  c : VReg11
  msk : MaskField
  deriving DecidableEq, Repr
/-- The lane LBCAST broadcasts (R133). -/
inductive LaneSrc | imm (l : BitVec 6) | sreg (r : SReg)
  deriving DecidableEq, Repr
/-- LBCAST (R137). -/
structure LbcastArgs where
  src : LaneSrc
  d : VReg11
  a : VReg11
  msk : MaskField
  deriving DecidableEq, Repr
/-- The operation of REDL and SCANL (R133). FADD carries its rounding mode. -/
inductive RedOp | add | min | max | and | or | xor | fadd (rm : Round) | fmin | fmax
  deriving DecidableEq, Repr
/-- REDL and SCANL (R138). `exc` is used by SCANL only. -/
structure RedArgs where
  op : RedOp
  ty : IntTy
  exc : Bool
  d : VReg11
  a : VReg11
  msk : MaskField
  deriving DecidableEq, Repr
/-- BALLOT (R138): `z` selects .Z. -/
structure BallotArgs where
  z : Bool
  d : SReg
  a : VReg11
  msk : MaskField
  deriving DecidableEq, Repr
/-- MPOP.CNT and the G forms (R138). -/
inductive MpopArgs
  | cnt (d : VReg11) (a : SReg) (msk : MaskField)
  | gcnt (d a : SReg)
  | gfirst (d a : SReg)
  | gnext (d a : SReg)
  deriving DecidableEq, Repr

/-- FN of EMGET (R100). -/
inductive EmKind | ex | own | en
  deriving DecidableEq, Repr
/-- ROLE (R88, R95). `gen` is the new genmax / 16, and `keep` keeps the present genmax. -/
structure RoleArgs where
  d : SReg
  t : Target
  grp : BitVec 4
  cls : BitVec 2
  gen : BitVec 8
  keep : Bool
  deriving DecidableEq, Repr
/-- FN of CWAIT (R280). -/
inductive WCond | eq | ne | ge | lt | geu | ltu
  deriving DecidableEq, Repr
/-- CWAIT (R270, R280). -/
structure CwaitArgs where
  cond : WCond
  w64 : Bool
  scope : Scope
  acq : Bool
  y : Bool
  d : SReg
  a : SReg
  deriving DecidableEq, Repr

/-- MMA and MMLOOP (R182, R183): `rowh` is the half of a .M32 form. count and inc are those of MMLOOP (count − 1, inc / 2). -/
structure MmaArgs where
  lf : Bool
  m32 : Option Bool
  ty : NumTy
  partner : Bool
  d : AReg
  a : VReg11
  b : QReg
  msk : MaskField
  deriving DecidableEq, Repr
/-- The source type of AROW and the destination of ARSLV (R187, R190). -/
structure ArowArgs where
  ty : NumTy
  d : AReg
  a : VReg11
  row : BitVec 6
  msk : MaskField
  deriving DecidableEq, Repr
/-- SCACC (R189). -/
structure ScaccArgs where
  fa : FltTy
  fb : FltTy
  d : AReg
  a : AReg
  b : VReg11
  c : VReg11
  msk : MaskField
  deriving DecidableEq, Repr
/-- ARSLV (R190). -/
structure ArslvArgs where
  ty : NumTy
  rm : Round
  sat : Bool
  d : VReg11
  a : AReg
  row : BitVec 6
  nrows : BitVec 7
  msk : MaskField
  deriving DecidableEq, Repr
/-- ACMP (R192). -/
structure AcmpArgs where
  cond : FCond
  d : SReg
  a : AReg
  b : VReg11
  row : BitVec 6
  nrows : BitVec 7
  msk : MaskField
  deriving DecidableEq, Repr
/-- ASTAT.T and ASTAT.R (R193). -/
inductive AstatArgs
  | t (d : SReg) (a : AReg) (msk : MaskField)
  | r (d : VReg11) (a : AReg) (row : BitVec 6) (msk : MaskField)
  deriving DecidableEq, Repr
/-- ASAVE and ALOAD (R194). -/
structure AmemArgs where
  lf : Bool
  acc : AReg
  b : SReg
  row : BitVec 6
  nrows : BitVec 7
  msk : MaskField
  deriving DecidableEq, Repr

/-- QLD and QST (R207). `w24` is TY = 1. `ordered` is .ACQ on QLD and .REL on QST. -/
structure StreamArgs where
  lf : Bool
  w24 : Bool
  scope : Scope
  ordered : Bool
  col : BitVec 3
  q : QReg
  a : SReg
  b : SReg
  c : SReg
  off : BitVec 17
  deriving DecidableEq, Repr

/-- The width of a load or store (R269): a TY of the integer table, or .B24 (FN 1 with .N32). -/
inductive MemTy | ty (t : IntTy) | b24
  deriving DecidableEq, Repr
/-- LD (R270). -/
structure LdArgs where
  g : Bool
  lf : Bool
  ty : MemTy
  scope : Scope
  ord : Ord
  d : VReg11
  a : VReg11
  c : VReg11
  msk : MaskField
  off : BitVec 17
  deriving DecidableEq, Repr
/-- ST (R270). `km` is the colour mask. -/
structure StArgs where
  g : Bool
  lf : Bool
  ty : MemTy
  scope : Scope
  ord : Ord
  col : BitVec 3
  km : BitVec 8
  a : VReg11
  b : VReg11
  c : VReg11
  msk : MaskField
  off : BitVec 17
  deriving DecidableEq, Repr
/-- The operation of ATOM (R273). `.cas` carries C, the compare value. -/
inductive AtomOp | add | min | max | and | or | xor | exch | cas (c : VReg11) | inc
  deriving DecidableEq, Repr
/-- ATOM (R270). -/
structure AtomArgs where
  g : Bool
  lf : Bool
  op : AtomOp
  ty : IntTy
  scope : Scope
  ord : Ord
  d : VReg11
  a : VReg11
  b : VReg11
  msk : MaskField
  off : BitVec 17
  deriving DecidableEq, Repr
/-- PREF (R270). -/
structure PrefArgs where
  g : Bool
  a : VReg11
  c : VReg11
  msk : MaskField
  off : BitVec 17
  deriving DecidableEq, Repr

/-- CPL (R288). -/
structure CplArgs where
  lf : Bool
  ty : IntTy
  scope : Scope
  col : BitVec 3
  d : VReg11
  a : VReg11
  b : VReg11
  c : VReg11
  msk : MaskField
  off : BitVec 17
  deriving DecidableEq, Repr
/-- CPBOX (R288, R290). -/
structure CpboxArgs where
  lf : Bool
  ty : IntTy
  scope : Scope
  col : BitVec 3
  d : VReg11
  a : SReg
  msk : MaskField
  deriving DecidableEq, Repr
/-- CPMC (R288, R292). -/
structure CpmcArgs where
  lf : Bool
  d : VReg11
  a : SReg
  b : SReg
  deriving DecidableEq, Repr
/-- CPST (R288, R291). -/
structure CpstArgs where
  lf : Bool
  d : VReg11
  a : SReg
  b : VReg11
  n : BitVec 11
  deriving DecidableEq, Repr

/-- PUT, PUTSIG and GET (R317). `w64` and `b` are PUTSIG's counter width and increment register; `rel` is ORD .REL. -/
structure PutArgs where
  lf : Bool
  sys : Bool
  rel : Bool
  col : BitVec 3
  d : VReg11
  a : SReg
  msk : MaskField
  deriving DecidableEq, Repr
/-- The source of REDM (R317, R320). -/
inductive RedmSrc | f32 | bf16 | i32 | acc (c : AReg)
  deriving DecidableEq, Repr
/-- REDM (R320). -/
structure RedmArgs where
  lf : Bool
  src : RedmSrc
  sys : Bool
  rel : Bool
  d : VReg11
  a : SReg
  msk : MaskField
  deriving DecidableEq, Repr
/-- The destination type of REDR (R317, R321). -/
inductive RedrTy | f32 | bf16 | i32
  deriving DecidableEq, Repr
/-- REDR (R321). -/
structure RedrArgs where
  lf : Bool
  ty : RedrTy
  sys : Bool
  d : VReg11
  a : SReg
  msk : MaskField
  deriving DecidableEq, Repr
/-- BCAST (R335). -/
structure BcastArgs where
  lf : Bool
  sys : Bool
  rel : Bool
  km : BitVec 8
  d : SReg
  a : SReg
  deriving DecidableEq, Repr
/-- FN of COLL (R353). -/
inductive CollOp | put | add | min | max
  deriving DecidableEq, Repr
/-- COLL (R353). -/
structure CollArgs where
  lf : Bool
  op : CollOp
  ty : IntTy
  sys : Bool
  rel : Bool
  col : BitVec 3
  d : VReg11
  a : VReg11
  b : VReg11
  c : VReg11
  msk : MaskField
  off : BitVec 17
  deriving DecidableEq, Repr
/-- RSORT (R357). `n16` is the key type .N16. -/
structure RsortArgs where
  lf : Bool
  n16 : Bool
  scope : Scope
  d : VReg11
  a : SReg
  msk : MaskField
  deriving DecidableEq, Repr

/-- What a fabric packet carries beyond its header (R301, R302). Byte lists stand for the data flits. -/
inductive Payload
  /-- 0x01: bytes written at ADDR (colour and scope order nothing at the node). -/
  | write (bytes : List Byte)
  /-- 0x02: read of `n` bytes. -/
  | read (n : Nat)
  /-- 0x03: data of the sector with its timestamps. -/
  | readData (bytes : List Byte) (wts rts : BitVec 16)
  /-- 0x04. -/
  | writeAck (wts : BitVec 16) (cause : Nat)
  /-- 0x05: operations (offset from ADDR, AtomOp code of R273 or 16 + the FN of COLL, signed, width, operand, compare). -/
  | atomic (ops : List (Nat × Nat × Bool × Nat × Nat × Nat))
  /-- 0x06: the old values, in the order of the operations. -/
  | atomicReply (olds : List Nat) (wts : BitVec 16) (cause : Nat)
  /-- 0x07. -/
  | marker
  /-- 0x08: the largest wts of the path. -/
  | markerAck (wts : BitVec 16)
  /-- 0x09: contribution to slot `slot` of rank `rank`, from element `off` on of `total`: per element its dyadic value (mantissa, exponent)
  and its flags [0] INX [1] OVF [2] NaN [3] +Inf [4] −Inf; `acc` when the source is a tile; `w` bytes for each element (R301, R320). -/
  | contrib (slot rank : Nat) (acc : Bool) (w off total : Nat) (elems : List (Int × Int × Nat)) (rec : Nat)
  /-- 0x0A: read of slot `slot`. -/
  | redRead (slot : Nat) (rec : Nat)
  /-- Reply to 0x09 and 0x0A: the elements from `off` on (value bits S of 96 or FP32 code, flags), or a refusal. -/
  | redData (off : Nat) (elems : List (Nat × Nat)) (ok : Bool)
  /-- 0x0B. -/
  | tsQuery
  /-- Reply to 0x0B. -/
  | tsReply (wts rts : BitVec 16)
  /-- Sideband slot configuration (R362): record number, slot, slot word, ANCHOR, ELEMS, RANKS. -/
  | config (rec slot : Nat) (word : DWord) (anchor : Int) (elems ranks : Nat)
  deriving DecidableEq, Repr

/-- A fabric packet (R301, R302): its header fields, from which Machine/Meter.lean lays out the header, and the operation it belongs to. The
AES-GCM tag under the nonce of R307 is represented by its verdict at the receiver (`tagOk`), and so are reserved bits in a header that
came (`reservedOk`; notes/assumptions/18.md). -/
structure Packet where
  ctx : Nat
  src : Nat
  dst : Nat
  pts : BitVec 16
  addr : Nat
  load : Payload
  op : Nat
  item : Nat
  lease : Nat
  tagOk : Bool
  reservedOk : Bool
  deriving DecidableEq, Repr

/-- A context descriptor (R381). -/
structure CtxDesc where
  ctx : Nat
  parent : Option Nat
  weight : Nat
  cew : Nat
  tslice : Nat
  lbudget : Nat
  window : Nat
  ways : BitVec 32
  fabcap : Nat
  hostcap : Nat
  stage : Nat
  nstage : Nat
  frbase : Nat
  frcount : Nat
  winbase : Nat
  arena : Nat
  arenasz : Nat
  errlog : Nat
  halfmap : BitVec 384
  hbmmap : BitVec 576
  deriving DecidableEq, Repr

/-- A claimed reduction slot: node, slot, context, record number of the claim, ELEMS, ANCHOR, RANKS and mode (R320, R362). -/
structure SlotClaim where
  node : Nat
  slot : Nat
  ctx : Nat
  recNo : Nat
  elems : Nat
  anchor : Int
  ranks : Nat
  rankMode : Bool
  deriving DecidableEq, Repr

/-- What a joining package copies from a running one (R330, R395): ensign memory as of record `n`, whose PTS is `pts`, and the claims of
reduction slots that every package keeps (R313, R320). -/
structure Snapshot where
  n : Nat
  pts : BitVec 16
  bytes : List (Nat × Byte)
  claims : List SlotClaim
  deriving DecidableEq, Repr

/-- Who writes a register or posts a record on the host side: the PF or VF v (R391, R392). -/
inductive HostFn | pf | vf (v : Nat)
  deriving DecidableEq, Repr

/-- The rows of spec/opcode_table.json, one constructor each. -/
inductive Instr
  -- events: issue and fragments
  | issueSelect (core : Nat)
  | spillWaitExpiry (team frag : Nat)
  | fragmentRefill (team : Nat)
  | barrierWaitEnd (team frag : Nat)
  | teamLeave (team : Nat)
  | scrubComplete (id : Nat)
  | arbiterGrant (arb : Nat)
  | clockThrottle (drawMilliwatt : Nat)
  | launchAdmit
  | launchRefuse (seq : Nat)
  | launchComplete (seq : Nat)
  | reggrowGrant (core ctx : Nat)
  | reggrowDeny (core ctx : Nat)
  | accessIssue (core : Nat)
  -- events: matrix array, tiles, queues
  | matrixStep (op : Nat)
  | matrixOpComplete (op : Nat)
  | matrixOpEarlyEnd (op reason : Nat)
  | tileDatapathExecute (core : Nat) (half : Nat)
  | streamRecordArrive (op : Nat)
  | streamWritePerform (op : Nat)
  -- events: pre-emption, traps
  | preempt (team : Nat)
  | teamSave (team : Nat)
  | teamRestore (team : Nat)
  | watchdog (team frag : Nat) (thread : Bool)
  | detRoundCommit (seq : Nat)
  | impreciseFaultDelivery (team : Nat)
  -- events: memory
  | loadComplete (op : Nat)
  | storePerform (op : Nat)
  | atomApply (op : Nat)
  | updateOnlyFlush (core line : Nat)
  | cwaitPoll (team frag : Nat) (thread : Bool)
  | flushMarkerAck (port : Nat)
  | pteAckPost (id : Nat)
  -- events: engines
  | copyItemComplete (op item : Nat)
  | copyFinalWord (op : Nat)
  | workSteal (engine : Nat)
  | cpmcLanding (op pos : Nat)
  -- events: fabric and nodes
  | leaseTick
  | nodeRead (node : Nat) (ext : Option Packet)
  | nodeWrite (node : Nat) (ext : Option Packet)
  | nodeAtomic (node : Nat) (ext : Option Packet)
  | heldWriteRelease (node : Nat)
  | atomicCacheWriteback (node sector : Nat)
  | replyReceive (port : Nat) (ext : Option Packet)
  | remotePacketApply (pkt : Packet)
  | packetIntegrityFailure (port : Nat) (toNode : Bool)
  | linkFailure (port : Nat)
  | reductionContribution (node : Nat) (ext : Option Packet)
  | reductionRead (node : Nat) (ext : Option Packet)
  | timestampQuery (node : Nat) (ext : Option Packet)
  | slotConfigApply (node : Nat) (ext : Option Packet)
  -- events: loop
  | pennantArrive
  | storeRec (ext : Option LoopRecord)
  | claimRec (ext : Option LoopRecord)
  | addRec (ext : Option LoopRecord)
  | launchRec (ext : Option LoopRecord)
  | pteRec (ext : Option LoopRecord)
  | slotRec (ext : Option LoopRecord)
  | freeRec (ext : Option LoopRecord)
  | abortRec (ext : Option LoopRecord)
  | recordRefetch (ok : Bool)
  | loopLeave
  | loopBudgetWindow
  -- events: tier engine
  | tierCarryOut (team entry sectors : Nat)
  | tierLeaseRenew (copy : Nat)
  | sampleDecay
  | hotGranuleCopy (ctx granule : Nat)
  -- events: energy
  | kvtRecompute
  | reconcile (railEnergy : Nat)
  | quotaExhausted (vf : Nat)
  | quotaWrite (vf : Nat) (value : DWord)
  -- events: host, partitions, boot
  | leaseWrite (ctx : Nat) (value : DWord)
  | dbstatClear (fn : HostFn)
  | registerWrite (fn : HostFn) (sel : Nat) (value : DWord)
  | recordDoorbell (fn : HostFn) (rec : LoopRecord)
  | createContext (fn : HostFn) (block : BitVec 2048)
  | dissolveContext (fn : HostFn) (ctx : Nat)
  | mapVf (fn : HostFn) (vf : Nat) (ctx : Option Nat)
  | installPortKey (fn : HostFn) (ctx port : Nat) (key : Option (BitVec 256))
  | stageFirmware (fn : HostFn) (image : DWord) (len : Nat) (sigOk : Bool) (version : Nat)
  | errorDelivery (kind unit : Nat) (blast : BitVec 48) (addr : DWord)
  | masterFreeze (vf : Option Nat) (ctx port : Nat)
  | vfDisable (vf : Nat)
  | atsInvalidate (addr : DWord) (len : Nat)
  | reset
  | bootStageAdvance (result : Nat) (snapshot : Option Snapshot)
  -- events: SPDM
  | getVersion
  | getCapabilities
  | negotiateAlgorithms (ecdsaP256 sha256 : Bool)
  | getDigests
  | getCertificate (offset len : Nat)
  | challenge (nonce : BitVec 256)
  | getMeasurements (index : Nat) (nonce : BitVec 256)
  | keyExchange (pub : BitVec 512)
  | finish (hmacOk : Bool)
  -- control instructions
  | nop
  | bra (t : Target)
  | brc (neg : Bool) (a : SReg) (t : Target) (msk : MaskField)
  | brx (a : VReg11) (msk : MaskField)
  | call (d : SReg) (t : Target)
  | ret (a : SReg)
  | join (t : Target)
  | exit (msk : MaskField)
  | role (r : RoleArgs)
  | yield (deadline : BitVec 16)
  | yieldcR (a : VReg11) (t : Target)
  | yieldcF (flags : BitVec 12) (t : Target)
  | trap (code : BitVec 8)
  | bara (d : SReg) (b : BitVec 4) (count : BitVec 11)
  | barw (a : SReg) (b : BitVec 4)
  | bars (d : SReg) (b : BitVec 4) (count : BitVec 11)
  | emset (a : SReg)
  | emget (k : EmKind) (d : SReg)
  | emand (a : SReg)
  | rgn
  | mark (n : BitVec 16) (nc : Bool)
  | markS (a : SReg) (nc : Bool)
  | cwait (w : CwaitArgs)
  | eretT (a : SReg)
  | eretSave
  | eretRst
  -- moves, shapes, permutes
  | mov (m : MovArgs)
  | movi (m : MoviArgs)
  | movs (m : MovsArgs)
  | gmovsRdf (d : SReg)
  | gmovsWrf (a : SReg)
  | gmovsClf (a : SReg)
  | movl (m : MovlArgs)
  | aff (m : AffArgs)
  | shape (m : ShapeArgs)
  | ldx (m : IdxArgs)
  | stx (m : IdxArgs)
  | perm (m : PermArgs)
  | perm2 (m : Perm2Args)
  | lbcast (m : LbcastArgs)
  | redl (m : RedArgs)
  | scanl (m : RedArgs)
  | ballot (m : BallotArgs)
  | mpop (m : MpopArgs)
  | reggrow (d : SReg) (gen : BitVec 8)
  | reggrowNb (d : SReg) (gen : BitVec 8)
  | regshrink (d : SReg) (gen : BitVec 8)
  | regqry (d : SReg)
  -- integer
  | iadd (m : Int2)
  | isub (m : Int2)
  | imul (m : Int2)
  | imulh (m : Int2)
  | imad (m : Int3)
  | imin (m : Int2)
  | imax (m : Int2)
  | iabs (m : Int1)
  | iand (m : Int2)
  | ior (m : Int2)
  | ixor (m : Int2)
  | inot (m : Int1)
  | shl (m : Int2)
  | shr (m : Int2)
  | sha (m : Int2)
  | rot (m : Int2)
  | bfx (m : BfxArgs)
  | bfi (m : BfiArgs)
  | popc (m : Int1)
  | clz (m : Int1)
  | brev (m : Int1)
  | icmp (m : ICmpArgs)
  | sel (m : SelArgs)
  | lea (m : LeaArgs)
  -- floating
  | fadd (m : Flt2)
  | fsub (m : Flt2)
  | fmul (m : Flt2)
  | ffma (m : Flt3)
  | fmin (m : FMinArgs)
  | fmax (m : FMinArgs)
  | fcmp (m : FCmpArgs)
  | fclass (m : FClassArgs)
  | frnd (m : Flt1)
  | fscl (m : Flt2)
  | frcp (m : Flt1)
  | frsq (m : Flt1)
  | fsqrt (m : Flt1)
  | fexp2 (m : Flt1)
  | flog2 (m : Flt1)
  | ftanh (m : Flt1)
  | cvt (m : CvtArgs)
  | packn (m : PackArgs)
  | unpkn (m : UnpackArgs)
  | dotq (m : DotArgs)
  | dotx (m : DotArgs)
  | dotb (m : DotArgs)
  | doth (m : DotArgs)
  -- tiles
  | aclr (d : AReg) (anchor : BitVec 10) (msk : MaskField)
  | ashift (d : AReg) (n : BitVec 10) (msk : MaskField)
  | mma (m : MmaArgs)
  | mmloop (m : MmaArgs) (count : BitVec 12) (inc : BitVec 6)
  | arow (m : ArowArgs)
  | aadd (d a : AReg) (msk : MaskField)
  | amov (d a : AReg) (msk : MaskField)
  | scacc (m : ScaccArgs)
  | arslv (m : ArslvArgs)
  | arslvi (d : AReg) (msk : MaskField)
  | acmp (m : AcmpArgs)
  | astat (m : AstatArgs)
  | asave (m : AmemArgs)
  | aload (m : AmemArgs)
  -- queues
  | qdef (d : SReg) (q : QReg) (depth : BitVec 5) (store : Bool)
  | qpop (d : VReg11) (q : QReg) (msk : MaskField)
  | qpush (q : QReg) (a : VReg11) (msk : MaskField)
  | qstat (d : SReg) (q : QReg)
  | qdrainDisc (q : QReg)
  | qdrainFlush (q : QReg)
  | qld (m : StreamArgs)
  | qst (m : StreamArgs)
  -- memory
  | ld (m : LdArgs)
  | st (m : StArgs)
  | atom (m : AtomArgs)
  | fence (scope : Scope) (ord : Ord) (km : BitVec 8)
  | pref (m : PrefArgs)
  -- engines, fabric, loop, collectives
  | cpl (m : CplArgs)
  | cpbox (m : CpboxArgs)
  | cpmc (m : CpmcArgs)
  | cpst (m : CpstArgs)
  | rlkq (d a b : SReg)
  | put (m : PutArgs)
  | putsig (m : PutArgs) (w64 : Bool) (b : SReg)
  | get (m : PutArgs)
  | redm (m : RedmArgs)
  | redr (m : RedrArgs)
  | tsrdH (lf : Bool) (d a : SReg) (msk : MaskField)
  | tsrdP (lf : Bool) (d : SReg) (msk : MaskField)
  | bcast (m : BcastArgs)
  | seqrd (d : SReg)
  | seqfence (a : SReg)
  | coll (m : CollArgs)
  | rsort (m : RsortArgs)
  -- system
  | clkrd (d : SReg) (sel : BitVec 16)
  | idrd (d : SReg) (sel : BitVec 16)
  | enrd (d a : SReg) (sel : BitVec 16)
  | ttq (d a : SReg) (sel : BitVec 16)
  | crd (d : SReg) (sel : BitVec 16)
  | cwr (sel : BitVec 16) (a : SReg)
  -- further events
  | ideKm (established : Bool)
  | remoteRead (pkt : Packet)
  | ownerChangeScrubComplete (id : Nat)
  | retransmissionRequest (port : Nat) (toNode : Bool)
  deriving DecidableEq, Repr

end Sys2Proof
end

