-- ==== Sys2Proof/Machine/State.lean ====
section
/-! DEFINITION. The state of one KQ-192 package with the Wildal nodes and the loop tap as the package meets them, as plain
data: everything the spec gives the machine, each field citing the rule that names it. Fields marked MODEL are the model's own
bookkeeping (notes/assumptions/2.md, 3.md). -/

namespace Sys2Proof.Machine
open Sys2Proof

/-- A sparse table: keys strictly rising, no entry equal to the default of its reader (Machine/Cells.lean). -/
abbrev Cells (α : Type) := List (Nat × α)
/-- Memory: one byte per flat physical key `space × 2^58 + offset` (notes/assumptions/4.md); unlisted bytes read 0. -/
abbrev Memory := List Host.Cell

/-! ### Registers of a group -/

/-- A vector register with its shape tag and stored words (R120). -/
inductive VReg
  | uniform (u : Word)
  | affine (b d : Word)
  | general (lanes : List Word)
  deriving DecidableEq, Repr

/-- Where a QLD stream fetched a record: the number of the stream's operation, the PC of its QLD, the address, and whether it is 24 bytes
wide (R202). -/
structure RecSrc where
  stream : Nat
  pc : DWord
  va : DWord
  w24 : Bool
  deriving DecidableEq, Repr

/-- A record of an operand queue (R198), with where it came from, so that resumption can fetch it again (R204); nothing for QPUSH. -/
structure QRec where
  src : Option RecSrc
  data : Rec32
  deriving DecidableEq, Repr

/-- One operand queue (R198, R210). `depth` is in records, 0 when undefined; `store` is DIR. -/
structure Queue where
  depth : Nat
  /-- Records of `depth` taken from half-core 0 (R112, R198). -/
  rec0 : Nat
  store : Bool
  fault : Bool
  recs : List QRec
  deriving DecidableEq, Repr

/-- A station: the declared landing range of a group's registers (R291). -/
structure Station where
  base : Nat
  n : Nat
  eb : Nat
  landed : Nat
  d : Nat
  op : Nat
  deriving DecidableEq, Repr

/-- One group of a team (R77, R118, R74, R123). -/
structure Group where
  /-- s0 to s255 (R118); unlisted registers hold 0 (R115). -/
  s : Cells DWord
  /-- v0 to v2047 (R118); unlisted registers hold uniform 0 (R115). -/
  v : Cells VReg
  /-- The committed floating status word, bits [5:0] of FSTAT (R74). -/
  fstat : BitVec 6
  /-- genmax (R123). -/
  genmax : Nat
  /-- Lanes that have exited (R99). -/
  exited : Mask
  /-- q0 to q7 (R198). -/
  queues : List Queue
  /-- The open station (R291). -/
  station : Option Station
  /-- Group slot of the core (R112). -/
  slot : Nat
  deriving DecidableEq, Repr

/-! ### Accumulator tiles -/

/-- A redundant accumulator element (R168). -/
structure Elem where
  s : BitVec 96
  c : BitVec 96
  inx : Bool
  ovf : Bool
  nan : Bool
  pinf : Bool
  ninf : Bool
  deriving DecidableEq, Repr

/-- An accumulator tile (R168, R193): element (m, n) under key 64 m + n, unlisted elements zero. -/
structure Tile where
  anchor : Int
  steps : Nat
  err : Bool
  elems : Cells Elem
  deriving DecidableEq, Repr

/-! ### Fragments, frames, regions -/

/-- A buffered byte: offset in its sector, value, the team lane that wrote it, the virtual address of its access (R216 to R218). -/
structure BufByte where
  off : Nat
  val : Byte
  lane : Nat
  va : DWord
  deriving DecidableEq, Repr

/-- What one ST has put into an entry of the region store buffer: the entry's half-core and physical sector, the colour and scope of the
store, its PC, whether it is a G form, its bytes in the order they were written (R217, R218). The runs of one half and sector share an
entry. -/
structure BufRun where
  half : Nat
  sector : Nat
  col : Nat
  scope : Scope
  pc : DWord
  gf : Bool
  bytes : List BufByte
  deriving DecidableEq, Repr

/-- The open region of a fragment (R216). `pend` holds P(g), `buf` the buffered stores in the order of the STs. -/
structure Region where
  start : DWord
  buf : List BufRun
  ckE : List Mask
  pend : List (BitVec 6)
  pinned : Bool
  /-- MODEL: the number of the next operation when the region opened. -/
  since : Nat
  deriving DecidableEq, Repr

/-- Where a fragment stands (R80, R83, R93). -/
inductive Wait
  | ready
  /-- R85. -/
  | frame (num : Nat)
  /-- R91: the slot and the token of every group waited for. -/
  | barrier (b : Nat) (tokens : List DWord)
  /-- R126: blocked in REGGROW, with its order of issue. -/
  | grow (gen : Nat) (d : SReg) (order : Nat)
  /-- R126, R127: ready, the blocked REGGROW having been granted or denied. -/
  | granted (ok : Bool)
  /-- R294. -/
  | parkR (a : Nat)
  /-- R294. -/
  | parkF (flags : BitVec 12)
  /-- R253, R278: not ready until these operations have performed, stores at level `lvl` of `Op.lvl`. -/
  | ops (ids : List Nat) (lvl : Nat)
  /-- R338. -/
  | seq (n : DWord)
  /-- R280: waiting between polls: the comparand read at issue, .Y, and whether a poll has found the condition true. -/
  | cwait (c : DWord) (y go : Bool)
  /-- R246. -/
  | mig (va : DWord)
  /-- R226: stopped in its round. -/
  | round
  deriving DecidableEq, Repr

/-- A storage element an outstanding operation will write (R32). -/
inductive RegRef
  | v (g r : Nat)
  | s (g r : Nat)
  /-- s register of the access thread of group g. -/
  | ts (g r : Nat)
  | tile (t : Nat)
  deriving DecidableEq, Repr

/-- What stream of control a fragment runs (R222, R223, R229). `olds` holds s254 and s255 of each present group before a save or
restore routine. -/
inductive Mode
  | normal
  /-- In the trap handler: TRAPPC, CAUSE, INFO, RPC, the slot that trapped, and the class before (R229, R232). -/
  | handler (trappc : DWord) (cause : Nat) (info : DWord) (rpc : DWord) (slot : Nat) (cls : Nat)
  /-- In a save routine: the safe point, the restore routine, the class and limit before (R222), and the registers that operations
  outstanding at the save still write (R296, R336). -/
  | save (pc restore : DWord) (cls limit : Nat) (olds : List (Nat × DWord × DWord)) (late : List RegRef)
  /-- Saved: the restore routine to run on resumption, none for the hardware save (R222); the registers that operations outstanding then
  still write, in the image (R296, R336). -/
  | parked (restore : Option DWord) (olds : List (Nat × DWord × DWord)) (late : List RegRef)
  /-- In a restore routine (R223), with the registers that the hardware reloads from the image after it (R296). -/
  | restore (pc : DWord) (cls limit : Nat) (olds : List (Nat × DWord × DWord)) (late : List RegRef)
  deriving DecidableEq, Repr

/-- A fragment (R78, R80). `entry` is its split-table entry, none when spilled (R82). -/
structure Fragment where
  id : Nat
  entry : Option Nat
  pc : DWord
  /-- M(g) (R78). -/
  m : List Mask
  /-- E(g) (R78). -/
  e : List Mask
  /-- Priority class (R80). -/
  cls : Nat
  /-- Age (R93). -/
  age : Nat
  wait : Wait
  /-- Innermost open frame of the chain (R80). -/
  link : Option Nat
  region : Region
  /-- Watchdog count and limit (R225). -/
  wdog : Nat
  limit : Nat
  /-- Retired instructions (R231, CLKRD SEL 2). -/
  retired : Nat
  /-- Retired instructions in the present round (R226). -/
  inRound : Nat
  mode : Mode
  /-- The line entered, as fetched; none when the next issue enters a line (R24, R33). -/
  line : Option (BitVec 512)
  /-- Operations of an ordered ATOM that hold back later memory instructions (R277). -/
  hold : List Nat
  /-- Ports used since the last release or fence, with the colours of the stores; bit 8 marks a load or ATOM (R263). -/
  paths : Cells (BitVec 9)
  /-- The fragment stands at a safe point: it has just retired RGN or YIELD (R221, R224). -/
  safe : Bool
  /-- MODEL: the pending closing instruction may run at the round's commit (R226). -/
  roundGo : Bool
  /-- MODEL: the instruction at its PC has issued and waits to issue again, so the fragment is not ready (R225; log 15). -/
  blocked : Bool
  deriving DecidableEq, Repr

/-- A reconvergence frame (R80, R98). -/
structure Frame where
  num : Nat
  entry : Option Nat
  pc : DWord
  x : List Mask
  en : List Mask
  cls : Nat
  link : Option Nat
  deriving DecidableEq, Repr

/-- A barrier slot (R89). -/
structure Barrier where
  phase : BitVec 32
  count : Nat
  expect : Nat
  deriving DecidableEq, Repr

/-- An access thread (R195): its own s registers, and a fragment holding lane 0 of its group. -/
structure Thread where
  group : Nat
  s : Cells DWord
  frag : Fragment
  running : Bool
  lastIssue : Nat
  deriving DecidableEq, Repr

/-- An undelivered imprecise fault (R228): issuing fragment, or the group of the access thread that raised it (R196), PC, cause,
INFO. -/
structure HeldFault where
  frag : Nat
  thread : Option Nat
  pc : DWord
  cause : Nat
  info : DWord
  deriving DecidableEq, Repr

/-- Where a team stands in its life (R94, R224). -/
inductive TeamPhase
  /-- Its resources are reserved; it starts when the CLAIM of its launch has been applied (R109). -/
  | reserved
  | running
  /-- A pre-emption is pending (R224). -/
  | stopping
  /-- The hardware part of its image has been written and its routines run (R222). -/
  | saving
  /-- Saved: its registers and tiles stand in the save arena of its context (R131, R222). -/
  | saved
  deriving DecidableEq, Repr

/-- The kernel header fields a team runs under (R52), and its launch's body (R102). -/
structure Kernel where
  image : DWord
  params : DWord
  spill : DWord
  imageSize : Nat
  execEntry : Nat
  accessEntry : Nat
  trapEntry : Nat
  safeTable : Nat
  timetable : Nat
  groups : Nat
  genmax : Nat
  accTiles : Nat
  mhalves : Nat
  cluster : Bool
  access : Bool
  determ : Bool
  regioned : Bool
  cluW : Nat
  cluH : Nat
  cluTpc : Nat
  quantum : Nat
  watchdog : Nat
  nb : Nat
  weight : Nat
  cls : Nat
  deriving DecidableEq, Repr

/-- A team resident on a core or saved (R77, R80, R115). -/
structure Team where
  id : Nat
  /-- Sequence number of the launch. -/
  launch : Nat
  ctx : Nat
  core : Nat
  kernel : Kernel
  /-- Team number in its cluster, or in the grid for a lone team (R232). -/
  number : Nat
  /-- Linear number of the team in the launch (R102). -/
  linear : Nat
  cluster : Nat
  unitX : Nat
  unitY : Nat
  unitZ : Nat
  /-- Origin of the cluster's rectangle (R114). -/
  x0 : Nat
  y0 : Nat
  groups : List Group
  frags : List Fragment
  frames : List Frame
  bars : List Barrier
  tiles : List Tile
  /-- Tiles, register slabs and barrier slots taken from half-core 0, the others from half-core 1 (R112, R172). -/
  tiles0 : Nat
  slabs0 : Nat
  bars0 : Nat
  /-- HBM offset of the room reserved for its image in the save arena of its context (R222, R384). -/
  arena : Nat
  /-- Bytes of the software save area that each of its groups has in the image: the largest FRAME of the safe points its fragments stood at
  (R221, R222). -/
  frameBytes : Nat
  /-- Halves of the matrix array held (R112, R176). -/
  halves : List Nat
  threads : List Thread
  held : List HeldFault
  lost : Bool
  /-- Marker position c (R346). -/
  marker : Option Nat
  /-- Last schedule miss as TTQ SEL 2 gives it (R352). -/
  lastMiss : DWord
  /-- REASON of the timetable entries that have failed (R348, R352). -/
  entries : Cells Nat
  /-- The position at which a MARK of the team has missed and has not yet passed (R351). -/
  missAt : Option Nat
  detRead : Bool
  phase : TeamPhase
  /-- Pod time at which its present time slice began (R384). -/
  since : Nat
  /-- Team counter, in 2^-16 eu (R372). -/
  energy : Nat
  nextFrag : Nat
  deriving DecidableEq, Repr

/-! ### Outstanding operations -/

/-- One location access of a lane: group, lane, the lanes whose threads make it (R248; none for the thread of the group, which makes the
G forms), virtual address, the bytes' physical runs (key, length), store data or ATOM operand, compare value, the reply once it has come,
and the bytes that the fragment's own region buffer gives a load (R218). -/
structure LaneAcc where
  g : Nat
  lane : Nat
  who : Mask
  va : DWord
  segs : List (Nat × Nat)
  val : Nat
  cmp : Nat
  got : Option Nat
  fwd : List (Nat × Byte)
  deriving DecidableEq, Repr

/-- How a load or ATOM writes its destination in one group: the effective mask, whether the write is full (R122), and whether one
access serves every lane (R268). -/
structure GrpAcc where
  g : Nat
  eff : Mask
  full : Bool
  uni : Bool
  deriving DecidableEq, Repr

/-- A matrix operation in flight (R186). -/
structure MatrixOp where
  group : Nat
  tile : Nat
  base : Nat
  queue : Nat
  count : Nat
  inc : Nat
  /-- `none` for .M64, ROWH for .M32. -/
  rowh : Option Nat
  halves : List Nat
  ty : NumTy
  partner : Bool
  done : Nat
  /-- Ended early, or every step done. -/
  ended : Bool
  deriving DecidableEq, Repr

/-- An instruction queued on a tile datapath, with the operands it read at issue (R174, R184). -/
inductive TileCmd
  | clear (d : Nat) (anchor : Int)
  | shift (d : Nat) (n : Int)
  /-- AROW and the .ACC dot products: per element (row, column) the terms' exact sum and special flags (R167, R187). -/
  | contrib (d : Nat) (items : List (Nat × Nat × Int × Int × Nat))
  | add (d a : Nat)
  | move (d a : Nat)
  /-- SCACC: row scales and column scales, as codes read at issue (R189). -/
  | scale (d a : Nat) (fa fb : FltTy) (rows cols : List Word)
  /-- ARSLV on a group; whether it was issued in a region (R190, R217). -/
  | resolve (g : Nat) (m : ArslvArgs) (inRegion : Bool)
  | canon (d : Nat)
  | compare (g : Nat) (m : AcmpArgs) (thr : List Word)
  | stat (g : Nat) (m : AstatArgs)
  /-- ASAVE (store) and ALOAD: issuing group, address, row, rows left, and the physical runs of the rows as they translated at issue,
  which only order the operation (R194, R251). -/
  | save (g acc : Nat) (addr : DWord) (row left : Nat) (runs : List (Nat × Nat))
  | load (g acc : Nat) (addr : DWord) (row left : Nat) (runs : List (Nat × Nat))
  deriving DecidableEq, Repr

/-- A range of bytes as an operation holds it (R243, R246). -/
inductive Rng
  /-- Translated: its physical runs (key, length). -/
  | runs (l : List (Nat × Nat))
  /-- The `n` bytes at `va` met a leaf with MIG = 1 at `page`: they are translated again when a PTE record covers that address; once one
  has, when the range-lock table has room for them (R287). -/
  | mig (va n : Nat) (page : Option Nat)
  /-- A check failed: its cause, and the address of the first byte that failed (R241, R243). -/
  | bad (cause va : Nat)
  deriving DecidableEq, Repr

/-- A QLD or QST stream (R201, R202): its descriptor, the next record, and the records translated at issue up to the first that
failed, with the address of that one (R203, R243). -/
structure StreamOp where
  group : Nat
  queue : Nat
  store : Bool
  base : DWord
  st1 : BitVec 32
  st2 : BitVec 32
  n : Nat
  n1 : Nat
  w24 : Bool
  col : Nat
  next : Nat
  items : List Rng
  bad : Option DWord
  deriving DecidableEq, Repr

/-- How far an item that needs packets has come: not begun, its source asked for, its writes sent (R301, R304). -/
inductive ItemStage | idle | reading | writing
  deriving DecidableEq, Repr

/-- One work item of an engine operation: its source and destination with their virtual addresses, or the cause and address of its
failure (R243, R282, R295). -/
structure Item where
  src : Rng
  dst : Rng
  sva : Nat
  dva : Nat
  len : Nat
  /-- Group and lane that receive the item's word (CPL, COLL), or the landing position (CPMC). -/
  g : Nat
  lane : Nat
  cause : Nat
  va : DWord
  done : Bool
  /-- Landing dropped (R292). -/
  dropped : Bool
  /-- Engine that carries it (R282, R283). -/
  engine : Nat
  taken : Bool
  /-- Address, peer package and operand or bytes of an item that another package or a station takes (R292, R303, R354), and its
  packets outstanding. -/
  raddr : Nat
  peer : Nat
  val : Nat
  pend : Nat
  stage : ItemStage
  /-- Source bytes that replies have brought, by physical key (R310, R319). -/
  data : Cells Byte
  /-- Elements of a reduction slot that replies have brought, by number: value bits and flags (R321). -/
  elems : Cells (Nat × Nat)
  deriving DecidableEq, Repr

/-- The counter of a PUTSIG (R318, R319): its range here, or its virtual address at the remote package; width; addend. -/
structure SigCounter where
  range : Rng
  raddr : Nat
  w : Nat
  add : Nat
  deriving DecidableEq, Repr

/-- What an engine, fabric or loop operation is (chapters 15, 17, 19, 22). -/
inductive EngKind
  | cpl
  /-- The failure map with its virtual address, and the number of rows (R290). -/
  | cpbox (map : Option (Nat × Rng)) (rows : Nat)
  /-- GRP, ROFF, N and the number of source pieces: the items are those, then one landing for each position (R282, R292). -/
  | cpmc (grp roff n pieces : Nat)
  /-- Target package of a remote transfer; the counter of PUTSIG; phase 0 data, 1 marker, 2 increment sent, 3 applied (R319). -/
  | put (remote : Option Nat) (counter : Option SigCounter) (phase : Nat)
  | get (remote : Option Nat)
  /-- Node, slot, rank, record number of the claim, source, count (R320). A tile source waits in `deps`. -/
  | redm (node slot rank recNo : Nat) (src : RedmSrc) (count : Nat)
  /-- Node, slot, record number of the claim, mode, ANCHOR, element count, type, rounding, SAT (R321). -/
  | redr (node slot recNo : Nat) (rankMode : Bool) (anchor : Int) (elems : Nat) (ty : RedrTy) (rm : Round) (sat : Bool)
  | coll (op : CollOp) (signed : Bool) (w : Nat)
  /-- Key width, N and E; the one item takes KEYS to PERM, and this is OFFS with its range (R357, R358). -/
  | rsort (n16 : Bool) (n e : Nat) (offs : Nat × Rng)
  deriving DecidableEq, Repr

/-- An engine operation (R282, R285). -/
structure EngOp where
  kind : EngKind
  /-- Completion pair's low register; 0 for none (R285). -/
  d : Nat
  /-- Group whose registers receive the word (all its lanes), or per item for CPL and COLL. -/
  group : Nat
  posted : Nat
  items : List Item
  engine : Nat
  /-- Colour of its writes (R289, R290, R319, R354). -/
  col : Nat
  deriving DecidableEq, Repr

/-- What an outstanding operation does (R30). -/
inductive OpKind
  | load (g : Bool) (d : Nat) (ty : MemTy) (groups : List GrpAcc) (lanes : List LaneAcc)
  | store (lanes : List LaneAcc) (col : Nat)
  /-- FN of R273, signed compare, type; `gathered` in the update-only state (R276). -/
  | atom (g : Bool) (op : Nat) (signed : Bool) (ty : IntTy) (d : Nat) (groups : List GrpAcc) (lanes : List LaneAcc)
      (gathered : Bool)
  /-- A FENCE that waits for flush markers (R263, R278). -/
  | fence
  /-- An update-only line on its way to its POOL home: the ATOMs that gave its entries, and the line (R276, R312). -/
  | flush (ids : List Nat) (line : Nat)
  | matrix (m : MatrixOp)
  | tile (c : TileCmd) (half : Nat)
  | stream (st : StreamOp)
  | engine (e : EngOp)
  /-- A loop record; not yet in the tap queue while `queued` is false; its number goes to s[D] of the group (R336). -/
  | bcast (g d : Nat) (record : LoopRecord) (queued : Bool) (seq : Option Nat)
  /-- TSRD.H of a sector and its virtual address (R322). -/
  | tsrd (g d key : Nat) (va : DWord)
  /-- The landing range of a station (R291). -/
  | station (g : Nat)
  deriving DecidableEq, Repr

/-- An outstanding operation (R30, R32, R251 to R253). -/
structure Op where
  id : Nat
  /-- The number of the first operation of its instruction: an instruction that acts once for each group is one operation of R30 and
  R282. -/
  inst : Nat
  team : Nat
  frag : Nat
  thread : Option Nat
  ctx : Nat
  core : Nat
  launch : Nat
  pc : DWord
  /-- Flag number it attaches to (R30). -/
  flag : Option Nat
  /-- Lanes of the issuing fragment (R30). -/
  lanes : List Mask
  /-- Storage it will write (R32). -/
  writes : List RegRef
  scope : Scope
  ord : Ord
  /-- MODEL: operations that must perform before it (R251 to R254, R262), stores among them at level `depLvl`. -/
  deps : List Nat
  depLvl : Nat
  /-- How far a store has performed (R249): 0 not at all, 1 the group's view, 2 the core, 3 the cluster's die; at its home it is no longer
  outstanding. `visAt` is the step in which it came there. -/
  lvl : Nat
  visAt : Nat
  /-- Replies outstanding, and whether its packets have been sent. -/
  pend : Nat
  sent : Bool
  /-- First failure reported by a reply: cause and address. -/
  fail : Option (Nat × DWord)
  /-- Ports on which a release still has to send its flush markers (R263). -/
  markers : List Nat
  /-- Range-lock entries: (first sector, last sector, destination) (R287). -/
  locks : List (Nat × Nat × Bool)
  kind : OpKind
  deriving DecidableEq, Repr

/-! ### Launches, scrubs -/

/-- The stage of a launch at its package (R106 to R111). -/
inductive LaunchStage
  | pending
  /-- The admission CLAIM has been posted (R109). -/
  | claiming
  /-- A refusal CLAIM with this cause has been posted (R110). -/
  | refusing (cause : Nat)
  | admitted
  /-- The completion CLAIM has been posted (R111). -/
  | completing
  /-- Completed; the add to DONE waits on MIG (R111, R246). -/
  | adding
  deriving DecidableEq, Repr

/-- A launch this package admits (R102). -/
structure Launch where
  seq : Nat
  ctx : Nat
  queue : Nat
  slot : Nat
  image : DWord
  params : DWord
  spill : DWord
  gx : Nat
  gy : Nat
  gz : Nat
  nb : Nat
  weight : Nat
  cls : Nat
  serial : Bool
  dies : BitVec 4
  dep : Nat
  done : DWord
  stage : LaunchStage
  kernel : Option Kernel
  /-- Next unit to admit (R108). -/
  nextUnit : Nat
  /-- Memory as it stood at the start of the deterministic round (R226). -/
  roundMem : Option Memory
  deriving DecidableEq, Repr

/-- An amount of a resource in each half-core of a core (R112). -/
structure Per where
  h0 : Nat
  h1 : Nat
  deriving DecidableEq, Repr

/-- Resources of a core released and still being scrubbed (R116, R385): group slots, split-table entries, matrix halves, and slabs,
tiles, barrier slots and queue records of each half-core. -/
structure Scrub where
  id : Nat
  /-- The context that released them, which the scrub is charged to (R374). -/
  ctx : Nat
  core : Nat
  slots : List Nat
  entries : List Nat
  mats : List Nat
  slabs : Per
  tiles : Per
  bars : Per
  records : Per
  deriving DecidableEq, Repr

/-! ### Fabric -/

/-- A packet waiting at an arbiter: input, weight, and the period of the arbiter's clock in which it entered (R117). -/
structure Waiting where
  input : Nat
  weight : Nat
  since : Nat
  pkt : Packet
  deriving DecidableEq, Repr

/-- An arbiter of the on-chip network, a fabric port or the host link (R117). -/
structure Arbiter where
  waiting : List Waiting
  pointer : Nat
  deriving DecidableEq, Repr

/-- One fabric port and the path to its node (R303, R305 to R308). -/
structure Port where
  /-- Enabled at boot and not failed (R20, R305). -/
  up : Bool
  /-- Packets granted and not yet applied by the node, oldest first (R304). -/
  toNode : List Packet
  /-- Replies of the node, oldest first (R304). -/
  fromNode : List Packet
  /-- The link key of each context (R306). -/
  keys : Cells (BitVec 256)
  /-- Packet counters sent toward the node and received from it, per context (R307). -/
  txCount : Cells (BitVec 64)
  rxCount : Cells (BitVec 64)
  /-- Integrity counter and consecutive failures (R308). -/
  integrity : Nat
  consecutive : Nat
  /-- Dropped packets whose retransmission has been asked for, with their direction (R308). -/
  dropped : List (Bool × Packet)
  deriving DecidableEq, Repr

/-- Sector timestamps (R310). -/
structure Stamp where
  wts : BitVec 16
  rts : BitVec 16
  /-- MODEL: the number of the tick of the last access, unwrapped: leases older than 2^15 ticks count as expired (R311). -/
  seen : Nat
  deriving DecidableEq, Repr

/-- An element of a reduction slot: exact-window V, or the FP32 sum in its low bits; flags [0] INX [1] OVF [2] NaN [3] +Inf
[4] −Inf, or in rank-order [0] IX [1] OF [2] NV (R314, R315). -/
structure RedElem where
  v : BitVec 96
  flags : BitVec 5
  deriving DecidableEq, Repr

/-- A reduction slot as the node holds it (R313, R362). -/
structure RedSlot where
  recNo : Nat
  claimed : Bool
  owner : Nat
  rankMode : Bool
  elems : Nat
  anchor : Int
  ranks : Nat
  /-- Ranks that have contributed (R316). -/
  got : List Nat
  /-- Next rank due in rank-order mode, and parked contributions (R315). -/
  due : Nat
  parked : Cells (List (Int × Int × Nat))
  vals : Cells RedElem
  /-- Contributions that have come in part, by sending package and rank: their elements so far (R301). -/
  parts : Cells (List (Int × Int × Nat))
  /-- Requests of REDR that wait for the slot (R321). -/
  waiting : List Packet
  deriving DecidableEq, Repr

/-- A Wildal node as the package meets it (R310 to R316). Its DRAM and trays are in `State.mem`. -/
structure Node where
  /-- Timestamps of the sectors reached so far, by flat sector number (R310, R311). -/
  stamps : Cells Stamp
  /-- Sectors held by the atomic cache, with the number of the tick at which they leave it unless another atomic comes (R312); their bytes
  stand in `State.mem`. -/
  cache : Cells Nat
  /-- Write packets held because their wts lies too far ahead (R311). -/
  heldWrites : List Packet
  /-- Largest wts the packets of this package's path received, and the number of the tick when it came, if any has (R263). -/
  pathWts : Option (BitVec 16 × Nat)
  slots : Cells RedSlot
  deriving DecidableEq, Repr

/-- A lease copy of a POOL or TRAY sector (R310). -/
structure LeaseCopy where
  data : Rec32
  rts : BitVec 16
  deriving DecidableEq, Repr

/-! ### Loop -/

/-- A record queued at the tap (R334): its context, whether the device posted it, the BCAST or doorbell it came from. -/
structure TapEntry where
  ctx : Nat
  dev : Bool
  record : LoopRecord
  op : Option Nat
  fn : Option HostFn
  /-- The cc in which it entered the queue (R117). -/
  since : Nat
  deriving DecidableEq, Repr

/-- An acknowledgement that a PTE record owes (R245): its number, the ACK offset, the context, the entry before with its level and
virtual base, and the operations that were under way. -/
structure PteAck where
  id : Nat
  ack : Nat
  ctx : Nat
  old : Nat
  lvl : Nat
  va : Nat
  ops : List Nat
  deriving DecidableEq, Repr

/-- The tap and what it has received (R327 to R334). -/
structure Loop where
  /-- The tap holds a running loop (R330). -/
  joined : Bool
  /-- It has left the loop after a fetch that did not succeed (R330). -/
  left : Bool
  queue : List TapEntry
  /-- Records of the device and of doorbells that wait for an entry of the queue (R334, R392). -/
  backlog : List TapEntry
  /-- The last 4,096 records this tap has sent, with their numbers, the newest last (R330). -/
  kept : List (Nat × LoopRecord)
  /-- Records received and not yet applied, oldest first. -/
  inbox : List (LoopRecord × Option Nat)
  /-- Number of the last record received and of the last applied (R329, R337). -/
  received : Nat
  applied : Nat
  /-- The head of `inbox` is uncorrectable and being fetched again (R330). -/
  refetch : Bool
  /-- Deficit D(c) and records sent in the present window, in all (R334). -/
  deficit : Cells Nat
  sent : Cells Nat
  /-- Allowance of the present window per context, once a window has begun (R334). -/
  allowance : Cells Nat
  /-- Windows begun (R334). -/
  windows : Nat
  /-- Acknowledgements owed by PTE records (R245). -/
  acks : List PteAck
  /-- Input pointer of the tap arbiter (R117). -/
  pointer : Nat
  deriving DecidableEq, Repr

/-! ### Tier engine, energy, host -/

/-- Copies that the tier engine holds in a tier (R343, R344): the first and the last virtual 32-byte sector, the stamp of the lease among
them that runs out first, and whether sampling made them (R350). -/
structure TierCopy where
  ctx : Nat
  tier : Nat
  first : Nat
  last : Nat
  rts : Option (BitVec 16)
  sample : Bool
  deriving DecidableEq, Repr

/-- The copies of a pin entry of a launch, by virtual sectors (R346, R348). -/
structure TierPin where
  launch : Nat
  ctx : Nat
  tier : Nat
  first : Nat
  last : Nat
  deriving DecidableEq, Repr

/-- A granule counter of the sampling table (R350). -/
structure Counter where
  ctx : Nat
  granule : Nat
  count : Nat
  home : Nat
  deriving DecidableEq, Repr

/-- The tier engine (R343, R350). -/
structure Tiers where
  counters : List Counter
  /-- Copies held, the oldest first. -/
  copies : List TierCopy
  pins : List TierPin
  /-- Group passes counted per core (R350). -/
  passes : Cells Nat
  /-- Times that the counters have been halved (R350). -/
  decays : Nat
  deriving DecidableEq, Repr

/-- Energy accounts, in 2^-16 eu where they carry fractions (R372 to R379). -/
structure Energy where
  /-- Charges of the present interval per context (R376). -/
  live : Cells Nat
  /-- Contexts that have been active in the present interval (R375). -/
  active : List Nat
  /-- ENERGY(c) and ENERGY(DEV) in eu (R372). -/
  total : Cells (BitVec 64)
  totalDev : BitVec 64
  /-- Scale factor 16.16 (R376). -/
  scale : BitVec 32
  /-- KVT of each die, by the number of recomputations (R373). -/
  kvtRound : Nat
  /-- Number of intervals reconciled (R376). -/
  interval : Nat
  /-- Pod time at which the present interval began, and up to which `owned` counts (R375, R376). -/
  begun : Nat
  ownedTo : Nat
  /-- Nanoseconds of the interval for which context c has owned half-core i, under key 384 c + i (R375). -/
  owned : Cells Nat
  /-- QUOTA(v); unlisted is all ones (R378). -/
  quota : Cells (BitVec 64)
  /-- VFs with QX set (R378). -/
  qx : List Nat
  /-- How far the core clock is lowered (R19). -/
  throttle : Nat
  deriving DecidableEq, Repr

/-- An error-log record (R388). -/
structure ErrRec where
  seq : Nat
  kind : Nat
  ctx : Nat
  cause : Nat
  overrun : Bool
  unit : Nat
  addr : DWord
  time : Nat
  deriving DecidableEq, Repr

/-- Resources taken from a context and not yet passed on (R385): half-cores as 2n + h, HBM slices, 2 MiB units of the window. -/
structure OwnerChange where
  id : Nat
  ctx : Nat
  halves : List Nat
  slices : List Nat
  units : List Nat
  deriving DecidableEq, Repr

/-- What the SPDM responder has answered (R396). -/
inductive SpdmReply
  | version (v : Nat)
  | capabilities
  | algorithms (ok : Bool)
  | digests (d : BitVec 256)
  | certificate (bytes : List Byte)
  | challengeAuth (sig : BitVec 512)
  | measurements (items : List (Nat × BitVec 256)) (sig : BitVec 512)
  | keyExchange (pub : BitVec 512)
  | finish
  | error
  deriving DecidableEq, Repr

/-- The SPDM responder (R396): how far the negotiation has come, the session, the answers. -/
structure Spdm where
  stage : Nat
  exchanges : Nat
  session : Bool
  replies : List SpdmReply
  deriving DecidableEq, Repr

/-- The host side (R381 to R395). -/
structure HostIf where
  /-- Boot stage 1 to 7, 0 before the first, and error code (R395; BOOTSTAT of R393). -/
  stage : Nat
  error : Nat
  /-- PKGINFO: package number and node count (R393), and the number of packages (R20). -/
  pkg : Nat
  nodes : Nat
  pkgs : Nat
  /-- Context descriptors (R381). -/
  ctxs : List CtxDesc
  /-- VF to context (R383). -/
  vfmap : Cells Nat
  frozenVfs : List Nat
  /-- Frozen port and context pairs (R389). -/
  frozenPorts : List (Nat × Nat)
  /-- DBERR and DBSEQ per function: the PF under key 0, VF v under v + 1 (R392, R393). -/
  dberr : List Nat
  dbseq : Cells (BitVec 64)
  /-- CMD and CMDSTAT (R393, R394). -/
  cmd : DWord
  cmdstat : DWord
  /-- LROOT(c); unlisted is 0 (R393). -/
  lroot : Cells (BitVec 64)
  /-- LEASE(c); unlisted is 10 (R393). -/
  lease : Cells (BitVec 64)
  /-- MCNT under key 4n + 2h + j (R393). -/
  mcnt : Cells (BitVec 64)
  /-- The PF's failure log (R389, R390); the logs of the contexts stand in memory (R388). -/
  pfLog : List ErrRec
  /-- Records written to each context's ring, and contexts whose full ring has dropped one since (R388). -/
  errSeq : Cells Nat
  errOver : List Nat
  /-- Context fault logs: (context, team, cause, INFO, PC) (R196, R225, R228, R229). -/
  faultLog : List (Nat × Nat × Nat × DWord × DWord)
  /-- The staged firmware image and its verdict (R394, R395). -/
  staged : Option (DWord × Nat × Bool × Nat)
  /-- The security version of the running firmware image, none for the image the package shipped with, and the number of images
  installed since (R395, R396). -/
  version : Option Nat
  installs : Nat
  /-- Owner changes whose scrub has not ended (R385). -/
  changes : List OwnerChange
  /-- Contexts being dissolved, and the final ENERGY of each context number that has been, as the PF's log holds it (R386). -/
  dissolving : List Nat
  finalEnergy : Cells (BitVec 64)
  /-- Link IDE stands (R391). -/
  ideUp : Bool
  /-- ATS invalidations waiting for the operations that use the old translation (R391). -/
  ats : List (List Nat)
  spdm : Spdm
  deriving DecidableEq, Repr

/-! ### The issue latch -/

/-- MODEL: who issues next, chosen by ISSUE_SELECT or ACCESS_ISSUE, and what the step has prepared for exec: the PC reported for
the slot (the lower slot of a pair), the number of the slot itself, the line address, the PC that follows, and in a pair the
registers before it (R24, R29, R93, R195). -/
structure Issue where
  team : Nat
  frag : Nat
  thread : Option Nat
  pc : DWord
  slot : Nat
  line : DWord
  next : DWord
  /-- FA and FB of the clause (R30). -/
  fa : Nat
  fb : Nat
  snap : Option (List Group)
  deriving DecidableEq, Repr

/-- MODEL: how the last instruction ended. -/
inductive Last
  | none
  | retired
  | trapped (cause : Nat) (info : DWord)
  | waited
  deriving DecidableEq, Repr

/-- A contribution held in an update-only line: core and line, flat key of the word, width, FN, signedness, combined value,
context (R276), and the operations that gave it. -/
structure UpdateEntry where
  core : Nat
  line : Nat
  key : Nat
  w : Nat
  fn : Nat
  signed : Bool
  val : Nat
  ctx : Nat
  ops : List Nat
  deriving DecidableEq, Repr

/-- The state of the machine. -/
structure State where
  /-- MODEL: events the agents perform next, oldest first (notes/assumptions/2.md). -/
  agenda : List Instr
  /-- MODEL: the issue latch (notes/assumptions/3.md). -/
  issue : Option Issue
  last : Last
  /-- MODEL: the fragments (team, fragment) whose regions the ticket unit commits next (R226). -/
  forced : List (Nat × Nat)
  /-- MODEL: numbers of the next operation, team, scrub, REGGROW request and step. -/
  nextOp : Nat
  nextTeam : Nat
  nextScrub : Nat
  nextGrow : Nat
  stepNo : Nat
  /-- MODEL: the turn of the events that the machine performs by itself. -/
  turn : Nat
  /-- Core clock periods since reset and pod time in ns (R231). -/
  cc : Nat
  ns : Nat
  /-- Lease ticks of pod time made so far (R309). -/
  ticks : Nat
  mem : Memory
  teams : List Team
  ops : List Op
  launches : List Launch
  scrubs : List Scrub
  /-- Contributions held in the update-only lines of the load/store units (R276). -/
  update : List UpdateEntry
  /-- The package timestamp (R264). -/
  pts : BitVec 16
  copies : Cells LeaseCopy
  ports : List Port
  arbiters : Cells Arbiter
  nodes : Cells Node
  loop : Loop
  /-- Reduction slots a loop record has claimed, as every package knows them (R320, R362). -/
  claims : List SlotClaim
  tiers : Tiers
  energy : Energy
  host : HostIf
  deriving DecidableEq, Repr

/-- Why the machine stops. A closed list. -/
inductive Fault
  /-- An instruction row is executed while no fragment or thread issues. Raised by `execOn` (Machine/Ops.lean). Safe: no hardware
  state corresponds to it, since instructions exist only as issued by a fragment. -/
  | noIssuer
  deriving DecidableEq, Repr

/-- Why the machine refuses a step. A closed list. -/
inductive Refusal
  /-- An instruction with no meaning yet. Raised by no arm of `exec`. Safe. -/
  | notModelled (mnemonic : String)
  /-- The agenda names an instruction row; only events may be scheduled. Raised by `step`. Safe. -/
  | agendaHoldsInstruction
  deriving DecidableEq, Repr

/-- A port after reset: not yet trained, no key, counters zero (R306, R395). -/
def Port.reset : Port :=
  { up := false, toNode := [], fromNode := [], keys := [], txCount := [], rxCount := [], integrity := 0, consecutive := 0,
    dropped := [] }

/-- The machine right after reset (R395): BOOTSTAT 0, before boot stage 1; nothing admitted, every register at its reset value
(R393). -/
def State.reset : State :=
  { agenda := [], issue := none, last := .none, forced := [], nextOp := 0, nextTeam := 0, nextScrub := 0, nextGrow := 0,
    stepNo := 0, turn := 0, cc := 0, ns := 0, ticks := 0, mem := [], teams := [], ops := [], launches := [], scrubs := [], update := [], pts := 0,
    copies := [], ports := List.replicate 32 Port.reset, arbiters := [], nodes := [],
    loop := { joined := false, queue := [], inbox := [], received := 0, applied := 0, refetch := false, deficit := [],
              sent := [], allowance := [], windows := 0, acks := [], pointer := 0, left := false, backlog := [], kept := [] },
    claims := [],
    tiers := { counters := [], copies := [], pins := [], passes := [], decays := 0 },
    energy := { live := [], active := [], total := [], totalDev := 0, scale := 0, kvtRound := 0, interval := 0, begun := 0, ownedTo := 0, owned := [], quota := [],
                qx := [], throttle := 0 },
    host := { stage := 0, error := 0, pkg := 0, nodes := 0, pkgs := 0, ctxs := [], vfmap := [], frozenVfs := [],
              frozenPorts := [], dberr := [], dbseq := [], cmd := 0, cmdstat := 0, lroot := [], lease := [], mcnt := [],
              pfLog := [], errSeq := [], errOver := [], faultLog := [], staged := none, version := none, installs := 0,
              changes := [], dissolving := [], finalEnergy := [], ideUp := false, ats := [],
              spdm := { stage := 0, exchanges := 0, session := false, replies := [] } } }

end Sys2Proof.Machine
end

