-- ==== Sys2Proof/Machine/Cells.lean ====
section
/-! DEFINITION. Sparse tables in canonical form, memory bytes over them, and the mask and byte-order helpers every family uses
(R3, R40; notes/assumptions/4.md). -/

namespace Sys2Proof.Machine
open Sys2Proof

/-! ### Sparse tables -/

/-- The value under key `k`, `d` when unlisted. -/
def cellGet {α : Type} (d : α) : Cells α → Nat → α
  | [], _ => d
  | (j, v) :: t, k => if k < j then d else if k = j then v else cellGet d t k

/-- Set key `k` to `v`, keeping the keys rising and no entry equal to `d`. -/
def cellPut {α : Type} [DecidableEq α] (d : α) : Cells α → Nat → α → Cells α
  | [], k, v => if v = d then [] else [(k, v)]
  | (j, w) :: t, k, v =>
    if k < j then (if v = d then (j, w) :: t else (k, v) :: (j, w) :: t)
    else if k = j then (if v = d then t.dropWhile (fun e => e.1 ≤ k) else (k, v) :: t)
    else (j, w) :: cellPut d t k v

/-- Every key of the table lies above `k`. -/
def cellAbove {α : Type} (k : Nat) : Cells α → Bool
  | [] => true
  | (j, _) :: _ => k < j

/-- The canonical form: keys strictly rising, no entry equal to `d`. -/
def cellWf {α : Type} [DecidableEq α] (d : α) : Cells α → Bool
  | [] => true
  | (k, v) :: t => v != d && cellAbove k t && cellWf d t

/-- Remove every key the predicate rejects. -/
def cellKeep {α : Type} (p : Nat → Bool) (c : Cells α) : Cells α := c.filter fun e => p e.1

/-- The entry under key `k`, if there is one. -/
def tableFind {α : Type} : Cells α → Nat → Option α
  | [], _ => none
  | (j, v) :: t, k => if k < j then none else if k = j then some v else tableFind t k
/-- Set the entry under key `k`, keeping the keys rising. -/
def tablePut {α : Type} : Cells α → Nat → α → Cells α
  | [], k, v => [(k, v)]
  | (j, w) :: t, k, v =>
    if k < j then (k, v) :: (j, w) :: t else if k = j then (k, v) :: t else (j, w) :: tablePut t k v
/-- Remove the entry under key `k`. -/
def tableDrop {α : Type} (c : Cells α) (k : Nat) : Cells α := c.filter fun e => e.1 != k

/-! ### Memory -/

/-- The canonical form of memory: addresses strictly rising, no listed byte equal to the 0 an unlisted one reads as. -/
def Memory.wf (m : Memory) : Bool := cellWf 0#8 m
/-- One byte. -/
def Memory.byte (m : Memory) (a : Nat) : Byte := cellGet 0#8 m a
/-- Write one byte. -/
def Memory.setByte (m : Memory) (a : Nat) (b : Byte) : Memory := cellPut 0#8 m a b
/-- `n` bytes from `a`, little-endian (R3). -/
def Memory.read (m : Memory) (a : Nat) : Nat → Nat
  | 0 => 0
  | n + 1 => (Memory.byte m a).toNat + 256 * Memory.read m (a + 1) n
/-- The low `n` bytes of `v` to `a`, little-endian (R3). -/
def Memory.write (m : Memory) (a : Nat) : Nat → Nat → Memory
  | 0, _ => m
  | n + 1, v => Memory.write (Memory.setByte m a (BitVec.ofNat 8 v)) (a + 1) n (v / 256)
/-- A list of bytes to `a`. -/
def Memory.writeBytes (m : Memory) (a : Nat) : List Byte → Memory
  | [] => m
  | b :: t => Memory.writeBytes (Memory.setByte m a b) (a + 1) t
/-- `n` bytes from `a`. -/
def Memory.bytes (m : Memory) (a n : Nat) : List Byte := (List.range n).map fun i => Memory.byte m (a + i)

/-- Bytes as a number, little-endian (R3). -/
def leNat : List Byte → Nat
  | [] => 0
  | b :: t => b.toNat + 256 * leNat t
/-- The low `n` bytes of a number, little-endian (R3). -/
def natLe : Nat → Nat → List Byte
  | 0, _ => []
  | n + 1, v => BitVec.ofNat 8 v :: natLe n (v / 256)
/-- Bits [h:l] of a number, `n` bits from `l`. -/
def natBits (v l n : Nat) : Nat := v / 2 ^ l % 2 ^ n
/-- A number read as `n`-bit two's complement. -/
def natSigned (n v : Nat) : Int := if v % 2 ^ n < 2 ^ (n - 1) then (v % 2 ^ n : Nat) else (v % 2 ^ n : Nat) - (2 ^ n : Nat)
/-- An integer as an `n`-bit pattern (wrap of R55). -/
def intBits (n : Nat) (v : Int) : Nat := (v % (2 ^ n : Nat)).toNat
/-- sext of R55, from `n` bits to 64. -/
def sext64 {n : Nat} (v : BitVec n) : DWord := v.signExtend 64

/-! ### Masks -/

/-- The lanes set in a mask, ascending. -/
def maskLanes (m : Mask) : List Nat := laneList.filter fun i => m.getLsbD i
/-- The mask of one lane. -/
def laneBit (i : Nat) : Mask := BitVec.ofNat 64 (2 ^ i)
/-- The mask of the lanes for which `p` holds. -/
def maskOf (p : Nat → Bool) : Mask := laneList.foldl (fun m i => if p i then m ||| laneBit i else m) 0
/-- The number of set bits. -/
def popCount (m : Mask) : Nat := (maskLanes m).length
/-- The lowest set lane. -/
def lowestLane (m : Mask) : Option Nat := (maskLanes m).head?
/-- Masks of the groups, empty for a group not listed. -/
def maskAt (l : List Mask) (g : Nat) : Mask := l.getD g 0
/-- Replace the mask of group `g`. -/
def maskSet (l : List Mask) (g : Nat) (m : Mask) : List Mask := l.set g m
/-- Lane-wise combination of two hierarchical masks over the groups of the first. -/
def maskZip (f : Mask → Mask → Mask) (a b : List Mask) : List Mask := a.mapIdx fun g m => f m (maskAt b g)
/-- Intersection, union and difference of hierarchical masks. -/
def masksAnd (a b : List Mask) : List Mask := maskZip (fun x y => x &&& y) a b
/-- Union. -/
def masksOr (a b : List Mask) : List Mask := maskZip (fun x y => x ||| y) a b
/-- Difference. -/
def masksDiff (a b : List Mask) : List Mask := maskZip (fun x y => x &&& ~~~y) a b
/-- No lane. -/
def masksNone (a : List Mask) : Bool := a.all fun m => m == 0
/-- The groups with a lane, ascending. -/
def maskGroups (a : List Mask) : List Nat := (List.range a.length).filter fun g => maskAt a g != 0
/-- The lowest team lane 64 g + j of a hierarchical mask (R77), 1024 when there is none. -/
def lowestTeamLane (a : List Mask) : Nat :=
  match maskGroups a with
  | [] => 1024
  | g :: _ => 64 * g + (lowestLane (maskAt a g)).getD 0

end Sys2Proof.Machine
end

