-- ==== Sys2Proof/Machine/Memory.lean ====
section
/-! DEFINITION. Address spaces, the table walk, and the checks of one address (R233 to R246, R333, R359): a virtual address
becomes a flat physical key, a fault cause, or a wait on MIG. -/

namespace Sys2Proof.Machine
open Sys2Proof

/-- Codes of the physical spaces (R234). -/
def spHBM : Nat := 0
/-- Chip SRAM window. -/
def spSRAM : Nat := 1
/-- Pool. -/
def spPOOL : Nat := 2
/-- Memory trays. -/
def spTRAY : Nat := 3
/-- Ensign memory. -/
def spENS : Nat := 4
/-- Host memory. -/
def spHOST : Nat := 5

/-- The flat key of a physical address (notes/assumptions/4.md). -/
def flatKey (space off : Nat) : Nat := space * 2 ^ 58 + off
/-- The space of a flat key. -/
def keySpace (k : Nat) : Nat := k / 2 ^ 58
/-- The offset of a flat key. -/
def keyOff (k : Nat) : Nat := k % 2 ^ 58
/-- The flat 32-byte sector of a key. -/
def keySector (k : Nat) : Nat := k / 32
/-- A key that names memory behind a Wildal node (R234). -/
def keyPooled (k : Nat) : Bool := keySpace k == spPOOL || keySpace k == spTRAY
/-- The node of a POOL or TRAY key (R234). -/
def keyNode (k : Nat) : Nat := if keySpace k == spPOOL then keyOff k / 2 ^ 42 else keyOff k / 2 ^ 50
/-- A flat key in ensign memory. -/
def ensKey (off : Nat) : Nat := flatKey spENS off
/-- An 8-byte word of ensign memory. -/
def State.ens64 (s : State) (off : Nat) : Nat := Memory.read s.mem (ensKey off) 8

/-- The descriptor of a context at this package (R381). -/
def State.ctxDesc (s : State) (c : Nat) : Option CtxDesc := s.host.ctxs.find? fun d => d.ctx == c
/-- The context owns half-core h of core n (R112, R381). A child's half-cores are not its parent's while it exists (R382), and a
resource being scrubbed belongs to nobody yet (R385). -/
def State.ownsHalf (s : State) (c core h : Nat) : Bool :=
  match s.ctxDesc c with
  | none => false
  | some d => d.halfmap.getLsbD (2 * core + h) && !(s.host.changes.any fun x => x.halves.contains (2 * core + h)) &&
      s.host.ctxs.all fun k => k.parent != some c || !k.halfmap.getLsbD (2 * core + h)
/-- The context may address an HBM offset (R234, R382). -/
def State.ownsHbm (s : State) (c off : Nat) : Bool :=
  match s.ctxDesc c with
  | none => false
  | some d => d.hbmmap.getLsbD (off / 2 ^ 30) && !(s.host.changes.any fun x => x.slices.contains (off / 2 ^ 30)) &&
      s.host.ctxs.all fun k => k.parent != some c || !k.hbmmap.getLsbD (off / 2 ^ 30)
/-- The context may address an offset of the chip SRAM window (R234, R235, R382). -/
def State.ownsSram (s : State) (c off : Nat) : Bool :=
  let u := off / 2 ^ 21
  match s.ctxDesc c with
  | none => false
  | some d => d.winbase ≤ u && u < d.winbase + d.window && !(s.host.changes.any fun x => x.units.contains u) &&
      s.host.ctxs.all fun k => k.parent != some c || !(k.winbase ≤ u && u < k.winbase + k.window)
/-- A shared table frame granted to the context (R237, R381). -/
def State.ownsFrame (s : State) (c addr : Nat) : Bool :=
  match s.ctxDesc c with
  | none => false
  | some d => 0x01580000 ≤ addr && addr < 0x02000000 && d.frbase ≤ (addr - 0x01580000) / 4096 &&
      (addr - 0x01580000) / 4096 < d.frbase + d.frcount
/-- Ensign offsets that loads of a context may read (R333, R103, R359). -/
def State.ensReadable (s : State) (c off : Nat) : Bool :=
  (0x1000 + 64 * c ≤ off && off < 0x1000 + 64 * (c + 1)) ||
  (0x100000 + c * 0x40000 ≤ off && off < 0x100000 + (c + 1) * 0x40000) ||
  (0xD00000 ≤ off && off < 0xE00000) ||
  (0xF00000 + c * 0x1000 ≤ off && off < 0xF00000 + (c + 1) * 0x1000) ||
  (0x1000000 + c * 0x4000 ≤ off && off < 0x1000000 + (c + 1) * 0x4000) ||
  (0x1100000 + c * 0x10000 ≤ off && off < 0x1100000 + (c + 1) * 0x10000) ||
  (0x1400000 + c * 0x8000 ≤ off && off < 0x1400000 + (c + 1) * 0x8000) ||
  s.ownsFrame c off

/-- The span of an entry (R237). -/
def levelShift (lvl : Nat) : Nat := if lvl == 3 then 39 else if lvl == 2 then 30 else if lvl == 1 then 21 else 16
/-- The index of an address at a level (R237). -/
def levelIndex (va lvl : Nat) : Nat :=
  if lvl == 3 then natBits va 39 12 else if lvl == 2 then natBits va 30 9 else if lvl == 1 then natBits va 21 9
  else natBits va 16 5
/-- The alignment of the table that an entry at `lvl` names (R237). -/
def nextAlign (lvl : Nat) : Nat := if lvl == 1 then 256 else 4096

/-- A malformed entry (R240). -/
def State.malformed (s : State) (c : Nat) (shared : Bool) (lvl e : Nat) : Bool :=
  if natBits e 1 1 == 1 then
    let sp := natBits e 2 3
    let ilv := natBits e 9 3
    let pa := natBits e 16 42 * 2 ^ 16
    let share := 2 ^ (levelShift lvl) / 2 ^ ilv
    natBits e 58 6 != 0 || natBits e 13 3 != 0 || lvl == 3 || (lvl == 0 && shared) || sp ≥ 6 || ilv ≥ 6 ||
      (ilv != 0 && sp != spPOOL) || pa % share != 0 || (ilv != 0 && (natBits pa 42 5 % 2 ^ ilv != 0 || share < 4096))
  else
    let next := natBits e 8 50 * 2 ^ 8
    natBits e 58 6 != 0 || natBits e 2 6 != 0 || lvl == 0 || next % nextAlign lvl != 0 ||
      (shared && !s.ownsFrame c next)

/-- A leaf found by a walk: the entry, its level and the virtual address. -/
structure Leaf where
  e : Nat
  lvl : Nat
  va : Nat
  deriving DecidableEq, Repr

/-- The walk of R239 from table `t` at level `lvl`. -/
def State.walkFrom (s : State) (c : Nat) (shared : Bool) (va : Nat) : Nat → Nat → Option Leaf
  | 0, t =>
    let e := Memory.read s.mem (flatKey (if shared then spENS else spHBM) (t + 8 * levelIndex va 0)) 8
    if natBits e 0 1 == 0 || s.malformed c shared 0 e then none else some ⟨e, 0, va⟩
  | lvl + 1, t =>
    let e := Memory.read s.mem (flatKey (if shared then spENS else spHBM) (t + 8 * levelIndex va (lvl + 1))) 8
    if natBits e 0 1 == 0 || s.malformed c shared (lvl + 1) e then none
    else if natBits e 1 1 == 1 then some ⟨e, lvl + 1, va⟩
    else s.walkFrom c shared va lvl (natBits e 8 50 * 2 ^ 8)
/-- The root of a half (R237). -/
def State.root (s : State) (c : Nat) (shared : Bool) : Nat :=
  if shared then 0x1400000 + c * 0x8000 else (cellGet 0 s.host.lroot c).toNat
/-- The translation of an address: R233, then the walk of R239. -/
def State.walk (s : State) (c va : Nat) : Option Leaf :=
  if va / 2 ^ 52 != 0 then none
  else let shared := natBits va 51 1 == 1
    s.walkFrom c shared va 3 (s.root c shared)

/-- The space of a leaf. -/
def Leaf.space (l : Leaf) : Nat := natBits l.e 2 3
/-- The physical offset of a leaf's address, with the interleave of R236. -/
def Leaf.off (l : Leaf) : Nat :=
  let pa := natBits l.e 16 42 * 2 ^ 16
  let o := l.va % 2 ^ levelShift l.lvl
  let k := natBits l.e 9 3
  if k == 0 then pa + o
  else
    let b := o / 4096
    (natBits pa 42 5 + b % 2 ^ k) * 2 ^ 42 + (pa % 2 ^ 42 + b / 2 ^ k * 4096 + o % 4096)
/-- The flat key of a leaf's address. -/
def Leaf.key (l : Leaf) : Nat := flatKey l.space l.off

/-- The kind of an access (R241). -/
inductive AccKind | load | store | atomic | fetch
  deriving DecidableEq, Repr

/-- The access column of R234. -/
def spaceAllows (sp : Nat) (shared : Bool) (k : AccKind) : Bool :=
  (!shared || sp == spPOOL || sp == spTRAY || sp == spENS) &&
  match k with
  | .load => sp ≤ spHOST
  | .store => sp ≤ spHOST && sp != spENS
  | .atomic => sp ≤ spPOOL
  | .fetch => sp ≤ spPOOL
/-- R, W and X of a leaf (R238, R241). -/
def Leaf.allows (l : Leaf) (k : AccKind) : Bool :=
  match k with
  | .load => natBits l.e 5 1 == 1
  | .store => natBits l.e 6 1 == 1
  | .atomic => natBits l.e 5 1 == 1 && natBits l.e 6 1 == 1
  | .fetch => natBits l.e 7 1 == 1
/-- The bounds of R234 and R236 for an offset of a space. -/
def State.inBounds (s : State) (c sp off : Nat) : Bool :=
  if sp == spHBM then off < Config.hbmBytes && s.ownsHbm c off
  else if sp == spSRAM then off < Config.sramBytes && s.ownsSram c off
  else if sp == spPOOL then off / 2 ^ 42 < s.host.nodes && off % 2 ^ 42 < Config.nodeBytes
  else if sp == spTRAY then
    off / 2 ^ 50 < s.host.nodes && Config.tray (off / 2 ^ 50) (natBits off 46 4) && off % 2 ^ 46 < Config.trayBytes
  else if sp == spENS then off < Config.ensBytes && s.ensReadable c off
  else off < 2 ^ 58

/-- Packets of a context can pass a port (R305, R306, R389): up, key installed, the pair not frozen. -/
def State.portOpen (s : State) (c p : Nat) : Bool :=
  match s.ports[p]? with
  | none => false
  | some x => x.up && (tableFind x.keys c).isSome && !s.host.frozenPorts.contains (p, c)
/-- The nodes that hold shares of a leaf's page (R236). -/
def Leaf.nodes (l : Leaf) : List Nat :=
  if l.space == spPOOL then (List.range (2 ^ natBits l.e 9 3)).map fun k => keyNode (flatKey spPOOL (natBits l.e 16 42 * 2 ^ 16)) + k
  else if l.space == spTRAY then [keyNode l.key]
  else []
/-- The page can be reached: the ports of its nodes are open (R305, R306), and link IDE stands where the PF requires it (R391). -/
def State.reachable (s : State) (c : Nat) (l : Leaf) : Bool :=
  (l.nodes.all fun p => s.portOpen c p) && (l.space != spHOST || !Config.ideRequired || s.host.ideUp)

/-- The outcome of the checks of R241 on one address. -/
inductive Xlat
  | ok (key : Nat) (leaf : Leaf)
  | fault (cause : Nat)
  | mig
  deriving DecidableEq, Repr

/-- The checks of R241 in their order, for an access of `n` bytes aligned on `al`. -/
def State.check (s : State) (c : Nat) (k : AccKind) (al va : Nat) : Xlat :=
  if va % al != 0 then .fault 0x22
  else match s.walk c va with
    | none => .fault 0x20
    | some l =>
      if !(l.allows k && spaceAllows l.space (natBits va 51 1 == 1) k) then .fault 0x21
      else if !s.inBounds c l.space l.off || !s.reachable c l then .fault 0x21
      else if natBits l.e 12 1 == 1 then .mig
      else .ok l.key l

/-- Runs of bytes (flat key, length) overlap. -/
def runsMeet (a b : List (Nat × Nat)) : Bool :=
  a.any fun x => b.any fun y => x.1 < y.1 + y.2 && y.1 < x.1 + x.2
/-- The run in whole sectors, rounded outward (R287): first and last flat sector. -/
def runSectors (x : Nat × Nat) : Nat × Nat := (x.1 / 32, (x.1 + x.2 - 1) / 32)

/-- Entries of the range-lock table in use (R287). -/
def State.locksUsed (s : State) : Nat := s.ops.foldl (fun n o => n + o.locks.length) 0
/-- An access to a run conflicts with a registered range (R261). -/
def State.lockConflict (s : State) (store : Bool) (x : Nat × Nat) : Bool :=
  s.ops.any fun o => o.locks.any fun l =>
    (store || l.2.2) && l.1 ≤ (runSectors x).2 && (runSectors x).1 ≤ l.2.1

/-! ### Ranges (R243, R246, R287) -/

/-- Bytes of a page that lie together in memory: the page, or a 4 KiB block of an interleaved one (R236). -/
def Leaf.piece (l : Leaf) : Nat := if natBits l.e 9 3 == 0 then 2 ^ levelShift l.lvl else 4096
/-- The unit in which the bounds of a space change (R234, R236, R333). -/
def boundUnit (sp : Nat) : Nat := if sp == spSRAM then 2 ^ 21 else if sp == spENS then 64 else 2 ^ 30
/-- The first byte of `n` at an offset of a space that is out of bounds, counted from the first byte. -/
def State.firstOut (s : State) (c sp off n : Nat) : Option Nat :=
  let u := boundUnit sp
  ((List.range ((off % u + n + u - 1) / u)).map fun k => max off (off / u * u + k * u)).findSome? fun a =>
    if s.inBounds c sp a then none else some (a - off)
/-- The physical runs of `n` bytes at `va` for an access, piece by piece; or the first byte that fails (R241), or that meets MIG. -/
def State.rangeFrom (s : State) (c : Nat) (k : AccKind) (va0 n0 va : Nat) : Nat → Nat → Rng
  | 0, _ => .runs []
  | fuel + 1, n =>
    if n == 0 then .runs []
    else match s.check c k 1 va with
      | .fault cause => .bad cause va
      | .mig => .mig va0 n0 (some va)
      | .ok key l =>
        let here := min n (l.piece - va % l.piece)
        match s.firstOut c l.space (keyOff key) here with
        | some d => .bad 0x21 (va + d)
        | none =>
          match State.rangeFrom s c k va0 n0 (va + here) fuel (n - here) with
          | .runs t => .runs ((key, here) :: t)
          | r => r
/-- A whole range (R243). -/
def State.range (s : State) (c : Nat) (k : AccKind) (va n : Nat) : Rng := s.rangeFrom c k va n va (n / 4096 + 2) n
/-- A range whose first byte must lie on a multiple of `al` (R241). -/
def State.rangeOn (s : State) (c : Nat) (k : AccKind) (al va n : Nat) : Rng :=
  if va % al != 0 then .bad 0x22 va else s.range c k va n
/-- The runs known of a range. -/
def Rng.known : Rng → List (Nat × Nat)
  | .runs l => l
  | _ => []
/-- The page of an address: its level and number (R237). -/
def State.pageOf (s : State) (c va : Nat) : Nat × Nat :=
  match s.walk c va with
  | none => (4, va)
  | some l => (l.lvl, va / 2 ^ levelShift l.lvl)
/-- The sectors of a range that starts at `va`, each stretch with its page (R287). -/
def State.rangeSectors (s : State) (c va : Nat) : List (Nat × Nat) → List ((Nat × Nat) × (Nat × Nat))
  | [] => []
  | x :: t => (if x.2 == 0 then [] else [(s.pageOf c va, runSectors x)]) ++ s.rangeSectors c (va + x.2) t
/-- Insert a stretch of sectors into ascending ones, joining what meets or follows directly. -/
def insertStretch (x : Nat × Nat) : List (Nat × Nat) → List (Nat × Nat)
  | [] => [x]
  | y :: t =>
    if x.2 + 1 < y.1 then x :: y :: t
    else if y.2 + 1 < x.1 then y :: insertStretch x t
    else insertStretch (min x.1 y.1, max x.2 y.2) t
/-- What is left of a stretch of sectors outside another. -/
def cutStretch (k x : Nat × Nat) : List (Nat × Nat) :=
  if k.2 < x.1 || x.2 < k.1 then [x]
  else (if x.1 < k.1 then [(x.1, k.1 - 1)] else []) ++ (if k.2 < x.2 then [(k.2 + 1, x.2)] else [])
/-- What is left of stretches outside others. -/
def outside (ks xs : List (Nat × Nat)) : List (Nat × Nat) := ks.foldl (fun xs k => xs.flatMap (cutStretch k)) xs
/-- How much stretches cover, what they share counted once. -/
def stretchSize (l : List (Nat × Nat)) : Nat := (l.foldr insertStretch []).foldl (fun n x => n + (x.2 + 1 - x.1)) 0
/-- The range-lock entries of ranges on one side of an operation, each with its virtual address (R287): whole sectors, one entry for each
run of consecutive sectors within one page. -/
def State.lockSet (s : State) (c : Nat) (dst : Bool) (l : List (Nat × Rng)) : List (Nat × Nat × Bool) :=
  let xs := l.flatMap fun r => s.rangeSectors c r.1 r.2.known
  ((xs.map fun x => x.1).eraseDups).flatMap fun p =>
    (((xs.filter fun x => x.1 == p).map fun x => x.2).foldr insertStretch []).map fun x => (x.1, x.2, dst)
/-- The first byte of a range at `va` that lies in neither POOL nor TRAY. -/
def firstUnpooled (va : Nat) : List (Nat × Nat) → Option Nat
  | [] => none
  | r :: t => if keyPooled r.1 then firstUnpooled (va + r.2) t else some va
/-- A range that must lie in POOL or TRAY (R318). -/
def Rng.pooled (va : Nat) (r : Rng) : Rng :=
  match r with
  | .runs l => (match firstUnpooled va l with | some a => .bad 0x21 a | none => .runs l)
  | r => r
/-- A range that must lie in HBM or SRAM (R318, R354). -/
def Rng.inPackage (va : Nat) (r : Rng) : Rng :=
  match r with
  | .runs l => if l.all fun x => keySpace x.1 == spHBM || keySpace x.1 == spSRAM then .runs l else .bad 0x21 va
  | r => r
/-- An item whose source or destination has failed a check has failed with its cause (R243, R295). -/
def Item.judge (i : Item) : Item :=
  if i.cause != 0 then i
  else match i.src, i.dst with
    | .bad c va, _ => { i with cause := c, va := BitVec.ofNat 64 va, done := true }
    | _, .bad c va => { i with cause := c, va := BitVec.ofNat 64 va, done := true }
    | _, _ => i
/-- Change every range of an operation that may wait on MIG: `f` takes the kind of access and the range. What must lie in POOL or TRAY, or
within the package, is looked at again. -/
def Op.mapRngs (f : AccKind → Rng → Rng) (o : Op) : Op :=
  match o.kind with
  | .stream st => { o with kind := .stream { st with items := st.items.map (f (if st.store then .store else .load)) } }
  | .engine e =>
    let item (ps pd home : Bool) (i : Item) : Item :=
      let dk : AccKind := if home then .atomic else .store
      let src := f .load i.src
      let dst := f dk i.dst
      ({ i with src := if ps then src.pooled i.sva else src,
                dst := if pd then dst.pooled i.dva else if home then dst.inPackage i.dva else dst } : Item).judge
    let (kind, ps, pd, home) : EngKind × Bool × Bool × Bool := match e.kind with
      | .cpbox (some m) n => (.cpbox (some (m.1, f .store m.2)) n, false, false, false)
      | .rsort n16 n ex offs => (.rsort n16 n ex (offs.1, f .store offs.2), false, false, false)
      | .put none (some c) p => (.put none (some { c with range := (f .atomic c.range).pooled c.raddr }) p, false, true, false)
      | .put none none p => (.put none none p, false, true, false)
      | .get none => (.get none, true, false, false)
      | .coll op sg w => (.coll op sg w, false, false, true)
      | k => (k, false, false, false)
    let items := e.items.map (item ps pd home)
    { o with fail := (match o.fail with
        | some x => some x
        | none => (items.find? fun i => i.cause != 0).map fun i => (i.cause, i.va)),
             kind := .engine { e with kind := kind, items := items } }
  | _ => o
/-- The ranges that an operation registers, with their virtual addresses: sources, then destinations (R287, R318). Lanes of a COLL are not
registered (notes/assumptions/84.md). -/
def Op.lockRngs (o : Op) : List (Nat × Rng) × List (Nat × Rng) :=
  match o.kind with
  | .stream st =>
    let l := st.items.zipIdx.map fun x => (intBits 64 (st.base.toNat + (x.2 % st.n1 : Nat) * st.st1.toInt + (x.2 / st.n1 : Nat) * st.st2.toInt), x.1)
    if st.store then ([], l) else (l, [])
  | .engine e =>
    (match e.kind with
     | .coll .. => ([], [])
     | k => (e.items.map fun i => (i.sva, i.src), (e.items.map fun i => (i.dva, i.dst)) ++ (match k with
         | .cpbox (some m) _ => [m]
         | .rsort _ _ _ offs => [offs]
         | _ => [])))
  | _ => ([], [])
/-- The entries of an operation's ranges. -/
def State.locksOf (s : State) (o : Op) : List (Nat × Nat × Bool) :=
  s.lockSet o.ctx false o.lockRngs.1 ++ s.lockSet o.ctx true o.lockRngs.2
/-- Translate again the ranges of an operation that `due` names, and register them (R246, R287); while the table lacks room they wait for
it. -/
def State.settleOp (s : State) (due : Option Nat → Bool) (o : Op) : State :=
  let put (o : Op) : State := { s with ops := s.ops.map fun x => if x.id == o.id then o else x }
  let again (k : AccKind) (r : Rng) : Rng := match r with
    | .mig va n p => if due p then s.range o.ctx k va n else r
    | r => r
  let later (r : Rng) : Rng := match r with
    | .mig va n p => if due p then .mig va n none else r
    | r => r
  let x := o.mapRngs again
  let locks := s.locksOf x
  if x == o then s
  else if Config.rangeLocks < s.locksUsed - o.locks.length + locks.length then put (o.mapRngs fun _ r => later r)
  else put { x with locks := locks }
/-- Insert into an ascending list. -/
def insertNat (n : Nat) : List Nat → List Nat
  | [] => [n]
  | m :: l => if n ≤ m then n :: m :: l else m :: insertNat n l
/-- Numbers in ascending order. -/
def sortNat (l : List Nat) : List Nat := l.foldr insertNat []
/-- The keys of the bytes of runs, in order. -/
def runKeys (runs : List (Nat × Nat)) : List Nat := runs.flatMap fun r => (List.range r.2).map fun i => r.1 + i
/-- Bytes of runs with others laid over them, the last for a byte counting. -/
def overlay (runs : List (Nat × Nat)) (bytes : List Byte) (top : List (Nat × Byte)) : List Byte :=
  (runKeys runs).zipIdx.map fun x =>
    match top.reverse.find? fun f => f.1 == x.1 with
    | some f => f.2
    | none => bytes.getD x.2 0
/-- Bytes of a list of runs, in order. -/
def Memory.runBytes (m : Memory) (runs : List (Nat × Nat)) : List Byte :=
  runs.flatMap fun r => Memory.bytes m r.1 r.2
/-- Write bytes to a list of runs, in order. -/
def Memory.writeRuns (m : Memory) : List (Nat × Nat) → List Byte → Memory
  | [], _ => m
  | r :: t, bs => Memory.writeRuns (Memory.writeBytes m r.1 (bs.take r.2)) t (bs.drop r.2)

/-- MIG waits end when a PTE record whose span covers the address is applied (R246). -/
def spanCovers (base lvl va : Nat) : Bool := base / 2 ^ levelShift lvl == va / 2 ^ levelShift lvl

end Sys2Proof.Machine
end

