-- ==== Sys2Proof/Machine/Ops.lean ====
section
/-! DEFINITION. The named operations over registers, fragments and outstanding operations that every meaning is built from:
lookups, register accessors (R118), the issuer, FSTAT (R74, R75), outstanding operations and their order (R30, R251 to R254),
where a store has performed (R249, R255), regions (R216 to R220), frames and fusion (R85 to R87), taking a trap
and returning from one (R228 to R231), and the frame in which an instruction executes (R46 checks 5 and 6). -/

namespace Sys2Proof.Machine
open Sys2Proof

/-! ### Lookups -/

/-- The team with an id. -/
def State.teamAt (s : State) (id : Nat) : Option Team := s.teams.find? fun t => t.id == id
/-- Replace a team. -/
def State.putTeam (s : State) (t : Team) : State := { s with teams := s.teams.map fun x => if x.id == t.id then t else x }
/-- Update a team, if it is there. -/
def State.onTeam (s : State) (id : Nat) (f : Team → Team) : State :=
  { s with teams := s.teams.map fun x => if x.id == id then f x else x }
/-- The teams resident on a core: those that are not saved. -/
def Team.resident (t : Team) : Bool :=
  match t.phase with
  | .saved => false
  | _ => true
/-- The teams on a core. -/
def State.onCore (s : State) (core : Nat) : List Team := s.teams.filter fun t => t.core == core && t.resident
/-- A fragment by id. -/
def Team.fragAt (t : Team) (id : Nat) : Option Fragment := t.frags.find? fun f => f.id == id
/-- Replace a fragment. -/
def Team.putFrag (t : Team) (f : Fragment) : Team := { t with frags := t.frags.map fun x => if x.id == f.id then f else x }
/-- A frame by number. -/
def Team.frameAt (t : Team) (n : Nat) : Option Frame := t.frames.find? fun f => f.num == n
/-- The access thread of a group. -/
def Team.threadAt (t : Team) (g : Nat) : Option Thread := t.threads.find? fun x => x.group == g
/-- Replace an access thread. -/
def Team.putThread (t : Team) (x : Thread) : Team :=
  { t with threads := t.threads.map fun y => if y.group == x.group then x else y }
/-- An undefined queue (R198). -/
def Queue.none : Queue := { depth := 0, rec0 := 0, store := false, fault := false, recs := [] }
/-- A group as R115 starts it, in slot `slot`. -/
def Group.fresh (genmax slot : Nat) : Group :=
  { s := [], v := [], fstat := 0, genmax := genmax, exited := 0, queues := List.replicate 8 Queue.none, station := none,
    slot := slot }
/-- Group `g` of a team. -/
def Team.group (t : Team) (g : Nat) : Group := t.groups.getD g (Group.fresh 0 0)
/-- Update group `g`. -/
def Team.onGroup (t : Team) (g : Nat) (f : Group → Group) : Team := { t with groups := t.groups.set g (f (t.group g)) }
/-- Update a group of a team. -/
def State.onGroup (s : State) (id g : Nat) (f : Group → Group) : State := s.onTeam id fun t => t.onGroup g f
/-- Queue `q` of a group. -/
def Group.queue (x : Group) (q : Nat) : Queue := x.queues.getD q Queue.none
/-- Update queue `q`. -/
def Group.onQueue (x : Group) (q : Nat) (f : Queue → Queue) : Group := { x with queues := x.queues.set q (f (x.queue q)) }
/-- The launch of a team is inside a round of deterministic mode (R226). -/
def State.inRound (s : State) (t : Team) : Bool :=
  match s.launches.find? fun l => l.seq == t.launch with
  | none => false
  | some l => l.roundMem.isSome
/-- A deterministic team between the start of a round and the end of its commits: what would become visible to other fragments waits for
the ticket unit (R226). -/
def State.detHold (s : State) (t : Team) : Bool :=
  t.kernel.determ && (s.inRound t || s.forced.any fun p => s.teams.any fun x => x.id == p.1 && x.launch == t.launch)
/-- An operation by id. -/
def State.opAt (s : State) (id : Nat) : Option Op := s.ops.find? fun o => o.id == id
/-- Replace an operation. -/
def State.putOp (s : State) (o : Op) : State := { s with ops := s.ops.map fun x => if x.id == o.id then o else x }
/-- End an operation. -/
def State.endOp (s : State) (id : Nat) : State := { s with ops := s.ops.filter fun o => o.id != id }
/-- The launch with a sequence number. -/
def State.launchAt (s : State) (seq : Nat) : Option Launch := s.launches.find? fun l => l.seq == seq
/-- Replace a launch. -/
def State.putLaunch (s : State) (l : Launch) : State :=
  { s with launches := s.launches.map fun x => if x.seq == l.seq then l else x }

/-! ### Registers -/

/-- The value of lane i of a vector register (R120). -/
def VReg.lane : VReg → Nat → Word
  | .uniform u, _ => u
  | .affine b d, i => b + d * BitVec.ofNat 32 i
  | .general l, i => l.getD i 0
/-- The tag code (R120). -/
def VReg.tag : VReg → Nat
  | .uniform _ => 0
  | .affine _ _ => 1
  | .general _ => 2
/-- The general tag. -/
def VReg.isGeneral (v : VReg) : Bool := v.tag == 2
/-- The uniform tag. -/
def VReg.isUniform (v : VReg) : Bool := v.tag == 0
/-- A general register from a function of the lane. -/
def VReg.ofLanes (f : Nat → Word) : VReg := .general (laneList.map f)

/-- s[r] of a group; s0 reads as 0 (R118). -/
def Group.sget (x : Group) (r : Nat) : DWord := if r == 0 then 0 else cellGet 0 x.s r
/-- s[r] ← v; a write to s0 is discarded (R118). -/
def Group.sput (x : Group) (r : Nat) (v : DWord) : Group := if r == 0 then x else { x with s := cellPut 0 x.s r v }
/-- v[r] of a group; v0 reads as uniform 0 (R118). -/
def Group.vget (x : Group) (r : Nat) : VReg := if r == 0 then .uniform 0 else cellGet (.uniform 0) x.v r
/-- v[r] ← v; a write to v0 is discarded (R118). -/
def Group.vput (x : Group) (r : Nat) (v : VReg) : Group := if r == 0 then x else { x with v := cellPut (.uniform 0) x.v r v }
/-- s[r] of an access thread (R195). -/
def Thread.sget (x : Thread) (r : Nat) : DWord := if r == 0 then 0 else cellGet 0 x.s r
/-- s[r] of an access thread ← v. -/
def Thread.sput (x : Thread) (r : Nat) (v : DWord) : Thread := if r == 0 then x else { x with s := cellPut 0 x.s r v }

/-! ### The issuer -/

/-- The issuer of an instruction: the latch, its team, and its fragment or access thread (R93, R195). -/
structure Who where
  iss : Issue
  team : Team
  frag : Fragment
  thr : Option Thread
  deriving DecidableEq, Repr

/-- The issuer that the latch names. -/
def State.who (s : State) : Option Who :=
  match s.issue with
  | none => none
  | some iss =>
    match s.teamAt iss.team with
    | none => none
    | some t =>
      match iss.thread with
      | none => (t.fragAt iss.frag).map fun f => ⟨iss, t, f, none⟩
      | some g => (t.threadAt g).map fun x => ⟨iss, t, x.frag, some x⟩

/-- The groups as the instruction reads them: in a pair, as they stood before it (R29). -/
def Who.groups (w : Who) : List Group := w.iss.snap.getD w.team.groups
/-- Group `g` as the instruction reads it. -/
def Who.group (w : Who) (g : Nat) : Group := w.groups.getD g (Group.fresh 0 0)
/-- s[r] of group `g`, or of the access thread. -/
def Who.s (w : Who) (g r : Nat) : DWord :=
  match w.thr with
  | none => (w.group g).sget r
  | some x => x.sget r
/-- v[r] of group `g`. -/
def Who.v (w : Who) (g r : Nat) : VReg := (w.group g).vget r
/-- The present groups, ascending (R78). -/
def Who.present (w : Who) : List Nat := maskGroups w.frag.m
/-- Exec(g) (R78). -/
def Who.exec (w : Who) (g : Nat) : Mask := maskAt w.frag.m g &&& maskAt w.frag.e g
/-- The effective mask of R40. -/
def Who.eff (w : Who) (msk : MaskField) (g : Nat) : Mask :=
  if msk == 0 then w.exec g else w.exec g &&& w.s g msk.toNat
/-- The groups that qualify under R79. -/
def Who.qual (w : Who) (msk : MaskField) : List Nat := w.present.filter fun g => w.eff msk g != 0
/-- The lowest present group (R184). -/
def Who.lowest (w : Who) : Nat := w.present.headD 0
/-- The kernel is regioned, and the fragment runs under it: handlers, save and restore routines and access threads run
unregioned (R216, R222, R229; notes/assumptions/24.md). -/
def Who.regioned (w : Who) : Bool := w.team.kernel.regioned && w.thr.isNone && w.frag.mode == .normal
/-- Deterministic mode (R226, R227). -/
def Who.determ (w : Who) : Bool := w.team.kernel.determ
/-- What the fragment is about to do belongs to its commit by the ticket unit, which is yet to come (R226; notes/assumptions/83.md). -/
def State.roundHeld (s : State) (w : Who) : Bool := w.determ && w.thr.isNone && !w.frag.roundGo && s.inRound w.team
/-- The flag number an LF value names, none for 15 (R30). -/
def Who.flag (w : Who) (lf : Bool) : Option Nat :=
  let f := if lf then w.iss.fb else w.iss.fa
  if f < 12 then some f else none

/-- The thread of the issuer, if it is an access thread. -/
def Who.thrId (w : Who) : Option Nat := w.thr.map fun x => x.group
/-- Write the issuer's fragment back. -/
def State.putWho (s : State) (w : Who) (f : Fragment) : State :=
  s.onTeam w.team.id fun t =>
    match w.thr with
    | none => t.putFrag f
    | some x =>
      match t.threadAt x.group with
      | none => t
      | some y => t.putThread { y with frag := f }
/-- Update the issuer's fragment as it stands. -/
def State.onFrag (s : State) (w : Who) (f : Fragment → Fragment) : State :=
  s.onTeam w.team.id fun t =>
    match w.thr with
    | none => { t with frags := t.frags.map fun x => if x.id == w.frag.id then f x else x }
    | some x =>
      match t.threadAt x.group with
      | none => t
      | some y => t.putThread { y with frag := f y.frag }
/-- s[r] of group `g` ← v, or of the access thread (R118, R195). -/
def State.setS (s : State) (w : Who) (g r : Nat) (v : DWord) : State :=
  match w.thr with
  | none => s.onGroup w.team.id g fun x => x.sput r v
  | some x => s.onTeam w.team.id fun t =>
      match t.threadAt x.group with
      | none => t
      | some y => t.putThread (y.sput r v)
/-- s[r] of every present group ← its value. -/
def State.setAllS (s : State) (w : Who) (r : Nat) (v : Nat → DWord) : State :=
  w.present.foldl (fun s g => s.setS w g r (v g)) s
/-- OR bits into a group's FSTAT: into P(g) in a regioned kernel (R75, R217). -/
def State.raiseF (s : State) (w : Who) (g : Nat) (bits : BitVec 6) : State :=
  if bits == 0 then s
  else if w.regioned then
    s.onFrag w fun f => { f with region := { f.region with pend := f.region.pend.set g (f.region.pend.getD g 0 ||| bits) } }
  else s.onGroup w.team.id g fun x => { x with fstat := x.fstat ||| bits }
/-- FSTAT as an instruction reads it: the committed word ORed with P(g) of every fragment that holds lanes of g (R217). -/
def Team.fstat (t : Team) (g : Nat) : BitVec 6 :=
  t.frags.foldl (fun b f => if maskAt f.m g == 0 then b else b ||| f.region.pend.getD g 0) (t.group g).fstat

/-! ### Outstanding operations -/

/-- The physical runs a load, store or ATOM touches. -/
def laneRuns (l : List LaneAcc) : List (Nat × Nat) := l.flatMap fun x => x.segs
/-- An access of a thread (R248): its group, the lanes whose threads make it, none for the thread of the group itself, and its runs. -/
abbrev Acc := Nat × Mask × List (Nat × Nat)
/-- The access of a lane. -/
def LaneAcc.acc (x : LaneAcc) : Acc := (x.g, x.who, x.segs)
/-- The accesses that an operation makes for threads of its fragment: loads, stores, ATOMs, ASAVE and ALOAD (R194), and the records of a
stream for its access thread (R202). -/
def OpKind.accs : OpKind → List Acc
  | .load _ _ _ _ l => l.map LaneAcc.acc
  | .store l _ => l.map LaneAcc.acc
  | .atom _ _ _ _ _ _ l _ => l.map LaneAcc.acc
  | .tile (.save g _ _ _ _ runs) _ => [(g, 0, runs)]
  | .tile (.load g _ _ _ _ runs) _ => [(g, 0, runs)]
  | .stream st => [(st.group, 0, st.items.flatMap Rng.known)]
  | _ => []
/-- The runs of those accesses. -/
def OpKind.runs (k : OpKind) : List (Nat × Nat) := k.accs.flatMap fun x => x.2.2
/-- The operation makes loads or ATOMs. -/
def OpKind.reads : OpKind → Bool
  | .load .. => true
  | .atom .. => true
  | .tile (.load ..) _ => true
  | .stream st => !st.store
  | _ => false
/-- The colour of the stores that the operation makes (R194, R202, R259). -/
def OpKind.storeCol : OpKind → Option Nat
  | .store _ c => some c
  | .tile (.save ..) _ => some 0
  | .stream st => if st.store then some st.col else none
  | _ => none
/-- ORD is an acquire (R252). -/
def ordAcquires (o : Ord) : Bool := o == .acq || o == .ar || o == .sc
/-- ORD is a release (R252). -/
def ordReleases (o : Ord) : Bool := o == .rel || o == .ar || o == .sc
/-- The level of `Op.lvl` at which a store has performed at a scope (R249); 4 stands for the home, where it is no longer outstanding. -/
def scopeLvl : Scope → Nat
  | .grp => 1
  | .team => 2
  | .clu => 3
  | .pkg => 4
  | .pod => 4
  | .sys => 4
/-- The operation was issued by this stream of control and shares a lane with it (R30, R252). -/
def Op.mine (o : Op) (tid : Nat) (thr : Option Nat) (lanes : List Mask) : Bool :=
  o.team == tid && o.thread == thr && !masksNone (masksAnd lanes o.lanes)
/-- Two accesses of one group are made by one thread (R248). -/
def sameThread (a b : Mask) : Bool := a &&& b != 0 || (a == 0 && b == 0)
/-- Some access of `a` and some access of `b` belong to one thread, and the two satisfy `p` on their runs. -/
def accsMeet (p : List (Nat × Nat) → List (Nat × Nat) → Bool) (a b : List Acc) : Bool :=
  a.any fun x => b.any fun y => x.1 == y.1 && sameThread x.2.1 y.2.1 && p x.2.2 y.2.2
/-- Some byte of the runs lies in ensign memory. -/
def runsEns (l : List (Nat × Nat)) : Bool := l.any fun r => keySpace r.1 == spENS

/-! ### Where a store has performed (R249, R255, R258; notes/assumptions/81.md) -/

/-- Two teams belong to one cluster; a lone team is alone (R249). -/
def State.oneCluster (s : State) (a b : Nat) : Bool :=
  a == b || (match s.teamAt a, s.teamAt b with
    | some t, some u => t.kernel.cluster && u.kernel.cluster && t.launch == u.launch && t.cluster == u.cluster
    | _, _ => false)
/-- The lanes of a store that group `g` of team `tid` sees before the store reaches its home: at level 1 those of the group, at level 2 all
within its team, at level 3 all within its cluster. -/
def State.lanesSeen (s : State) (o : Op) (tid g : Nat) : List LaneAcc :=
  match o.kind with
  | .store l _ =>
    if o.lvl == 1 then (if o.team == tid then l.filter fun x => x.g == g else [])
    else if o.lvl == 2 then (if o.team == tid then l else [])
    else if o.lvl == 3 then (if s.oneCluster o.team tid then l else [])
    else []
  | _ => []
/-- Group `g` of team `tid` sees a part of the store that meets the runs. -/
def State.seesRuns (s : State) (o : Op) (tid g : Nat) (runs : List (Nat × Nat)) : Bool := runsMeet (laneRuns (s.lanesSeen o tid g)) runs
/-- Insert a store by the step in which it came to its level. -/
def insertVis (o : Op) : List Op → List Op
  | [] => [o]
  | p :: l => if o.visAt < p.visAt then o :: p :: l else p :: insertVis o l
/-- The stores on their way home that group `g` of team `tid` sees, in coherence order: what stands at a higher level is older. -/
def State.onTheWay (s : State) (tid g : Nat) : List Op :=
  [3, 2, 1].flatMap fun k => (s.ops.filter fun o => o.lvl == k && !(s.lanesSeen o tid g).isEmpty).foldr insertVis []
/-- The bytes that stores write, the later of two to one byte remaining. -/
def storeBytes (lanes : List LaneAcc) : Cells Byte :=
  lanes.foldl (fun c x => (runKeys x.segs).zipIdx.foldl (fun c k => tablePut c k.1 (BitVec.ofNat 8 (x.val / 256 ^ k.2))) c) []
/-- The bytes that lie over memory for group `g` of team `tid`, the youngest last. -/
def State.shadow (s : State) (tid g : Nat) : List (Nat × Byte) := (s.onTheWay tid g).flatMap fun o => storeBytes (s.lanesSeen o tid g)
/-- No store on its way home that one of the groups sees meets the runs: an access made at the home comes after every store that its own
thread sees (R255). -/
def State.wayClear (s : State) (tid : Nat) (gs : List Nat) (runs : List (Nat × Nat)) : Bool :=
  !(s.ops.any fun p => p.lvl != 0 && gs.any fun g => s.seesRuns p tid g runs)
/-- A store may go on to level `lvl`: no store to its bytes that its own threads see and that is older stays behind (R255). -/
def State.mayAdvance (s : State) (o : Op) (lvl : Nat) : Bool :=
  match o.kind with
  | .store l _ =>
    !(s.ops.any fun p => p.id != o.id && p.lvl != 0 && o.lvl ≤ p.lvl && p.lvl < lvl && !(p.lvl == o.lvl && o.visAt < p.visAt) &&
      l.any fun x => s.seesRuns p o.team x.g x.segs)
  | _ => true

/-! ### The order of operations (R251 to R254, R262, R265) -/

/-- The operation has performed as far as level `lvl` asks; one that is no longer outstanding has. -/
def Op.performed (o : Op) (lvl : Nat) : Bool :=
  match o.kind with
  | .store .. => decide (lvl ≤ o.lvl)
  | _ => false
/-- What a release at level `lvl` carries along: the stores of others that the fragment's groups see (R252, R257), and the update-only
lines of its core that are on their way home (R276). -/
def State.carried (s : State) (tid : Nat) (gs : List Nat) (lvl : Nat) : List Nat :=
  (s.ops.filter fun o => (o.lvl != 0 && o.lvl < lvl && gs.any fun g => !(s.lanesSeen o tid g).isEmpty) ||
    (match o.kind with | .flush .. => (s.teamAt tid).any fun t => t.core == o.core | _ => false)).map fun o => o.id
/-- The earlier operations that must perform first (R251 to R254, R265): accesses of one thread that overlap, acquires, for a release with
a colour mask and a level the earlier loads, ATOMs and stores of those colours and the stores it carries along, for an SC access the
thread's earlier SC accesses, for an ENS load its earlier ENS loads. -/
def State.orderDeps (s : State) (tid : Nat) (thr : Option Nat) (lanes : List Mask) (accs : List Acc)
    (rel : Option (BitVec 8 × Nat)) (sc : Bool) : List Nat :=
  ((s.ops.filter fun o => o.mine tid thr lanes &&
    (accsMeet runsMeet o.kind.accs accs || (ordAcquires o.ord && o.kind.reads) ||
      (match rel with
       | none => false
       | some km => o.kind.reads || (match o.kind.storeCol with | some c => km.1.getLsbD c | none => false)) ||
      (sc && o.ord == .sc && accsMeet (fun _ _ => true) o.kind.accs accs) ||
      (o.kind.reads && accsMeet (fun a b => runsEns a && runsEns b) o.kind.accs accs))).map fun o => o.id) ++
  (match rel with
   | none => []
   | some km => s.carried tid (maskGroups lanes) km.2)
/-- The earlier stores of the issuer that overlap an engine operation's ranges (R262). -/
def State.storeDeps (s : State) (tid : Nat) (thr : Option Nat) (lanes : List Mask) (runs : List (Nat × Nat)) : List Nat :=
  (s.ops.filter fun o => o.mine tid thr lanes && o.kind.storeCol.isSome && runsMeet o.kind.runs runs).map fun o => o.id
/-- The operation reads or writes memory in a way that a deterministic launch puts in order (R227; notes/assumptions/83.md). -/
def OpKind.detMem : OpKind → Bool
  | .store .. => true
  | .atom .. => true
  | .tile (.save ..) _ => true
  | .tile (.load ..) _ => true
  | .engine e =>
    (match e.kind with
     | .redm .. => false
     | .redr .. => false
     | _ => true)
  | _ => false
/-- In a deterministic launch every such operation waits for all earlier ones (R227). -/
def State.detDeps (s : State) (t : Team) : List Nat :=
  if t.kernel.determ then (s.ops.filter fun o => o.launch == t.launch && o.kind.detMem).map fun o => o.id else []
/-- A new operation of the issuer, with no order, reply or lock. -/
def Who.op (w : Who) (s : State) (kind : OpKind) : Op :=
  { id := s.nextOp, inst := s.nextOp, team := w.team.id, frag := w.frag.id, thread := w.thr.map fun x => x.group, ctx := w.team.ctx,
    core := w.team.core, launch := w.team.launch, pc := w.iss.pc, flag := none, lanes := w.frag.m, writes := [],
    scope := .grp, ord := .rlx, deps := [], depLvl := 4, lvl := 0, visAt := 0, pend := 0, sent := false, fail := none, markers := [], locks := [], kind := kind }
/-- Issue an operation: it is outstanding from now on (R30). -/
def State.addOp (s : State) (o : Op) : State := { s with ops := s.ops ++ [o], nextOp := s.nextOp + 1 }
/-- The operations an operation waits for are done. -/
def State.depsDone (s : State) (o : Op) : Bool := o.deps.all fun d => (s.opAt d).all fun p => p.performed o.depLvl
/-- Flag k of a stream of control reads set (R30). -/
def State.flagSet (s : State) (tid : Nat) (thr : Option Nat) (lanes : List Mask) (k : Nat) : Bool :=
  s.ops.any fun o => o.flag == some k && o.mine tid thr lanes
/-- Operations outstanding on a flag number within a team (R30): what one instruction has issued for several groups counts once. -/
def State.flagLoad (s : State) (tid k : Nat) : Nat :=
  ((s.ops.filter fun o => o.team == tid && o.flag == some k).map fun o => o.inst).eraseDups.length
/-- Some outstanding operation will write this storage element (R32). -/
def State.pendingWrite (s : State) (tid : Nat) (r : RegRef) : Bool := s.ops.any fun o => o.team == tid && o.writes.contains r

/-! ### Regions -/

/-- An empty region (R216). -/
def Region.fresh (start : DWord) (e : List Mask) (since : Nat) : Region :=
  { start := start, buf := [], ckE := e, pend := List.replicate 16 0, pinned := false, since := since }
/-- The store operation of a committed run of the buffer (R217, R218): it attaches to no flag, and reports the PC of its own ST (R228). -/
def commitOp (t : Team) (f : Fragment) (id : Nat) (b : BufRun) : Op :=
  { id := id, inst := id, team := t.id, frag := f.id, thread := none, ctx := t.ctx, core := t.core, launch := t.launch, pc := b.pc,
    flag := none, lanes := f.m, writes := [], scope := b.scope, ord := .rlx, deps := [], depLvl := if t.kernel.determ then 4 else 1,
    lvl := 0, visAt := 0, pend := 0, sent := false, fail := none, markers := [], locks := [],
    kind := .store (b.bytes.map fun x =>
      ({ g := x.lane / 64, lane := x.lane % 64, who := if b.gf then 0 else laneBit (x.lane % 64), va := x.va,
         segs := [(32 * b.sector + x.off, 1)], val := x.val.toNat, cmp := 0, got := none, fwd := [] } : LaneAcc)) b.col }
/-- Record that a fragment's access has used the path of a node: bit c for a store of colour c, bit 8 for a load or ATOM (R263). -/
def usePaths (runs : List (Nat × Nat)) (bit : Nat) (p : Cells (BitVec 9)) : Cells (BitVec 9) :=
  (runs.filter fun r => keyPooled r.1).foldl (fun p r =>
    cellPut 0 p (keyNode r.1) (cellGet 0 p (keyNode r.1) ||| BitVec.ofNat 9 (2 ^ bit))) p
/-- The paths of a fragment once its buffered stores have been handed on (R217, R263). -/
def Fragment.sentPaths (f : Fragment) : Cells (BitVec 9) :=
  f.region.buf.foldl (fun p b => usePaths [(32 * b.sector, 32)] b.col p) f.paths
/-- Hand a fragment's buffered stores to memory: each performs after the one before it (R217, R260). -/
def State.sendBuffer (s : State) (t : Team) (f : Fragment) : State :=
  (f.region.buf.foldl (fun (a : State × List Nat) b =>
    let o := commitOp t f a.1.nextOp b
    (a.1.addOp { o with deps := a.2 ++ a.1.orderDeps t.id none f.m o.kind.accs none false ++ a.1.detDeps t }, [o.id])) (s, [])).1
/-- Commit a fragment's region (R217): the stores are handed on, P(g) enters FSTAT, and a new region opens at `start`. -/
def State.commitAt (s : State) (tid fid : Nat) (start : DWord) : State :=
  match s.teamAt tid with
  | none => s
  | some t =>
    match t.fragAt fid with
    | none => s
    | some f =>
      let s := s.sendBuffer t f
      let since := s.nextOp
      s.onTeam tid fun t =>
        let t : Team := { t with groups := t.groups.mapIdx fun g (x : Group) => { x with fstat := x.fstat ||| f.region.pend.getD g 0 } }
        t.putFrag { f with region := Region.fresh start f.e since, paths := f.sentPaths }
/-- A closing instruction commits its region at issue; the new region opens at the slot after it (R219). -/
def State.close (s : State) (w : Who) : State :=
  if w.regioned then s.commitAt w.team.id w.frag.id w.iss.next else s
/-- Pin the region: its buffered entries are committed at once and later stores go to memory directly (R218). Within a round of
deterministic mode no load can tell, and they stay in the buffer until the ticket unit commits them (R226). -/
def State.pin (s : State) (w : Who) : State :=
  if !w.regioned then s
  else if s.roundHeld w then s.onFrag w fun f => { f with region := { f.region with pinned := true } }
  else
    match s.teamAt w.team.id with
    | none => s
    | some t =>
      match t.fragAt w.frag.id with
      | none => s
      | some f =>
        let s := s.sendBuffer t f
        s.onTeam w.team.id fun t => t.putFrag { f with
          region := { f.region with buf := [], pinned := true }, paths := f.sentPaths }
/-- The wait that a saved or rolled-back fragment keeps: at a frame, at a barrier, on operations and records it has already asked to wait
for, or parked (R294); any other instruction issues again (R127, R281). -/
def Wait.kept (w : Wait) : Wait :=
  match w with
  | .frame n => .frame n
  | .barrier b t => .barrier b t
  | .ops l k => .ops l k
  | .parkR a => .parkR a
  | .parkF k => .parkF k
  | .seq n => .seq n
  | _ => .ready
/-- Roll back an unpinned region (R220). A fragment that has issued nothing since the region's start keeps its wait. -/
def Fragment.rollback (f : Fragment) : Fragment :=
  { f with region := Region.fresh f.region.start f.region.ckE f.region.since, e := f.region.ckE, pc := f.region.start,
           line := none, blocked := false, wait := if f.pc == f.region.start then f.wait.kept else .ready }

/-! ### Held faults, energy -/

/-- Hold an imprecise fault of a team: at most 16, a further one sets LOST (R228). -/
def Team.holdFault (t : Team) (h : HeldFault) : Team :=
  if t.held.length < Config.heldFaults then { t with held := t.held ++ [h] } else { t with lost := true }
/-- An entry of the context's fault log. -/
def State.logFault (s : State) (ctx team cause : Nat) (info pc : DWord) : State :=
  { s with host := { s.host with faultLog := s.host.faultLog ++ [(ctx, team, cause, info, pc)] } }
/-- Raise an imprecise fault of an operation: held by its team, or logged when the team has left (R228). -/
def State.imprecise (s : State) (o : Op) (cause : Nat) (info : DWord) : State :=
  match s.teamAt o.team with
  | none => s.logFault o.ctx o.team cause info o.pc
  | some _ => s.onTeam o.team fun t => t.holdFault ⟨o.frag, o.thread, o.pc, cause, info⟩

/-- Book an amount of energy, with 16 fractional bits, to a context, and to a team's counter when the work is a team's (R374);
accounts wrap at 2^64 eu (R372). -/
def State.book (s : State) (ctx : Nat) (team : Option Nat) (a : Nat) : State :=
  let s := { s with energy := { s.energy with
    live := cellPut 0 s.energy.live ctx ((cellGet 0 s.energy.live ctx + a) % 2 ^ 80) } }
  match team with
  | none => s
  | some t => s.onTeam t fun t => { t with energy := (t.energy + a) % 2 ^ 80 }
/-- Charge `n` units of class `k` on die `d` (R373). -/
def State.charge (s : State) (ctx : Nat) (team : Option Nat) (k d n : Nat) : State :=
  if n == 0 then s else s.book ctx team (n * ((Config.rate d k).toNat * (Config.kvt d s.energy.kvtRound).toNat))
/-- The compute die of a core (R12). -/
def coreDie (core : Nat) : Nat := core / 48
/-- Charge a spill, save or restore transfer of `n` bytes on a core (R373). -/
def State.chargeMove (s : State) (t : Team) (n : Nat) : State := s.charge t.ctx (some t.id) 13 (coreDie t.core + 4) ((n + 31) / 32)
/-! ### Frames -/

/-- The open frames of a chain, innermost first (R80). -/
def Team.chainFrom (t : Team) : Nat → Option Nat → List Frame
  | 0, _ => []
  | _, none => []
  | fuel + 1, some n =>
    match t.frameAt n with
    | none => []
    | some f => f :: t.chainFrom fuel f.link
/-- The chain of a fragment. -/
def Team.chain (t : Team) (f : Fragment) : List Frame := t.chainFrom Config.maxFrames f.link
/-- The depth of a frame: the frames that enclose it. -/
def Team.depth (t : Team) (n : Nat) : Nat := (t.chainFrom Config.maxFrames (some n)).length
/-- Insert by depth, deepest first. -/
def insertDeep (t : Team) (f : Frame) : List Frame → List Frame
  | [] => [f]
  | x :: l => if t.depth f.num > t.depth x.num then f :: x :: l else x :: insertDeep t f l
/-- Every open frame, innermost first (R87). -/
def Team.framesDeep (t : Team) : List Frame := t.frames.foldr (insertDeep t) []
/-- Discard a frame; what linked to it links to its enclosing frame. -/
def Team.dropFrame (t : Team) (F : Frame) : Team :=
  let re (l : Option Nat) : Option Nat := if l == some F.num then F.link else l
  { t with frames := (t.frames.filter fun x => x.num != F.num).map fun x => { x with link := re x.link },
           frags := t.frags.map fun x => { x with link := re x.link } }
/-- The part with the lowest-numbered entry. -/
def lowestEntry : List Fragment → Option Fragment
  | [] => none
  | f :: t =>
    match lowestEntry t with
    | none => some f
    | some x => if x.entry.getD 1000 < f.entry.getD 1000 then some x else some f
/-- The largest of a list of numbers. -/
def maxOf (l : List Nat) : Nat := l.foldl max 0
/-- The fusion test of a frame (R86). Between the start and the commits of a deterministic round it is left to the next round's start
(R226). -/
def State.testFrame (s : State) (tid num : Nat) : State :=
  match s.teamAt tid with
  | none => s
  | some t =>
    match t.frameAt num with
    | none => s
    | some F =>
      if s.detHold t then s
      else if masksNone F.x then s.putTeam (t.dropFrame F)
      else
        let parts := t.frags.filter fun f => f.wait == .frame num
        let got := parts.foldl (fun m f => masksOr m f.m) (F.x.map fun _ => 0)
        if got != F.x then s
        else
          match lowestEntry parts with
          | none => s
          | some k =>
            let s := if t.kernel.regioned then parts.foldl (fun s f => s.commitAt tid f.id F.pc) s else s
            let e := masksAnd F.en F.x
            let fused : Fragment :=
              { k with pc := F.pc, m := F.x, e := e, cls := F.cls, age := maxOf (parts.map fun f => f.age), wait := .ready,
                       link := F.link, region := Region.fresh F.pc e s.nextOp, wdog := maxOf (parts.map fun f => f.wdog),
                       retired := maxOf (parts.map fun f => f.retired), inRound := maxOf (parts.map fun f => f.inRound),
                       line := if parts.all fun f => f.line.isSome then k.line else none, hold := parts.flatMap fun f => f.hold,
                       paths := parts.foldl (fun p f => f.sentPaths.foldl (fun p e => cellPut 0 p e.1 (cellGet 0 p e.1 ||| e.2)) p) [] }
            s.onTeam tid fun t =>
              let kept := t.frags.filter fun (f : Fragment) => f.wait != Wait.frame num || f.id == k.id
              let t : Team := { t with frags := kept.map fun (f : Fragment) => if f.id == k.id then fused else f }
              t.dropFrame F
/-- The arrival check of R85: the innermost open frame of the chain whose reconvergence PC is the fragment's PC. -/
def Team.arrivesAt (t : Team) (f : Fragment) : Option Frame := (t.chain f).find? fun F => F.pc == f.pc
/-- The frames of the chain nested inside the matching one, innermost first. -/
def innerFrames (num : Nat) : List Frame → List Frame
  | [] => []
  | F :: l => if F.num == num then [] else F :: innerFrames num l
/-- Remove lanes from the expected set of a frame. -/
def Team.unexpect (t : Team) (num : Nat) (m : List Mask) : Team :=
  { t with frames := t.frames.map fun x => if x.num == num then { x with x := masksDiff x.x m } else x }
/-- A fragment arrives at a frame (R85): it waits there, leaves the inner frames' expected sets, and the tests are applied
innermost first. -/
def State.arrive (s : State) (tid : Nat) (f : Fragment) (F : Frame) : State :=
  match s.teamAt tid with
  | none => s
  | some t =>
    let inner := (innerFrames F.num (t.chain f)).map fun x => x.num
    let s := s.onTeam tid fun t =>
      inner.foldl (fun t n => t.unexpect n f.m) (t.putFrag { f with wait := .frame F.num })
    (inner ++ [F.num]).foldl (fun s n => s.testFrame tid n) s
/-- Lanes leave the team's control flow: every open frame drops them and is tested, innermost first (R87). -/
def State.leaveFrames (s : State) (tid : Nat) (m : List Mask) : State :=
  match s.teamAt tid with
  | none => s
  | some t =>
    let ns := t.framesDeep.map fun x => x.num
    let s := s.onTeam tid fun t => ns.foldl (fun t n => t.unexpect n m) t
    ns.foldl (fun s n => s.testFrame tid n) s

/-! ### Barriers -/

/-- Groups that hold a lane that has not exited (R90). -/
def Team.liveGroups (t : Team) : Nat := (t.groups.filter fun x => x.exited != allLanes).length
/-- need(e) (R90). -/
def Team.need (t : Team) (e : Nat) : Nat := if e == 0 then t.liveGroups else e
/-- A phase whose count has reached its need completes (R90). -/
def Team.settleBarrier (t : Team) (b : Barrier) : Barrier :=
  if b.count != 0 && b.count ≥ t.need b.expect then { b with phase := b.phase + 1, count := 0 } else b

/-! ### Exits -/

/-- Lanes exit (R99): they leave their fragment, the team's frames and the barriers' need; a fragment with no lane left is
freed. `f` is the fragment that loses them. -/
def State.exitLanes (s : State) (tid fid : Nat) (m : List Mask) : State :=
  let s := s.onTeam tid fun t =>
    { t with
      groups := t.groups.mapIdx fun g x => { x with exited := x.exited ||| maskAt m g },
      frags := (t.frags.map fun f => if f.id == fid then { f with m := masksDiff f.m m } else f).filter fun f =>
        f.id != fid || !masksNone f.m }
  let s := s.leaveFrames tid m
  s.onTeam tid fun t => { t with bars := t.bars.map t.settleBarrier }

/-! ### Moving -/

/-- Move the whole fragment (R97). -/
def Fragment.moveTo (f : Fragment) (pc : DWord) : Fragment := { f with pc := pc, line := none }
/-- The line of a PC is the line of another. -/
def sameLine (a b : DWord) : Bool := a >>> 6 == b >>> 6
/-- The fragment goes on at the next slot: the line it has entered stays entered (R24). -/
def Fragment.stepTo (f : Fragment) (iss : Issue) : Fragment :=
  { f with pc := iss.next, line := if sameLine iss.next iss.line then f.line else none }

/-! ### Traps -/

/-- The PC of an image offset (R54). -/
def Kernel.pc (k : Kernel) (off : Nat) : DWord := k.image + BitVec.ofNat 64 off
/-- The team ends in one step (R229): every lane exits, unpinned regions are discarded, cause 0x41 is logged. -/
def State.endTeam (s : State) (tid first : Nat) (pc : DWord) : State :=
  match s.teamAt tid with
  | none => s
  | some t =>
    let s := t.frags.foldl (fun s f => if f.region.pinned then s.sendBuffer t f else s) s
    let s := s.putTeam { t with
      groups := t.groups.map fun x => { x with exited := allLanes }, frags := [], frames := [],
      threads := t.threads.map fun x => { x with running := false } }
    s.logFault t.ctx t.id 0x41 (BitVec.ofNat 64 first) pc
/-- INFO with LOST in bit 63 (R228, R230). -/
def infoLost (lost : Bool) (info : DWord) : DWord := if lost then info ||| 0x8000000000000000 else info
/-- A fragment takes a trap (R229): its region commits, TRAPPC, CAUSE, INFO and RPC are recorded, and it continues at the
handler at class 3 with its masks unchanged. In a handler, or in a save or restore routine, or without a handler, the team
ends. `rpc` is where ERET.T returns; the new region opens there. -/
def State.enterTrap (s : State) (tid fid cause : Nat) (info trappc rpc : DWord) (slot : Nat) : State :=
  match s.teamAt tid with
  | none => s
  | some t =>
    match t.fragAt fid with
    | none => s
    | some f =>
      match f.mode with
      | .handler _ c _ _ _ _ => s.endTeam tid c trappc
      | .save .. => s.endTeam tid cause trappc
      | .restore .. => s.endTeam tid cause trappc
      | .parked .. => s
      | .normal =>
        if t.kernel.trapEntry == 0 then s.endTeam tid cause trappc
        else
          let s := if t.kernel.regioned then s.commitAt tid fid rpc else s
          s.onTeam tid fun t => { t with lost := false, frags := t.frags.map fun x =>
            if x.id == fid then
              { x with mode := .handler trappc cause (infoLost t.lost info) rpc slot x.cls, pc := t.kernel.pc t.kernel.trapEntry,
                       cls := 3, line := none, wait := .ready, blocked := false, roundGo := false }
            else x }
/-- The return from a trap handler (R231): the fragment continues at `pc`, its class is what it was before the trap
(notes/assumptions/25.md), and a new region opens there. -/
def Fragment.leaveTrap (f : Fragment) (pc : DWord) : Fragment :=
  match f.mode with
  | .handler _ _ _ _ _ cls =>
    { f with mode := .normal, pc := pc, cls := cls, line := none, region := Region.fresh pc f.e f.region.since }
  | _ => f
/-- The issuer takes a precise trap; inside a deterministic round a fragment stops before it and takes it at its commit, where the
instruction issues again (R217, R226). An access thread stops and its trap is held as an imprecise fault (R196), a fragment
enters its handler with RPC at `rpc` (R229). -/
def State.trapWho (s : State) (w : Who) (cause : Nat) (info rpc : DWord) : State :=
  if s.roundHeld w then { (s.onFrag w fun f => { f with wait := .round }) with issue := none, last := .waited }
  else
  let s := { s with issue := none, last := .trapped cause info }
  match w.thr with
  | none => s.enterTrap w.team.id w.frag.id cause info w.iss.pc rpc w.iss.slot
  | some x =>
    s.onTeam w.team.id fun t =>
      let t := match t.threadAt x.group with
        | none => t
        | some y => t.putThread { y with running := false }
      t.holdFault ⟨w.frag.id, some x.group, w.iss.pc, cause, info⟩

/-! ### Executing one instruction -/

/-- What the body of an instruction answers. -/
inductive Result
  /-- Done: the issuer continues at the next slot. -/
  | ok (s : State)
  /-- Done: the body has placed every PC itself. -/
  | jump (s : State)
  /-- Done at a safe point, with the watchdog limit that holds from there (R221, R225). -/
  | safe (s : State) (limit : Nat)
  /-- Not done: the instruction issues again when what it waits for holds (notes/assumptions/15.md). -/
  | wait (s : State)
  /-- A precise trap or fault: no effect. -/
  | trap (cause : Nat) (info : DWord)
  /-- A precise trap that leaves a record of itself in the team's state (R352). -/
  | trapWith (note : State → State) (cause : Nat) (info : DWord)
  /-- A software trap: RPC is the slot after the instruction (R229). -/
  | soft (cause : Nat) (info : DWord)

/-- The instruction retires (R231): the counts of R225, R226 and CLKRD rise, for the issuer and the parts it has made; `fall`
advances the issuer's PC to the next slot. -/
def State.retire (s : State) (w : Who) (fall : Bool) : State :=
  let bump (f : Fragment) : Fragment :=
    let f := { f with retired := f.retired + 1, inRound := f.inRound + 1, wdog := f.wdog + 1, safe := false, roundGo := false, blocked := false }
    if fall && f.id == w.frag.id then f.stepTo w.iss else f
  let s := { s with issue := none, last := .retired }
  match w.thr with
  | some _ => s.onFrag w bump
  | none =>
    s.onTeam w.team.id fun t =>
      { t with frags := t.frags.map fun f => if f.id == w.frag.id || f.id ≥ w.team.nextFrag then bump f else f }

/-- Which stream may issue an instruction (R46 check 6, R196). -/
inductive Stream | execOnly | threadOnly | both
  deriving DecidableEq, Repr
/-- Check 6 of R46. -/
def Stream.allows (k : Stream) (w : Who) : Bool :=
  match k with
  | .execOnly => w.thr.isNone
  | .threadOnly => w.thr.isSome
  | .both => true

/-- A closing instruction that must issue again opens its region at itself (R127). -/
def State.reopen (s : State) (w : Who) : State :=
  if w.regioned then s.onFrag w fun f => { f with region := { f.region with start := w.iss.pc } } else s

/-- Execute an instruction: checks 5 and 6 of R46 with INFO 5 and 6, the closing of R219, then the body. A precise trap leaves the state
as it stood before the closing (R228): the trap itself commits the region (R217). -/
def execOn (stream : Stream) (closing : Bool) (limits : Who → Bool) (body : Who → State → Result) (s : State) :
    Host.Outcome State Fault Refusal :=
  match s.who with
  | none => .fault .noIssuer
  | some w =>
    if !limits w then .next (s.trapWho w 0x01 5 w.iss.pc)
    else if !stream.allows w then .next (s.trapWho w 0x01 6 w.iss.pc)
    else
      let s0 := s
      let s := if closing then s.close w else s
      match s.who with
      | none => .fault .noIssuer
      | some w =>
        match body w s with
        | .ok s' => .next (s'.retire w true)
        | .jump s' => .next (s'.retire w false)
        | .safe s' limit => .next ((s'.retire w true).onFrag w fun f => { f with wdog := 0, limit := limit, safe := true })
        | .wait s' => .next { ((if closing then s'.reopen w else s').onFrag w fun f => { f with blocked := true }) with
            issue := none, last := .waited }
        | .trap cause info => .next (s0.trapWho w cause info w.iss.pc)
        | .trapWith note cause info => .next ((note s0).trapWho w cause info w.iss.pc)
        | .soft cause info => .next (s0.trapWho w cause info w.iss.next)
/-- An instruction without operand limits or closing, for the execute slice. -/
def execPlain (body : Who → State → Result) (s : State) : Host.Outcome State Fault Refusal :=
  execOn .execOnly false (fun _ => true) body s

end Sys2Proof.Machine
end

