-- ==== Sys2Proof/Machine/Flags.lean ====
section
/-! DEFINITION. The bits of FSTAT (R74) and the integer results that set one of them: the clamp of SAT (R62, R147) and the wrap
and clamp of R70. -/

namespace Sys2Proof.Machine
open Sys2Proof

/-- A set of FSTAT bits (R74). -/
abbrev FBits := BitVec 6
/-- IX: a result differed from its exact value. -/
def fIX : FBits := 0x01
/-- UF: a tiny result was rounded with loss. -/
def fUF : FBits := 0x02
/-- OF: a finite result overflowed. -/
def fOF : FBits := 0x04
/-- DZ: an exact infinity from a finite source. -/
def fDZ : FBits := 0x08
/-- NV: invalid. -/
def fNV : FBits := 0x10
/-- SA: SAT = 1 changed a result. -/
def fSA : FBits := 0x20
/-- Bits when a condition holds. -/
def fIf (c : Bool) (b : FBits) : FBits := if c then b else 0

/-! ### Integer types -/

/-- The width of an integer type (R41, R62). -/
def tyWidth : IntTy → Nat
  | .i32 => 32 | .n32 => 32 | .i64 => 64 | .n64 => 64 | .i16 => 16 | .n16 => 16 | .i8 => 8 | .n8 => 8 | .i4 => 4 | .n4 => 4
  | .b128 => 128
/-- The type is an I type. -/
def tySigned : IntTy → Bool
  | .i32 => true | .i64 => true | .i16 => true | .i8 => true | .i4 => true
  | .n32 => false | .n64 => false | .n16 => false | .n8 => false | .n4 => false | .b128 => false
/-- The smallest value of a type (R62). -/
def tyMin (t : IntTy) : Int := if tySigned t then -(2 ^ (tyWidth t - 1) : Nat) else 0
/-- The largest value of a type (R62). -/
def tyMax (t : IntTy) : Int := if tySigned t then (2 ^ (tyWidth t - 1) : Nat) - 1 else (2 ^ tyWidth t : Nat) - 1
/-- Bits [w−1:0] of a pattern read as a value of the type (rd of R147). -/
def tyRead (t : IntTy) (v : Nat) : Int := if tySigned t then natSigned (tyWidth t) v else (v % 2 ^ tyWidth t : Nat)
/-- Clamp to the range of the type (R62); SA when the clamp changes the value. -/
def tyClamp (t : IntTy) (x : Int) : Int × FBits :=
  if x < tyMin t then (tyMin t, fSA) else if tyMax t < x then (tyMax t, fSA) else (x, 0)
/-- wrap(x, w) read back as the type. -/
def tyWrap (t : IntTy) (x : Int) : Int := tyRead t (intBits (tyWidth t) x)
/-- fit of R147. -/
def tyFit (t : IntTy) (sat : Bool) (x : Int) : Int × FBits := if sat then tyClamp t x else (tyWrap t x, 0)

end Sys2Proof.Machine
end

