-- ==== Sys2Proof/Machine/Float.lean ====
section
/-! DEFINITION. Number formats (R56 to R61), rounding (R67, R68), the fates of results that do not fit (R69, R70), and exact sums
of products (R72, R73). Values are exact: an integer times a power of two. -/

namespace Sys2Proof.Machine
open Sys2Proof

/-! ### Formats -/

/-- How a format spells infinities and NaNs (R57, R59). -/
inductive Special | ieee | e4m3 | none | e8m0
  deriving DecidableEq, Repr
/-- A floating format (R57): mantissa bits, exponent bits, bias. -/
structure Fmt where
  p : Nat
  w : Nat
  bias : Nat
  sp : Special
  deriving DecidableEq, Repr
/-- The formats of R57 and R59. -/
def fmtOf : FltTy → Fmt
  | .f32 => ⟨23, 8, 127, .ieee⟩
  | .f16 => ⟨10, 5, 15, .ieee⟩
  | .bf16 => ⟨7, 8, 127, .ieee⟩
  | .e5m2 => ⟨2, 5, 15, .ieee⟩
  | .e4m3 => ⟨3, 4, 7, .e4m3⟩
  | .e3m2 => ⟨2, 3, 3, .none⟩
  | .e2m3 => ⟨3, 2, 1, .none⟩
  | .e2m1 => ⟨1, 2, 1, .none⟩
  | .e8m0 => ⟨0, 8, 127, .e8m0⟩
/-- The width of a format in bits. -/
def Fmt.width (f : Fmt) : Nat := if f.sp == .e8m0 then 8 else 1 + f.w + f.p
/-- A decoded value: ±m × 2^e, an infinity, or a NaN (R60). -/
inductive FVal
  | fin (neg : Bool) (m : Nat) (e : Int)
  | inf (neg : Bool)
  | nan
  deriving DecidableEq, Repr
/-- The value of a code (R56 to R59). -/
def fltDecode (t : FltTy) (code : Nat) : FVal :=
  let f := fmtOf t
  if f.sp == .e8m0 then
    let e := code % 256
    if e == 255 then .nan else .fin false 1 ((e : Int) - 127)
  else
    let m := code % 2 ^ f.p
    let e := code / 2 ^ f.p % 2 ^ f.w
    let neg := code / 2 ^ (f.p + f.w) % 2 == 1
    if f.sp == .ieee && e == 2 ^ f.w - 1 then (if m == 0 then .inf neg else .nan)
    else if f.sp == .e4m3 && e == 15 && m == 7 then .nan
    else if e == 0 then .fin neg m (1 - (f.bias : Int) - f.p)
    else .fin neg (2 ^ f.p + m) ((e : Int) - f.bias - f.p)
/-- The canonical NaN (R60), or the number that R69 gives a NaN-less destination. -/
def fltNaN (t : FltTy) : Nat :=
  let f := fmtOf t
  match f.sp with
  | .ieee => (2 ^ f.w - 1) * 2 ^ f.p + 2 ^ (f.p - 1)
  | .e4m3 => 0x7F
  | .none => 2 ^ (f.w + f.p) - 1
  | .e8m0 => 0xFF
/-- The sign bit of a code. -/
def fltSign (t : FltTy) (neg : Bool) : Nat := if neg then 2 ^ ((fmtOf t).p + (fmtOf t).w) else 0
/-- The code of the largest finite magnitude (R57). -/
def fltMax (t : FltTy) : Nat :=
  let f := fmtOf t
  match f.sp with
  | .ieee => (2 ^ f.w - 1) * 2 ^ f.p - 1
  | .e4m3 => 0x7E
  | .none => 2 ^ (f.w + f.p) - 1
  | .e8m0 => 0xFE
/-- The code of +∞ in a format that has one. -/
def fltInf (t : FltTy) : Nat := (2 ^ (fmtOf t).w - 1) * 2 ^ (fmtOf t).p

/-! ### Rounding a magnitude -/

/-- A positive magnitude: in [m × 2^e, (m + 1) × 2^e), above its lower end when `st`. Inexact magnitudes come with an `e` at least
16 below the grid. -/
structure Mag where
  m : Nat
  e : Int
  st : Bool
  deriving DecidableEq, Repr
/-- The number of bits of a number. -/
def bitLen (n : Nat) : Nat := if n == 0 then 0 else Nat.log2 n + 1
/-- The floor of the base-2 logarithm of a non-zero magnitude. -/
def Mag.log (x : Mag) : Int := x.e + (bitLen x.m : Int) - 1
/-- x on the grid of multiples of 2^q: the multiple at or below, the remainder and the number of bits under the grid. -/
def Mag.onGrid (x : Mag) (q : Int) : Nat × Nat × Nat :=
  if q ≤ x.e then (x.m * 2 ^ (x.e - q).toNat, 0, 0)
  else let sh := (q - x.e).toNat
    (x.m / 2 ^ sh, x.m % 2 ^ sh, sh)
/-- The magnitude chosen by R67 from `lo`, the remainder `rem` of `sh` bits and the sticky bit: true for hi. `even` says that the
lowest bit of lo is 0. -/
def roundUp (rm : Round) (neg : Bool) (rb rem sh : Nat) (st even : Bool) : Bool :=
  if rem == 0 && !st then false
  else
    let half := 2 ^ (sh - 1)
    match rm with
    | .rne => half < rem || (rem == half && sh != 0 && (st || !even))
    | .rz => false
    | .rup => !neg
    | .rdn => neg
    | .rna => half < rem || (rem == half && sh != 0)
    | .rs _ => rb < 2 ^ 16 * rem / 2 ^ sh
/-- The mode rounds toward zero on this sign (R69). -/
def towardZero (rm : Round) (neg : Bool) : Bool :=
  match rm with
  | .rz => true
  | .rup => neg
  | .rdn => !neg
  | _ => false

/-- A result before it is written: the value, with flags it has earned. -/
inductive FRes
  | nan (fl : FBits)
  | inf (neg : Bool) (fl : FBits)
  | zero (neg : Bool) (fl : FBits)
  | num (neg : Bool) (x : Mag) (fl : FBits)
  deriving DecidableEq, Repr

/-- An infinite result in a format (R69). -/
def fateInf (t : FltTy) (sat neg : Bool) : Nat × FBits :=
  let s := fltSign t neg
  match (fmtOf t).sp with
  | .ieee => if sat then (s + fltMax t, fSA) else (s + fltInf t, 0)
  | .e4m3 => if sat then (s + fltMax t, fSA ||| fNV) else (fltNaN t, fNV)
  | .none => (s + fltMax t, fNV)
  | .e8m0 => if neg then (0xFF, fNV) else if sat then (0xFE, fSA ||| fNV) else (0xFF, fNV)
/-- A finite overflow in a format (R69). -/
def fateOverflow (t : FltTy) (rm : Round) (sat neg : Bool) : Nat × FBits :=
  let s := fltSign t neg
  let fl := fOF ||| fIX
  if towardZero rm neg then ((if t == .e8m0 then 0xFE else s + fltMax t), fl)
  else
    match (fmtOf t).sp with
    | .ieee => if sat then (s + fltMax t, fl ||| fSA) else (s + fltInf t, fl)
    | .e4m3 => if sat then (s + fltMax t, fl ||| fSA) else (fltNaN t, fl)
    | .none => (s + fltMax t, fl)
    | .e8m0 => if sat then (0xFE, fl ||| fSA) else (0xFF, fl)
/-- A NaN result in a format (R69). -/
def fateNaN (t : FltTy) : Nat × FBits := (fltNaN t, fIf ((fmtOf t).sp == .none) fNV)

/-- A positive magnitude rounded to E8M0 (R68). -/
def roundE8 (rm : Round) (sat : Bool) (rb : Nat) (x : Mag) : Nat × FBits :=
  let k := x.log
  if k < -127 then (0x00, fUF ||| fIX)
  else
    let g := x.onGrid k
    let up := roundUp rm false rb g.2.1 g.2.2 x.st (k % 2 != 0)
    let k' := if up then k + 1 else k
    if 127 < k' then fateOverflow .e8m0 rm sat false
    else ((k' + 127).toNat, fIf (g.2.1 != 0 || x.st) fIX)
/-- A non-zero magnitude rounded to a format with a sign (R67, R69, R74). R67 gives no neighbours for an exact magnitude above the largest
finite value that lies on the grid with the exponent unbounded: the model rounds it to itself, and it overflows (notes/assumptions/71.md). -/
def roundMag (t : FltTy) (rm : Round) (sat : Bool) (rb : Nat) (neg : Bool) (x : Mag) : Nat × FBits :=
  let f := fmtOf t
  let qmin : Int := 1 - (f.bias : Int) - f.p
  let top : Int := (if f.sp == .ieee then (2 ^ f.w : Nat) - 2 else (2 ^ f.w : Nat) - 1) - (f.bias : Int)
  if top < x.log then fateOverflow t rm sat neg
  else
    let q := max (x.log - f.p) qmin
    let g := x.onGrid q
    let inexact := g.2.1 != 0 || x.st
    let n := if roundUp rm neg rb g.2.1 g.2.2 x.st (g.1 % 2 == 0) then g.1 + 1 else g.1
    let code := (q - qmin).toNat * 2 ^ f.p + n
    if fltMax t < code then fateOverflow t rm sat neg
    else (fltSign t neg + code, fIf inexact fIX ||| fIf (inexact && x.log < 1 - (f.bias : Int)) fUF)
/-- Write a result in a format (R67 to R69, R74). -/
def FRes.write (r : FRes) (t : FltTy) (rm : Round) (sat : Bool) (rb : Nat) : Nat × FBits :=
  match r with
  | .nan fl => let c := fateNaN t; (c.1, c.2 ||| fl)
  | .inf neg fl => let c := fateInf t sat neg; (c.1, c.2 ||| fl)
  | .zero neg fl => if t == .e8m0 then (0xFF, fl ||| fNV) else (fltSign t neg, fl)
  | .num neg x fl =>
    if t == .e8m0 then (if neg then (0xFF, fl ||| fNV) else let c := roundE8 rm sat rb x; (c.1, c.2 ||| fl))
    else let c := roundMag t rm sat rb neg x; (c.1, c.2 ||| fl)
/-- A result converted to an integer type (R70). -/
def FRes.toInt (r : FRes) (t : IntTy) (rm : Round) (rb : Nat) : Int × FBits :=
  match r with
  | .nan fl => (0, fNV ||| fl)
  | .inf neg fl => (if neg then tyMin t else tyMax t, fNV ||| fl)
  | .zero _ fl => (0, fl)
  | .num neg x fl =>
    if 200 < x.log then (if neg then tyMin t else tyMax t, fNV ||| fl)
    else
      let g := x.onGrid 0
      let n := if roundUp rm neg rb g.2.1 g.2.2 x.st (g.1 % 2 == 0) then g.1 + 1 else g.1
      let v : Int := if neg then -(n : Int) else n
      let fl := fl ||| fIf (g.2.1 != 0 || x.st) fIX
      if v < tyMin t then (tyMin t, fl ||| fNV) else if tyMax t < v then (tyMax t, fl ||| fNV) else (v, fl)

/-! ### Exact sums -/

/-- A decoded value as a result. -/
def FVal.res : FVal → FRes
  | .nan => .nan 0
  | .inf n => .inf n 0
  | .fin n m e => if m == 0 then .zero n 0 else .num n ⟨m, e, false⟩ 0
/-- The opposite value (R154). -/
def FVal.neg : FVal → FVal
  | .nan => .nan
  | .inf n => .inf (!n)
  | .fin n m e => .fin (!n) m e
/-- A term of R72: a value, or the invalid product of an infinity and a zero (R73 step 2). -/
inductive Term
  | val (v : FVal)
  | invalid
  deriving DecidableEq, Repr
/-- The exact product of two values (R72, R73). -/
def FVal.mul : FVal → FVal → Term
  | .nan, _ => .val .nan
  | _, .nan => .val .nan
  | .inf a, .inf b => .val (.inf (a != b))
  | .inf a, .fin b m _ => if m == 0 then .invalid else .val (.inf (a != b))
  | .fin a m _, .inf b => if m == 0 then .invalid else .val (.inf (a != b))
  | .fin a m e, .fin b n f => .val (.fin (a != b) (m * n) (e + f))
/-- The opposite term. -/
def Term.neg : Term → Term
  | .val v => .val v.neg
  | .invalid => .invalid
/-- The term is a NaN. -/
def Term.isNan : Term → Bool
  | .val .nan => true
  | _ => false
/-- The term is an infinity of sign `n`. -/
def Term.isInf (n : Bool) : Term → Bool
  | .val (.inf k) => k == n
  | _ => false
/-- The finite part of a term as (signed mantissa, exponent). -/
def Term.fin : Term → Int × Int
  | .val (.fin n m e) => (if n then -(m : Int) else m, e)
  | _ => (0, 0)
/-- The term is −0. -/
def Term.isNegZero : Term → Bool
  | .val (.fin true 0 _) => true
  | _ => false
/-- The term is not zero. -/
def Term.nonzero (t : Term) : Bool := t.fin.1 != 0
/-- The smallest exponent of a list of terms. -/
def minExp : List (Int × Int) → Int
  | [] => 0
  | [x] => x.2
  | x :: l => min x.2 (minExp l)
/-- The exact sum as (mantissa, exponent). -/
def exactSum (l : List (Int × Int)) : Int × Int :=
  let q := minExp l
  (l.foldl (fun a x => a + x.1 * (2 ^ (x.2 - q).toNat : Nat)) 0, q)
/-- The sum of terms (R72, R73). -/
def sumTerms (rm : Round) (ts : List Term) : FRes :=
  if ts.any Term.isNan then .nan 0
  else if ts.contains .invalid then .nan fNV
  else if ts.any (Term.isInf false) && ts.any (Term.isInf true) then .nan fNV
  else if ts.any (Term.isInf false) then .inf false 0
  else if ts.any (Term.isInf true) then .inf true 0
  else
    let x := exactSum (ts.map Term.fin)
    if x.1 == 0 then
      .zero (ts.all Term.isNegZero || (rm == .rdn && ts.any fun t => t.nonzero || t.isNegZero)) 0
    else .num (x.1 < 0) ⟨x.1.natAbs, x.2, false⟩ 0
/-- An integer as a result. -/
def intRes (v : Int) : FRes := if v == 0 then .zero false 0 else .num (v < 0) ⟨v.natAbs, 0, false⟩ 0

/-! ### Comparisons -/

/-- The order of two values that are not NaN: less, equal, greater as −1, 0, 1; −0 equals +0 (R156). -/
def FVal.cmp (a b : FVal) : Int :=
  let key : FVal → Int × Int
    | .inf n => (if n then -1 else 1, 0)
    | .fin _ _ _ => (0, 0)
    | .nan => (0, 0)
  let x := (key a).1
  let y := (key b).1
  if x != y then (if x < y then -1 else 1)
  else if x != 0 then 0
  else
    let d := exactSum [(Term.val a).fin, (Term.val b.neg).fin]
    if d.1 < 0 then -1 else if d.1 == 0 then 0 else 1
/-- A NaN. -/
def FVal.isNan (v : FVal) : Bool := v == .nan
/-- The sign of a value. -/
def FVal.sign : FVal → Bool
  | .fin n _ _ => n
  | .inf n => n
  | .nan => false
/-- a before b in the order of R155, in which −0 lies below +0. -/
def FVal.before (a b : FVal) : Bool :=
  let c := a.cmp b
  c < 0 || (c == 0 && a.sign && !b.sign)
/-- The condition of FCMP and ACMP (R156). -/
def FCond.eval (c : FCond) (a b : FVal) : Bool :=
  let un := a.isNan || b.isNan
  let r := a.cmp b
  match c with
  | .eq => !un && r == 0
  | .ne => un || r != 0
  | .lt => !un && r < 0
  | .le => !un && r ≤ 0
  | .gt => !un && 0 < r
  | .ge => !un && 0 ≤ r
  | .un => un
  | .ord => !un

/-! ### Conversions (R162, R163) -/

/-- A value converted to a numeric type (R70, R71, R163): the integer read as the type, or the code. A NaN keeps no payload (R60).
An infinite source under SAT = 1 takes the largest finite value with SA as R69's table says, in a widening of R71 too
(notes/assumptions/72.md). -/
def FVal.toNum (v : FVal) (t : NumTy) (rm : Round) (sat : Bool) (rb : Nat) : Int × FBits :=
  match t with
  | .int k => v.res.toInt k rm rb
  | .flt k => let c := v.res.write k rm sat rb; (c.1, c.2)
/-- An integer converted to a numeric type (R70, R163). -/
def intToNum (v : Int) (t : NumTy) (rm : Round) (sat : Bool) (rb : Nat) : Int × FBits :=
  match t with
  | .int k => tyFit k sat v
  | .flt k => let c := (intRes v).write k rm sat rb; (c.1, c.2)
/-- conv of R163: a pattern of the source type. Same type on both sides copies, with a canonical NaN and no flag. -/
def convert (dty sty : NumTy) (rm : Round) (sat : Bool) (rb v : Nat) : Int × FBits :=
  match sty with
  | .int k => intToNum (tyRead k v) dty rm sat rb
  | .flt k =>
    if dty == sty then
      let code := v % 2 ^ (fmtOf k).width
      (if (fltDecode k code).isNan then fltNaN k else code, 0)
    else (fltDecode k v).toNum dty rm sat rb

end Sys2Proof.Machine
end

