-- ==== Sys2Proof/Machine/Special.lean ====
section
/-! DEFINITION. The special functions (R159 to R161). FRCP, FSQRT and FRSQ are exact to the sticky bit; FEXP2, FLOG2 and FTANH are
evaluated in fixed point with `fxBits` fraction bits, far below any grid of R67 (notes/assumptions/13.md). -/

namespace Sys2Proof.Machine
open Sys2Proof

/-- Fraction bits of the fixed-point evaluation. -/
def fxBits : Nat := 320
/-- 1 in fixed point. -/
def fxOne : Nat := 2 ^ 320
/-- Product of fixed-point numbers, rounded down. -/
def fxMul (a b : Nat) : Nat := a * b / fxOne
/-- Quotient of fixed-point numbers, rounded down. -/
def fxDiv (a b : Nat) : Nat := a * fxOne / b
/-- Terms z^(2j+1) / (2j+1) of atanh z. -/
def atanhFrom (z2 : Nat) : Nat → Nat → Nat → Nat
  | 0, _, _ => 0
  | n + 1, k, pow => pow / k + atanhFrom z2 n (k + 2) (fxMul pow z2)
/-- atanh of a fixed-point number at most 1/3. -/
def fxAtanh (z : Nat) : Nat := atanhFrom (fxMul z z) 110 1 z
/-- ln 2 in fixed point. -/
def fxLn2 : Nat := 2 * fxAtanh (fxOne / 3)
/-- Terms y^j / j! of e^y. -/
def expFrom (y : Nat) : Nat → Nat → Nat → Nat
  | 0, _, _ => 0
  | n + 1, j, term => term + expFrom y n (j + 1) (fxMul term y / (j + 1))
/-- e^y for a fixed-point y below 1. -/
def fxExp (y : Nat) : Nat := expFrom y 80 0 fxOne
/-- m × 2^e as a fixed-point number, rounded down. -/
def fxOf (m : Nat) (e : Int) : Nat :=
  let k := e + 320
  if 0 ≤ k then m * 2 ^ k.toNat else m / 2 ^ (-k).toNat
/-- A fixed-point number as an inexact magnitude. -/
def fxMag (v : Nat) : Mag := ⟨v, -320, true⟩

/-- 1 / (m × 2^e), exact to the sticky bit (R160). -/
def recipMag (m : Nat) (e : Int) : Mag :=
  let k := 2 * bitLen m + 96
  ⟨2 ^ k / m, -(e + k), 2 ^ k % m != 0⟩
/-- The square root of m × 2^e, exact to the sticky bit (R160). -/
def sqrtMag (m : Nat) (e : Int) : Mag :=
  let k : Nat := if (e % 2) == 0 then 192 else 193
  let x := m * 2 ^ k
  let r := Nat.sqrt x
  ⟨r, (e - k) / 2, r * r != x⟩
/-- 1 / the square root of m × 2^e, exact to the sticky bit (R160). -/
def rsqrtMag (m : Nat) (e : Int) : Mag :=
  let k : Nat := 2 * bitLen m + 192
  let k := if ((e + k) % 2) == 0 then k else k + 1
  let r := Nat.sqrt (2 ^ k / m)
  ⟨r, -((e + k) / 2), r * r * m != 2 ^ k⟩
/-- 2^a for a = ±m × 2^e (R160): exact for integers. -/
def exp2Res (neg : Bool) (m : Nat) (e : Int) : FRes :=
  if m == 0 then .num false ⟨1, 0, false⟩ 0
  else if 9 < e + bitLen m then
    (if neg then .num false ⟨1, -1000, true⟩ 0 else .num false ⟨1, 1000, false⟩ 0)
  else
    let x := fxOf m e
    let n := x / fxOne
    let f := x % fxOne
    if f == 0 then .num false ⟨1, (if neg then -(n : Int) else n), false⟩ 0
    else
      let n' : Int := if neg then -(n : Int) - 1 else n
      let f' := if neg then fxOne - f else f
      .num false ⟨fxExp (fxMul f' fxLn2), n' - 320, true⟩ 0
/-- log2 of m × 2^e, m not 0 (R160): exact for powers of two. -/
def log2Res (m : Nat) (e : Int) : FRes :=
  let b := bitLen m
  let k : Int := e + b - 1
  if m == 2 ^ (b - 1) then
    (if k == 0 then .zero false 0 else .num (k < 0) ⟨k.natAbs, 0, false⟩ 0)
  else
    let x := fxOf m (1 - (b : Int))
    let l := fxDiv (2 * fxAtanh (fxDiv (x - fxOne) (x + fxOne))) fxLn2
    let v : Int := k * fxOne + l
    .num (v < 0) (if v < 0 then ⟨v.natAbs - 1, -320, true⟩ else fxMag v.natAbs) 0
/-- tanh of a magnitude m × 2^e, m not 0 (R160). -/
def tanhMag (m : Nat) (e : Int) : Mag :=
  let top := e + bitLen m
  if top < -40 then ⟨m * 2 ^ 60 - 1, e - 60, true⟩
  else if 5 < top then ⟨2 ^ 80 - 1, -80, true⟩
  else
    let y := 2 * fxOf m e
    let n := y / fxLn2
    let x := fxExp (y - n * fxLn2) * 2 ^ n
    fxMag (fxDiv (x - fxOne) (x + fxOne))

/-! ### The table of R159 -/

/-- FRCP. -/
def rcpRes : FVal → FRes
  | .nan => .nan 0
  | .inf n => .zero n 0
  | .fin n m e => if m == 0 then .inf n fDZ else .num n (recipMag m e) 0
/-- FRSQ. -/
def rsqRes : FVal → FRes
  | .nan => .nan 0
  | .inf n => if n then .nan fNV else .zero false 0
  | .fin n m e => if m == 0 then .inf n fDZ else if n then .nan fNV else .num false (rsqrtMag m e) 0
/-- FSQRT. -/
def sqrtRes : FVal → FRes
  | .nan => .nan 0
  | .inf n => if n then .nan fNV else .inf false 0
  | .fin n m e => if m == 0 then .zero n 0 else if n then .nan fNV else .num false (sqrtMag m e) 0
/-- FEXP2. -/
def fexp2Res : FVal → FRes
  | .nan => .nan 0
  | .inf n => if n then .zero false 0 else .inf false 0
  | .fin n m e => exp2Res n m e
/-- FLOG2. -/
def flog2Res : FVal → FRes
  | .nan => .nan 0
  | .inf n => if n then .nan fNV else .inf false 0
  | .fin n m e => if m == 0 then .inf true fDZ else if n then .nan fNV else log2Res m e
/-- FTANH. -/
def ftanhRes : FVal → FRes
  | .nan => .nan 0
  | .inf n => .num n ⟨1, 0, false⟩ 0
  | .fin n m e => if m == 0 then .zero n 0 else .num n (tanhMag m e) 0

end Sys2Proof.Machine
end

