-- ==== Sys2Proof/Machine/Operands.lean ====
section
/-! DEFINITION. How an instruction reads and writes its operands: lane values of narrow and 64-bit types (R63, R64, R141), packed
elements (R65), result shapes (R121), full and partial writes and the shape fault (R122, R123), and the G forms (R39, R141). -/

namespace Sys2Proof.Machine
open Sys2Proof

/-! ### Reading -/

/-- The lane value of an operand: one register, or the pair of a 64-bit type (R64). -/
def Who.laneNat (w : Who) (g : Nat) (w64 : Bool) (r : Nat) (i : Nat) : Nat :=
  if w64 then ((w.v g r).lane i).toNat + 2 ^ 32 * ((w.v g (r + 1)).lane i).toNat else ((w.v g r).lane i).toNat
/-- The tags of the registers that an operand names. -/
def Who.srcTags (w : Who) (g : Nat) (w64 : Bool) (r : Nat) : List Nat :=
  if w64 then [(w.v g r).tag, (w.v g (r + 1)).tag] else [(w.v g r).tag]
/-- An odd register of a 64-bit operand breaks an operand limit (R64). -/
def evenPair (w64 : Bool) (r : BitVec 11) : Bool := !w64 || r.toNat % 2 == 0
/-- An operand of a vector form may name an odd register of a 64-bit type only in a G form. -/
def pairOk (g w64 : Bool) (r : BitVec 11) : Bool := g || evenPair w64 r

/-- The element `j` of a packed lane (R65). -/
def packedElem (width j v : Nat) : Nat := natBits v (width * j) width
/-- The width of an element type. -/
def numWidth : NumTy → Nat
  | .int t => tyWidth t
  | .flt t => (fmtOf t).width
/-- Elements of a packed lane (R65, R164). -/
def packedCount (t : NumTy) : Nat := if numWidth t == 6 then 4 else 32 / numWidth t
/-- The low 16 bits of the random-bit register of .RS in lane i (R67). -/
def Who.rnd (w : Who) (g : Nat) (rm : Round) (i : Nat) : Nat :=
  match rm with
  | .rs r => ((w.v g r.toNat).lane i).toNat % 2 ^ 16
  | _ => 0
/-- The same of a G form. -/
def Who.grnd (w : Who) (g : Nat) (rm : Round) : Nat :=
  match rm with
  | .rs r => (w.s g r.toNat).toNat % 2 ^ 16
  | _ => 0
/-- The tag of the random-bit register. -/
def Who.rndTags (w : Who) (g : Nat) (rm : Round) : List Nat :=
  match rm with
  | .rs r => [(w.v g r.toNat).tag]
  | _ => []

/-! ### Shapes of results (R121) -/

/-- A result under the plain rule: uniform when every source is, else general. -/
def plainShape (tags : List Nat) (f : Nat → Word) : VReg :=
  if tags.all fun t => t == 0 then .uniform (f 0) else VReg.ofLanes f
/-- The add rule, with the operation on words. -/
def addShape (op : Word → Word → Word) (a b : VReg) : VReg :=
  match a, b with
  | .general _, _ => VReg.ofLanes fun i => op (a.lane i) (b.lane i)
  | _, .general _ => VReg.ofLanes fun i => op (a.lane i) (b.lane i)
  | .uniform x, .uniform y => .uniform (op x y)
  | .uniform x, .affine c d => .affine (op x c) (op 0 d)
  | .affine c d, .uniform y => .affine (op c y) d
  | .affine c d, .affine e k => .affine (op c e) (op d k)
/-- The scale rule for a product. -/
def mulShape (a b : VReg) : VReg :=
  match a, b with
  | .uniform x, .uniform y => .uniform (x * y)
  | .uniform x, .affine c d => .affine (x * c) (x * d)
  | .affine c d, .uniform y => .affine (c * y) (d * y)
  | _, _ => VReg.ofLanes fun i => a.lane i * b.lane i
/-- The scale rule for a left shift by a uniform amount. -/
def shlShape (a b : VReg) : VReg :=
  match a, b with
  | .uniform x, .uniform k => .uniform (x <<< (k.toNat % 32))
  | .affine c d, .uniform k => .affine (c <<< (k.toNat % 32)) (d <<< (k.toNat % 32))
  | _, _ => VReg.ofLanes fun i => a.lane i <<< ((b.lane i).toNat % 32)

/-! ### Writing -/

/-- Lanes of a group that count for a full write (R122). -/
def Who.fullWrite (w : Who) (msk : MaskField) (g : Nat) : Bool := w.eff msk g ||| (w.group g).exited == allLanes
/-- What a register holds after a write of `new` under the effective mask (R122). -/
def Who.merge (w : Who) (msk : MaskField) (g r : Nat) (new : VReg) : VReg :=
  if w.fullWrite msk g then new
  else
    let e := w.eff msk g
    let old := w.v g r
    VReg.ofLanes fun i => if e.getLsbD i then new.lane i else old.lane i
/-- One register of a group and its new contents. -/
structure VWrite where
  g : Nat
  r : Nat
  v : VReg
  deriving DecidableEq, Repr
/-- The write faults (R123): a general value at or above genmax, v0 aside. -/
def Who.shapeBad (w : Who) (x : VWrite) : Bool := x.r != 0 && x.v.isGeneral && (w.group x.g).genmax ≤ x.r
/-- Perform register writes. -/
def State.putV (s : State) (w : Who) (l : List VWrite) : State :=
  l.foldl (fun s x => s.onGroup w.team.id x.g fun y => y.vput x.r x.v) s
/-- Write registers, with the shape check over every group first (R123), then FSTAT (R75). -/
def State.writeV (s : State) (w : Who) (l : List VWrite) (flags : List (Nat × FBits)) : Result :=
  match l.find? fun x => w.shapeBad x with
  | some x => .trap 0x06 (BitVec.ofNat 64 x.g)
  | none => .ok (flags.foldl (fun s f => s.raiseF w f.1 f.2) (s.putV w l))
/-- The bits that the active lanes of a group raise (R75). -/
def Who.orLanes (w : Who) (msk : MaskField) (g : Nat) (f : Nat → FBits) : FBits :=
  (maskLanes (w.eff msk g)).foldl (fun b i => b ||| f i) 0

/-- A vector form with one 32-bit result: its full-write value and its flags in each qualifying group. -/
def vecOne (w : Who) (msk : MaskField) (d : Nat) (res : Nat → VReg) (fl : Nat → Nat → FBits) (s : State) : Result :=
  let gs := w.qual msk
  s.writeV w (gs.map fun g => ⟨g, d, w.merge msk g d (res g)⟩) (gs.map fun g => (g, w.orLanes msk g (fl g)))
/-- A vector form with a result of `n` registers: register k of lane i. -/
def vecMany (w : Who) (msk : MaskField) (d n : Nat) (res : Nat → Nat → VReg) (fl : Nat → Nat → FBits) (s : State) : Result :=
  let gs := w.qual msk
  s.writeV w (gs.flatMap fun g => (List.range n).map fun k => ⟨g, d + k, w.merge msk g (d + k) (res g k)⟩)
    (gs.map fun g => (g, w.orLanes msk g (fl g)))
/-- A vector form whose lane values are patterns of 32 or 64 bits under the plain and wide rules (R121). -/
def vecLanes (w : Who) (msk : MaskField) (w64 : Bool) (d : Nat) (tags : Nat → List Nat) (f : Nat → Nat → Nat × FBits)
    (s : State) : Result :=
  if w64 then
    vecMany w msk d 2 (fun g k => plainShape (tags g) fun i => BitVec.ofNat 32 ((f g i).1 / 2 ^ (32 * k)))
      (fun g i => (f g i).2) s
  else vecOne w msk d (fun g => plainShape (tags g) fun i => BitVec.ofNat 32 (f g i).1) (fun g i => (f g i).2) s
/-- A G form: once for each present group (R141). -/
def gform (w : Who) (d : Nat) (f : Nat → Nat × FBits) (s : State) : Result :=
  .ok (w.present.foldl (fun s g => (s.setS w g d (BitVec.ofNat 64 (f g).1)).raiseF w g (f g).2) s)
/-- A G form whose value is a word and that raises no flag. -/
def gformW (w : Who) (d : Nat) (f : Nat → DWord) (s : State) : Result :=
  .ok (w.present.foldl (fun s g => s.setS w g d (f g)) s)

/-- Write s[D] of every qualifying group (R145). -/
def State.setQual (s : State) (w : Who) (msk : MaskField) (d : Nat) (f : Nat → DWord) : State :=
  (w.qual msk).foldl (fun s g => s.setS w g d (f g)) s

/-! ### The frame of arithmetic instructions -/

/-- A vector form belongs to the execute slice alone; a G form also to access threads (R196). -/
def execG (g : Bool) (limits : Who → Bool) (body : Who → State → Result) (s : State) : Host.Outcome State Fault Refusal :=
  execOn (if g then .both else .execOnly) false limits body s

end Sys2Proof.Machine
end

