-- ==== Sys2Proof/Machine/Uses.lean ====
section
/-! DEFINITION. What an instruction names before it issues: the registers and tiles it reads and writes (R32), what it writes for
the pair rule of R26, whether it attaches to a flag (R31), whether it closes its region (R219), and whether an ordered ATOM holds
it back (R277). -/

namespace Sys2Proof.Machine
open Sys2Proof

/-- A step of an outstanding matrix operation has still to read v[r] of group g (R178, R180). -/
def State.matrixReads (s : State) (tid g r : Nat) : Bool :=
  s.ops.any fun o => o.team == tid &&
    (match o.kind with
     | .matrix m => !m.ended && g / 4 == m.group / 4 && ((List.range m.count).drop m.done).any fun k =>
         r == m.base + k * m.inc || r == m.base + k * m.inc + 1
     | _ => false)
/-- A storage element named by an instruction. -/
inductive Use
  | v (r : Nat)
  | s (r : Nat)
  | acc (t : Nat)
  | queue (q : Nat)
  deriving DecidableEq, Repr

/-- A v register or, in a G form, an s register; a 64-bit value takes an even pair of v registers (R64). -/
def useReg (g w64 : Bool) (r : BitVec 11) : List Use :=
  if g then [.s r.toNat] else if w64 then [.v r.toNat, .v (r.toNat + 1)] else [.v r.toNat]
/-- `n` consecutive v registers. -/
def useRange (r n : Nat) : List Use := (List.range n).map fun k => .v (r + k)
/-- An s register. -/
def useS (r : SReg) : List Use := [.s r.toNat]
/-- `n` consecutive s registers. -/
def useSs (r : SReg) (n : Nat) : List Use := (List.range n).map fun k => .s (r.toNat + k)
/-- The mask register. -/
def useM (m : MaskField) : List Use := if m == 0 then [] else [.s m.toNat]
/-- The width of TY is 64 bits. -/
def ty64 (t : IntTy) : Bool := t == .i64 || t == .n64
/-- The width of a type of either table is 64 bits. -/
def num64 : NumTy → Bool
  | .int t => ty64 t
  | .flt _ => false
/-- The random-bit register of .RS. -/
def useRnd (g : Bool) : Round → List Use
  | .rs r => useReg g false r
  | _ => []
/-- The mask of a compare. -/
def useMode : CmpMode → List Use
  | .and c => useS c
  | .or c => useS c
  | _ => []
/-- The registers of one value of a load, store or ATOM (R269). -/
def useMem (g : Bool) (t : MemTy) (r : BitVec 11) : List Use :=
  match t with
  | .ty .b128 => if g then [.s r.toNat, .s (r.toNat + 1)] else useRange r.toNat 4
  | .ty k => useReg g (ty64 k) r
  | .b24 => useReg g false r
/-- s3, the address base of a vector form (R267). -/
def useBase (g : Bool) : List Use := if g then [] else [.s 3]
/-- The number of elements of a packed register (R164). -/
def packCount : NumTy → Nat
  | .int .i4 => 8 | .int .n4 => 8 | .flt .e2m1 => 8
  | .int .i16 => 2 | .int .n16 => 2 | .flt .f16 => 2 | .flt .bf16 => 2
  | _ => 4
/-- A completion register: the pair D, D + 1 (R285). -/
def useDone (d : VReg11) : List Use := if d == 0 then [] else [.v d.toNat, .v (d.toNat + 1)]

/-- What an instruction writes: registers, tiles and queues. -/
def Instr.writes (i : Instr) : List Use :=
  match i with
  | .call d _ => useS d
  | .role r => useS r.d
  | .bara d _ _ | .bars d _ _ => useS d
  | .emget _ d => useS d
  | .cwait w => useS w.d
  | .mov m => useReg m.g (ty64 m.ty) m.d
  | .movi m => useReg m.g false m.d
  | .movs m => useReg false false m.d
  | .gmovsRdf d => useS d
  | .movl m => if m.kind == .h && !m.g then [.v (m.d.toNat + 1)] else useReg m.g true m.d
  | .aff m => useReg m.g false m.d
  | .shape m => useReg false false m.d
  | .ldx m => useReg false false m.d
  | .stx m => useRange m.d.toNat m.len.toNat
  | .perm m => useReg false false m.d
  | .perm2 m => useReg false false m.d
  | .lbcast m => useReg false false m.d
  | .redl m | .scanl m => useReg false (ty64 m.ty) m.d
  | .ballot m => useS m.d
  | .mpop m =>
    match m with
    | .cnt d _ _ => useReg false false d
    | .gcnt d _ => useS d
    | .gfirst d _ => useS d
    | .gnext d _ => useS d
  | .reggrow d _ | .reggrowNb d _ | .regshrink d _ | .regqry d => useS d
  | .iadd m | .isub m | .imul m | .imulh m | .imin m | .imax m | .iand m | .ior m | .ixor m | .shl m | .shr m | .sha m | .rot m =>
    useReg m.g (ty64 m.ty) m.d
  | .imad m => useReg m.g (ty64 m.ty) m.d
  | .iabs m | .inot m | .brev m => useReg m.g (ty64 m.ty) m.d
  | .popc m | .clz m => useReg m.g false m.d
  | .bfx m => useReg m.g (ty64 m.ty) m.d
  | .bfi m => useReg m.g (ty64 m.ty) m.d
  | .icmp m => useS m.d
  | .sel m => useReg m.g (ty64 m.ty) m.d
  | .lea m => useReg m.g true m.d
  | .fadd m | .fsub m | .fmul m | .fscl m => useReg m.g false m.d
  | .ffma m => useReg m.g false m.d
  | .fmin m | .fmax m => useReg m.g false m.d
  | .fcmp m => useS m.d
  | .fclass m => useReg m.g false m.d
  | .frnd m | .frcp m | .frsq m | .fsqrt m | .fexp2 m | .flog2 m | .ftanh m => useReg m.g false m.d
  | .cvt m => useReg m.g (num64 m.dty) m.d
  | .packn m => useReg false false m.d
  | .unpkn m => useRange m.d.toNat (packCount m.ty)
  | .dotq m | .dotx m | .dotb m | .doth m =>
    match m.dst with
    | .vec d _ _ _ => useReg false false d
    | .acc d _ => [.acc d.toNat]
  | .aclr d _ _ | .ashift d _ _ | .aadd d _ _ | .amov d _ _ | .arslvi d _ => [.acc d.toNat]
  | .mma m | .mmloop m _ _ => [.acc m.d.toNat, .queue m.b.toNat]
  | .arow m => [.acc m.d.toNat]
  | .scacc m => [.acc m.d.toNat]
  | .arslv m => useRange m.d.toNat m.nrows.toNat
  | .acmp m => useSs m.d m.nrows.toNat
  | .astat m =>
    match m with
    | .t d _ _ => useS d
    | .r d _ _ _ => useReg false false d
  | .aload m => [.acc m.acc.toNat]
  | .qdef d q _ _ => .queue q.toNat :: useS d
  | .qpop d q _ => .queue q.toNat :: useReg false false d
  | .qpush q _ _ => [.queue q.toNat]
  | .qstat d _ => useS d
  | .qdrainDisc q | .qdrainFlush q => [.queue q.toNat]
  | .qld m | .qst m => [.queue m.q.toNat]
  | .ld m => useMem m.g m.ty m.d
  | .atom m => if m.d == 0 then [] else useMem m.g (.ty m.ty) m.d
  | .cpl m => useDone m.d
  | .cpbox m => useDone m.d
  | .cpmc m => useDone m.d
  | .cpst m => useDone m.d ++ useRange m.b.toNat m.n.toNat
  | .rlkq d _ _ => useS d
  | .put m | .get m => useDone m.d
  | .putsig m _ _ => useDone m.d
  | .redm m => useDone m.d
  | .redr m => useDone m.d
  | .tsrdH _ d _ _ | .tsrdP _ d _ => useS d
  | .bcast m => useS m.d
  | .seqrd d => useS d
  | .coll m => useDone m.d
  | .rsort m => useDone m.d
  | .clkrd d _ | .idrd d _ | .enrd d _ _ | .ttq d _ _ | .crd d _ => useS d
  | _ => []

/-- What an instruction reads: registers and tiles. -/
def Instr.readsOf (i : Instr) : List Use :=
  match i with
  | .brc _ a _ msk => useS a ++ useM msk
  | .brx a msk => useReg false true a ++ useM msk
  | .ret a => useS a
  | .exit msk => useM msk
  | .yieldcR _ _ => []
  | .barw a _ => useS a
  | .emset a | .emand a => useS a
  | .markS a _ => useS a
  | .cwait w => useS w.a ++ useS w.d
  | .eretT a => useS a
  | .mov m => useReg m.g (ty64 m.ty) m.a ++ useM m.msk
  | .movi m => useM m.msk
  | .movs m => useS m.a ++ useM m.msk
  | .gmovsWrf a | .gmovsClf a => useS a
  | .movl m => (if m.g && m.kind == .h then [.s m.d.toNat] else []) ++ useM m.msk
  | .aff m => useReg m.g false m.a ++ useM m.msk
  | .shape m => useReg false false m.a
  | .ldx m => useRange m.a.toNat m.len.toNat ++ useReg false false m.b ++ useM m.msk
  | .stx m => useReg false false m.a ++ useReg false false m.b ++ useM m.msk
  | .perm m => useReg false false m.a ++ useReg false false m.b ++ useM m.msk
  | .perm2 m => useReg false false m.a ++ useReg false false m.b ++ useReg false false m.c ++ useM m.msk
  | .lbcast m =>
    (match m.src with
     | .imm _ => []
     | .sreg r => useS r) ++ useReg false false m.a ++ useM m.msk
  | .redl m | .scanl m => useReg false (ty64 m.ty) m.a ++ useM m.msk
  | .ballot m => useReg false false m.a ++ useM m.msk
  | .mpop m =>
    match m with
    | .cnt _ a msk => useS a ++ useM msk
    | .gcnt _ a => useS a
    | .gfirst _ a => useS a
    | .gnext _ a => useS a
  | .iadd m | .isub m | .imul m | .imulh m | .imin m | .imax m | .iand m | .ior m | .ixor m =>
    useReg m.g (ty64 m.ty) m.a ++ useReg m.g (ty64 m.ty) m.b ++ useM m.msk
  | .shl m | .shr m | .sha m | .rot m => useReg m.g (ty64 m.ty) m.a ++ useReg m.g false m.b ++ useM m.msk
  | .imad m => useReg m.g (ty64 m.ty) m.a ++ useReg m.g (ty64 m.ty) m.b ++ useReg m.g (ty64 m.ty) m.c ++ useM m.msk
  | .iabs m | .inot m | .brev m | .popc m | .clz m => useReg m.g (ty64 m.ty) m.a ++ useM m.msk
  | .bfx m => useReg m.g (ty64 m.ty) m.a ++ useM m.msk
  | .bfi m => useReg m.g (ty64 m.ty) m.a ++ useReg m.g (ty64 m.ty) m.b ++ useM m.msk
  | .icmp m => useReg m.g (ty64 m.ty) m.a ++ useReg m.g (ty64 m.ty) m.b ++ useMode m.mode ++ useM m.msk
  | .sel m => useReg m.g (ty64 m.ty) m.a ++ useReg m.g (ty64 m.ty) m.b ++ useS m.c ++ useM m.msk
  | .lea m => useReg m.g true m.a ++ useReg m.g (ty64 m.ty) m.b ++ useM m.msk
  | .fadd m | .fsub m | .fmul m | .fscl m => useReg m.g false m.a ++ useReg m.g false m.b ++ useRnd m.g m.rm ++ useM m.msk
  | .ffma m =>
    useReg m.g false m.a ++ useReg m.g false m.b ++ useReg m.g false m.c ++ useRnd m.g m.rm ++ useM m.msk
  | .fmin m | .fmax m => useReg m.g false m.a ++ useReg m.g false m.b ++ useM m.msk
  | .fcmp m => useReg m.g false m.a ++ useReg m.g false m.b ++ useMode m.mode ++ useM m.msk
  | .fclass m => useReg m.g false m.a ++ useM m.msk
  | .frnd m | .frcp m | .frsq m | .fsqrt m | .fexp2 m | .flog2 m | .ftanh m =>
    useReg m.g false m.a ++ useRnd m.g m.rm ++ useM m.msk
  | .cvt m => useReg m.g (num64 m.sty) m.a ++ useRnd m.g m.rm ++ useM m.msk
  | .packn m => useRange m.a.toNat (packCount m.ty) ++ useRnd false m.rm ++ useM m.msk
  | .unpkn m => useReg false false m.a ++ useM m.msk
  | .dotq m | .dotx m | .dotb m | .doth m =>
    useReg false false m.a ++ useReg false false m.b ++
      (match m.dst with
       | .vec _ c rm _ => useReg false false c ++ useRnd false rm
       | .acc _ _ => []) ++ useM m.msk
  | .aclr _ _ msk | .ashift _ _ msk | .arslvi _ msk => useM msk
  | .mma m => useRange m.a.toNat 2 ++ useM m.msk
  | .mmloop m count inc => useRange m.a.toNat (count.toNat * (2 * inc.toNat) + 2) ++ useM m.msk
  | .arow m => useReg false false m.a ++ useM m.msk
  | .aadd _ _ msk | .amov _ _ msk => useM msk
  | .scacc m => useReg false false m.b ++ useReg false false m.c ++ useM m.msk
  | .arslv m => useM m.msk
  | .acmp m => useReg false false m.b ++ useM m.msk
  | .astat m =>
    match m with
    | .t _ _ msk => useM msk
    | .r _ _ _ msk => useM msk
  | .asave m | .aload m => useS m.b ++ useM m.msk
  | .qpop _ _ msk => useM msk
  | .qpush _ a msk => useReg false false a ++ useM msk
  | .qld m | .qst m => useS m.a ++ useS m.b ++ useS m.c
  | .ld m => useReg m.g false m.a ++ useReg m.g false m.c ++ useBase m.g ++ useM m.msk
  | .st m => useReg m.g false m.a ++ useReg m.g false m.c ++ useMem m.g m.ty m.b ++ useBase m.g ++ useM m.msk
  | .atom m =>
    useReg m.g false m.a ++ useMem m.g (.ty m.ty) m.b ++
      (match m.op with
       | .cas c => useMem m.g (.ty m.ty) c
       | _ => []) ++ useBase m.g ++ useM m.msk
  | .pref m => useReg m.g false m.a ++ useReg m.g false m.c ++ useBase m.g ++ useM m.msk
  | .cpl m => useReg false false m.a ++ useReg false false m.b ++ useReg false false m.c ++ [.s 3] ++ useM m.msk
  | .cpbox m => useSs m.a 8 ++ useM m.msk
  | .cpmc m => useS m.a ++ useS m.b
  | .cpst m => useS m.a
  | .rlkq _ a b => useS a ++ useS b
  | .put m | .get m => useSs m.a 4 ++ useM m.msk
  | .putsig m _ b => useSs m.a 4 ++ useS b ++ useM m.msk
  | .redm m => useSs m.a 3 ++ useM m.msk
  | .redr m => useSs m.a 3 ++ useM m.msk
  | .tsrdH _ _ a msk => useS a ++ useM msk
  | .tsrdP _ _ msk => useM msk
  | .bcast m => useSs m.a 8
  | .seqfence a => useS a
  | .coll m => useReg false false m.a ++ useReg false (ty64 m.ty) m.b ++ useReg false false m.c ++ [.s 3] ++ useM m.msk
  | .rsort m => useSs m.a 4 ++ useM m.msk
  | .enrd _ a _ | .ttq _ a _ => useS a
  | .cwr _ a => useS a
  | _ => []

/-- The LF bit of a flaggable instruction (R31); none for one that attaches to no flag. -/
def Instr.flagBit (i : Instr) : Option Bool :=
  match i with
  | .mma m | .mmloop m _ _ => some m.lf
  | .asave m | .aload m => some m.lf
  | .qld m | .qst m => some m.lf
  | .ld m => some m.lf
  | .st m => some m.lf
  | .atom m => some m.lf
  | .cpl m => some m.lf
  | .cpbox m => some m.lf
  | .cpmc m => some m.lf
  | .cpst m => some m.lf
  | .put m | .get m => some m.lf
  | .putsig m _ _ => some m.lf
  | .redm m => some m.lf
  | .redr m => some m.lf
  | .tsrdH lf _ _ _ | .tsrdP lf _ _ => some lf
  | .bcast m => some m.lf
  | .coll m => some m.lf
  | .rsort m => some m.lf
  | _ => none

/-- The instruction closes its region (R219). -/
def Instr.closing (i : Instr) : Bool :=
  match i with
  | .st m => m.ord != .rlx
  | .atom .. | .fence .. | .cpl .. | .cpbox .. | .cpmc .. | .cpst .. | .put .. | .putsig .. | .get .. | .redm .. | .redr ..
  | .tsrdH .. | .tsrdP .. | .bcast .. | .coll .. | .rsort .. | .bara .. | .bars .. | .join .. | .role .. | .exit .. | .reggrow ..
  | .reggrowNb .. | .regshrink .. | .qdef .. | .qdrainDisc .. | .qdrainFlush .. | .gmovsWrf .. | .gmovsClf .. | .mark ..
  | .markS .. => true
  | _ => false

/-- An ordered ATOM of the fragment holds the instruction back (R277). -/
def Instr.heldBack (i : Instr) : Bool :=
  match i with
  | .ld .. | .st .. | .atom .. | .cpl .. | .cpbox .. | .cpmc .. | .cpst .. | .put .. | .putsig .. | .get .. | .redm .. | .redr ..
  | .tsrdH .. | .tsrdP .. | .bcast .. | .seqrd .. | .seqfence .. | .coll .. | .rsort .. => true
  | _ => false

end Sys2Proof.Machine
end

