-- ==== Sys2Proof/Machine/Moves.lean ====
section
/-! DEFINITION. Moves, shapes, indirect access, permutes, lane reductions, masks and register slabs (R118 to R139). -/

namespace Sys2Proof.Machine
open Sys2Proof

/-! ### Moves (R133 to R135) -/

/-- MOV and GMOV (R134): the copy rule, register by register. -/
def execMov (m : MovArgs) (s : State) : Host.Outcome State Fault Refusal :=
  let w64 := ty64 m.ty
  execG m.g (fun _ => pairOk m.g w64 m.d && pairOk m.g w64 m.a) (fun w s =>
    if m.g then gformW w m.d.toNat (fun g => w.s g m.a.toNat) s
    else vecMany w m.msk m.d.toNat (if w64 then 2 else 1) (fun g k => w.v g (m.a.toNat + k)) (fun _ _ => 0) s) s

/-- MOVI and GMOVI (R134). -/
def execMovi (m : MoviArgs) (s : State) : Host.Outcome State Fault Refusal :=
  execG m.g (fun _ => true) (fun w s =>
    if m.g then gformW w m.d.toNat (fun _ => m.imm.setWidth 64) s
    else vecOne w m.msk m.d.toNat (fun _ => .uniform m.imm) (fun _ _ => 0) s) s

/-- MOVS.LO and MOVS.HI (R134). -/
def execMovs (m : MovsArgs) (s : State) : Host.Outcome State Fault Refusal :=
  execPlain (fun w s =>
    vecOne w m.msk m.d.toNat
      (fun g => .uniform (if m.hi then (w.s g m.a.toNat).extractLsb' 32 32 else (w.s g m.a.toNat).extractLsb' 0 32))
      (fun _ _ => 0) s) s

/-- FSTAT of a group as the issuer reads it: in a pair, as it stood before the pair (R29, R217). -/
def Who.fstat (w : Who) (g : Nat) : FBits :=
  match w.iss.snap with
  | some _ => (w.group g).fstat
  | none => w.team.fstat g
/-- GMOVS.RDF (R132, R134, R217). -/
def execGmovsRdf (d : SReg) (s : State) : Host.Outcome State Fault Refusal :=
  execG true (fun _ => true) (fun w s => gformW w d.toNat (fun g => (w.fstat g).setWidth 64) s) s
/-- Replace the committed FSTAT of every present group (R132, R219). -/
def State.setFstat (s : State) (w : Who) (f : Nat → FBits → FBits) : State :=
  w.present.foldl (fun s g => s.onGroup w.team.id g fun x => { x with fstat := f g x.fstat }) s
/-- GMOVS.WRF (R132, R134). -/
def execGmovsWrf (a : SReg) (s : State) : Host.Outcome State Fault Refusal :=
  execOn .both true (fun _ => true) (fun w s => .ok (s.setFstat w fun g _ => (w.s g a.toNat).setWidth 6)) s
/-- GMOVS.CLF (R132, R134). -/
def execGmovsClf (a : SReg) (s : State) : Host.Outcome State Fault Refusal :=
  execOn .both true (fun _ => true) (fun w s => .ok (s.setFstat w fun g x => x &&& ~~~((w.s g a.toNat).setWidth 6))) s

/-- MOVL and GMOVL (R134). The vector .S and .Z forms need an even D, and .H a register above D (R133;
notes/assumptions/23.md). -/
def execMovl (m : MovlArgs) (s : State) : Host.Outcome State Fault Refusal :=
  let hi : Word := if m.kind == .s && m.imm.msb then BitVec.allOnes 32 else 0
  execG m.g (fun _ => m.g || (if m.kind == .h then m.d.toNat < 2047 else m.d.toNat % 2 == 0)) (fun w s =>
    if m.g then
      gformW w m.d.toNat (fun g => match m.kind with
        | .s => m.imm.signExtend 64
        | .z => m.imm.setWidth 64
        | .h => m.imm ++ (w.s g m.d.toNat).extractLsb' 0 32) s
    else if m.kind == .h then vecOne w m.msk (m.d.toNat + 1) (fun _ => .uniform m.imm) (fun _ _ => 0) s
    else vecMany w m.msk m.d.toNat 2 (fun _ k => .uniform (if k == 0 then m.imm else hi)) (fun _ _ => 0) s) s

/-- The register that AFF makes of its source (R135). -/
def affShape (a : VReg) (imm : Word) : VReg :=
  match a with
  | .uniform u => .affine u imm
  | .affine b d => .affine b (d + imm)
  | .general _ => VReg.ofLanes fun i => a.lane i + imm * BitVec.ofNat 32 i
/-- AFF and GAFF (R135). -/
def execAff (m : AffArgs) (s : State) : Host.Outcome State Fault Refusal :=
  execG m.g (fun _ => true) (fun w s =>
    if m.g then gformW w m.d.toNat (fun g => w.s g m.a.toNat + m.imm.signExtend 64 * BitVec.ofNat 64 g) s
    else vecOne w m.msk m.d.toNat (fun g => affShape (w.v g m.a.toNat) m.imm) (fun _ _ => 0) s) s

/-! ### Shapes (R136) -/

/-- The narrowest register with the same 64 values (R136). -/
def tighten (v : VReg) : VReg :=
  let u := v.lane 0
  let d := v.lane 1 - u
  if laneList.all fun i => v.lane i == u then .uniform u
  else if laneList.all fun i => v.lane i == u + d * BitVec.ofNat 32 i then .affine u d
  else VReg.ofLanes v.lane
/-- SHAPE.TIGHT, SHAPE.GEN and SHAPE.QRY (R136): all 64 lanes, MK ignored. -/
def execShape (m : ShapeArgs) (s : State) : Host.Outcome State Fault Refusal :=
  execPlain (fun w s =>
    let res (g : Nat) : VReg :=
      let v := w.v g m.a.toNat
      match m.kind with
      | .tight => tighten v
      | .gen => VReg.ofLanes v.lane
      | .qry => .uniform (BitVec.ofNat 32 v.tag)
    s.writeV w ((w.qual 0).map fun g => ⟨g, m.d.toNat, res g⟩) []) s

/-! ### Indirect access and permutes (R128, R129, R137) -/

/-- LEN is 1 to 2,047 and the table lies within the file (R133). -/
def tableOk (base len : BitVec 11) : Bool := len != 0 && base.toNat + len.toNat ≤ 2048
/-- Entries of a table (R128). -/
def tableSize (any : Bool) (len : BitVec 11) : Nat := if any then 64 * len.toNat else len.toNat
/-- The lowest failing lane of the lowest failing group, as a team lane (R128, R230). -/
def Who.badIndex (w : Who) (msk : MaskField) (b : BitVec 11) (size : Nat) : Option Nat :=
  (w.qual msk).findSome? fun g =>
    ((maskLanes (w.eff msk g)).find? fun i => size ≤ ((w.v g b.toNat).lane i).toNat).map fun i => 64 * g + i
/-- LDX.OWN and LDX.ANY (R137). -/
def execLdx (m : IdxArgs) (s : State) : Host.Outcome State Fault Refusal :=
  execOn .execOnly false (fun _ => tableOk m.a m.len) (fun w s =>
    match w.badIndex m.msk m.b (tableSize m.any m.len) with
    | some l => .trap 0x07 (BitVec.ofNat 64 l)
    | none =>
      let pick (g k i : Nat) : Word :=
        if m.any then (w.v g (m.a.toNat + k / 64)).lane (k % 64) else (w.v g (m.a.toNat + k)).lane i
      vecOne w m.msk m.d.toNat (fun g =>
        let idx := w.v g m.b.toNat
        match idx with
        | .uniform u => if m.any then .uniform (pick g u.toNat 0) else w.v g (m.a.toNat + u.toNat)
        | _ => VReg.ofLanes fun i =>
            let k := (idx.lane i).toNat
            if k < tableSize m.any m.len then pick g k i else 0) (fun _ _ => 0) s) s
/-- STX.OWN and STX.ANY (R128, R137): the lanes of each register written, in ascending lane order, so the highest wins. -/
def execStx (m : IdxArgs) (s : State) : Host.Outcome State Fault Refusal :=
  execOn .execOnly false (fun _ => tableOk m.d m.len) (fun w s =>
    match w.badIndex m.msk m.b (tableSize m.any m.len) with
    | some l => .trap 0x07 (BitVec.ofNat 64 l)
    | none =>
      let hits (g : Nat) : List (Nat × Nat × Word) := (maskLanes (w.eff m.msk g)).map fun i =>
        let k := ((w.v g m.b.toNat).lane i).toNat
        let v := (w.v g m.a.toNat).lane i
        if m.any then (m.d.toNat + k / 64, k % 64, v) else (m.d.toNat + k, i, v)
      let regs (g : Nat) : List Nat := (hits g).foldl (fun l h => if l.contains h.1 then l else l ++ [h.1]) []
      s.writeV w ((w.qual m.msk).flatMap fun g => (regs g).map fun r =>
        ⟨g, r, .general (((hits g).filter fun h => h.1 == r).foldl (fun l h => l.set h.2.1 h.2.2)
          (laneList.map (w.v g r).lane))⟩) []) s
/-- PERM (R137). -/
def execPerm (m : PermArgs) (s : State) : Host.Outcome State Fault Refusal :=
  execPlain (fun w s =>
    vecOne w m.msk m.d.toNat (fun g =>
      let a := w.v g m.a.toNat
      let b := w.v g m.b.toNat
      plainShape [a.tag, b.tag] fun i => a.lane ((b.lane i).toNat % 64)) (fun _ _ => 0) s) s
/-- PERM2 (R137). -/
def execPerm2 (m : Perm2Args) (s : State) : Host.Outcome State Fault Refusal :=
  execPlain (fun w s =>
    vecOne w m.msk m.d.toNat (fun g =>
      let a := w.v g m.a.toNat
      let b := w.v g m.b.toNat
      let c := w.v g m.c.toNat
      plainShape [a.tag, b.tag, c.tag] fun i =>
        let k := (c.lane i).toNat % 128
        if k < 64 then a.lane k else b.lane (k - 64)) (fun _ _ => 0) s) s
/-- LBCAST.I and LBCAST.S (R137). -/
def execLbcast (m : LbcastArgs) (s : State) : Host.Outcome State Fault Refusal :=
  execPlain (fun w s =>
    vecOne w m.msk m.d.toNat (fun g =>
      let j := match m.src with
        | .imm l => l.toNat
        | .sreg r => (w.s g r.toNat).toNat % 64
      .uniform ((w.v g m.a.toNat).lane j)) (fun _ _ => 0) s) s

/-! ### Lane reductions (R130, R138) -/

/-- A node of the tree: a pattern and the flags raised below it; none when absent. -/
abbrev RedNode := Option (Nat × FBits)
/-- One node of the tree (R130). -/
def redNode (op : Nat → Nat → Nat × FBits) : RedNode → RedNode → RedNode
  | none, r => r
  | l, none => l
  | some l, some r => let c := op l.1 r.1; some (c.1, c.2 ||| l.2 ||| r.2)
/-- One level of the tree. -/
def redLevel (op : Nat → Nat → Nat × FBits) : List RedNode → List RedNode
  | a :: b :: t => redNode op a b :: redLevel op t
  | l => l
/-- The six levels. -/
def redTree (op : Nat → Nat → Nat × FBits) (l : List RedNode) : RedNode :=
  ((List.range 6).foldl (fun l _ => redLevel op l) l).headD none
/-- FP32 minimum or maximum of a node: a NaN child is passed over, −0 lies below +0 (R130). -/
def redFmin (mx : Bool) (a b : Nat) : Nat :=
  let x := fltDecode .f32 a
  let y := fltDecode .f32 b
  if x.isNan then (if y.isNan then fltNaN .f32 else b)
  else if y.isNan then a
  else if (if mx then x.before y else y.before x) then b else a
/-- The combination of a node, on patterns of the type (R130). -/
def redOpNode (op : RedOp) (ty : IntTy) (a b : Nat) : Nat × FBits :=
  let n := tyWidth ty
  match op with
  | .add => ((a + b) % 2 ^ n, 0)
  | .min => (if tyRead ty b < tyRead ty a then b else a, 0)
  | .max => (if tyRead ty a < tyRead ty b then b else a, 0)
  | .and => (a &&& b, 0)
  | .or => (a ||| b, 0)
  | .xor => (a ^^^ b, 0)
  | .fadd rm => (sumTerms rm [.val (fltDecode .f32 a), .val (fltDecode .f32 b)]).write .f32 rm false 0
  | .fmin => (redFmin false a b, 0)
  | .fmax => (redFmin true a b, 0)
/-- The identity of an empty set (R130). -/
def redOpIdentity (op : RedOp) (ty : IntTy) : Nat :=
  match op with
  | .add => 0 | .or => 0 | .xor => 0
  | .and => 2 ^ tyWidth ty - 1
  | .min => intBits (tyWidth ty) (tyMax ty)
  | .max => intBits (tyWidth ty) (tyMin ty)
  | .fadd _ => 0
  | .fmin => fltInf .f32
  | .fmax => fltSign .f32 true + fltInf .f32
/-- A NaN that is written is canonical (R60; notes/assumptions/22.md). -/
def redOpCanon (op : RedOp) (v : Nat) : Nat :=
  match op with
  | .fadd _ => if (fltDecode .f32 v).isNan then fltNaN .f32 else v
  | .fmin => if (fltDecode .f32 v).isNan then fltNaN .f32 else v
  | .fmax => if (fltDecode .f32 v).isNan then fltNaN .f32 else v
  | _ => v
/-- T(S) of R130 for the lanes that `p` selects. -/
def Who.redOver (w : Who) (m : RedArgs) (g : Nat) (p : Nat → Bool) : Nat × FBits :=
  let leaf (i : Nat) : RedNode := if p i then some (w.laneNat g (ty64 m.ty) m.a.toNat i, 0) else none
  match redTree (redOpNode m.op m.ty) (laneList.map leaf) with
  | none => (redOpIdentity m.op m.ty, 0)
  | some x => (redOpCanon m.op x.1, x.2)
/-- The registers that a 32- or 64-bit pattern fills. -/
def patWord (v k : Nat) : Word := BitVec.ofNat 32 (v / 2 ^ (32 * k))
/-- REDL (R138). -/
def execRedl (m : RedArgs) (s : State) : Host.Outcome State Fault Refusal :=
  let w64 := ty64 m.ty
  execOn .execOnly false (fun _ => evenPair w64 m.d && evenPair w64 m.a) (fun w s =>
    let tot (g : Nat) := w.redOver m g fun i => (w.eff m.msk g).getLsbD i
    vecMany w m.msk m.d.toNat (if w64 then 2 else 1) (fun g k => .uniform (patWord (tot g).1 k)) (fun g _ => (tot g).2) s) s
/-- SCANL (R138). -/
def execScanl (m : RedArgs) (s : State) : Host.Outcome State Fault Refusal :=
  let w64 := ty64 m.ty
  execOn .execOnly false (fun _ => evenPair w64 m.d && evenPair w64 m.a) (fun w s =>
    let upTo (g i : Nat) := w.redOver m g fun j => (w.eff m.msk g).getLsbD j && (j < i || (!m.exc && j == i))
    vecMany w m.msk m.d.toNat (if w64 then 2 else 1)
      (fun g k => VReg.ofLanes fun i => if (w.eff m.msk g).getLsbD i then patWord (upTo g i).1 k else 0)
      (fun g i => (upTo g i).2) s) s

/-! ### Masks (R138) -/

/-- BALLOT (R138). -/
def execBallot (m : BallotArgs) (s : State) : Host.Outcome State Fault Refusal :=
  execPlain (fun w s => .ok (s.setQual w m.msk m.d.toNat fun g =>
    maskOf fun i => (w.eff m.msk g).getLsbD i && ((w.v g m.a.toNat).lane i == 0) == m.z)) s
/-- MPOP.CNT, GMPOP.CNT, GMPOP.FIRST and GMPOP.NEXT (R138). -/
def execMpop (m : MpopArgs) (s : State) : Host.Outcome State Fault Refusal :=
  execPlain (fun w s =>
    match m with
    | .cnt d a msk =>
      vecOne w msk d.toNat (fun g => VReg.ofLanes fun i =>
        BitVec.ofNat 32 (popCount (w.s g a.toNat &&& maskOf fun j => j < i))) (fun _ _ => 0) s
    | .gcnt d a => gformW w d.toNat (fun g => BitVec.ofNat 64 (popCount (w.s g a.toNat))) s
    | .gfirst d a => gformW w d.toNat (fun g => BitVec.ofNat 64 ((lowestLane (w.s g a.toNat)).getD 64)) s
    | .gnext d a => gformW w d.toNat (fun g => w.s g a.toNat &&& (w.s g a.toNat - 1)) s) s

/-! ### Save blocks (R131) -/

/-- The register part of a save block in ascending register order (R131). -/
def VReg.bytes : VReg → List Byte
  | .uniform u => natLe 4 u.toNat
  | .affine b d => natLe 4 b.toNat ++ natLe 4 d.toNat
  | .general l => l.flatMap fun w => natLe 4 w.toNat
/-- The TAGS bytes (R131). -/
def Group.tagBytes (x : Group) : List Byte :=
  (List.range 512).map fun k => BitVec.ofNat 8 ((List.range 4).foldl (fun n j => n + (x.vget (4 * k + j)).tag * 2 ^ (2 * j)) 0)
/-- The save block of a group (R131). -/
def Group.block (x : Group) : List Byte :=
  let body := (List.range 2048).flatMap fun r => (x.vget r).bytes
  let head := natLe 2 x.genmax ++ natLe 2 0 ++ natLe 4 body.length ++ natLe 8 x.fstat.toNat ++ natLe 16 0 ++
    (List.range 256).flatMap (fun r => natLe 8 (x.sget r).toNat) ++ x.tagBytes
  head ++ body ++ List.replicate ((64 - (head.length + body.length) % 64) % 64) 0
/-- The tag of register r in a block. -/
def blockTag (b : List Byte) (r : Nat) : Nat := natBits (b.getD (0x820 + r / 4) 0).toNat (2 * (r % 4)) 2
/-- Bytes of a register with a tag. -/
def tagSize (t : Nat) : Nat := if t == 0 then 4 else if t == 1 then 8 else 256
/-- A register from its bytes. -/
def blockReg (t : Nat) (b : List Byte) : VReg :=
  let word (k : Nat) : Word := BitVec.ofNat 32 (leNat ((b.drop (4 * k)).take 4))
  if t == 0 then .uniform (word 0) else if t == 1 then .affine (word 0) (word 1) else VReg.ofLanes word
/-- Load registers r, r + 1, ... from a body. -/
def blockRegs (b : List Byte) : Nat → Nat → List Byte → Group → Group
  | 0, _, _, x => x
  | n + 1, r, body, x =>
    let t := blockTag b r
    blockRegs b n (r + 1) (body.drop (tagSize t)) (x.vput r (blockReg t body))
/-- A restore refuses the block (R131). -/
def blockRefused (b : List Byte) : Bool :=
  let gm := leNat (b.take 2)
  let tags := (List.range 2048).map (blockTag b)
  let n := (tags.map tagSize).sum
  tags.contains 3 || ((List.range 2048).any fun r => gm ≤ r && blockTag b r == 2) ||
    leNat ((b.drop 4).take 4) != n || leNat ((b.drop 2).take 2) != 0 || leNat ((b.drop 16).take 16) != 0 ||
    leNat ((b.drop 8).take 8) / 64 != 0 || ((b.drop (0xA20 + n)).take ((64 - (0xA20 + n) % 64) % 64)).any fun x => x != 0
/-- A group reloaded from its block, keeping what the block does not hold (R131, R223). -/
def Group.reload (x : Group) (b : List Byte) : Group :=
  let y : Group := { x with
    genmax := leNat (b.take 2), fstat := BitVec.ofNat 6 (leNat ((b.drop 8).take 8)), v := [],
    s := (List.range 256).foldl (fun c r => if r == 0 then c else cellPut 0 c r (BitVec.ofNat 64 (leNat ((b.drop (0x20 + 8 * r)).take 8)))) [] }
  blockRegs b 2048 0 (b.drop 0xA20) y

/-! ### Completion words and stations (R284, R285, R291) -/

/-- A final completion word (R284). -/
def finalWord (cause drop bytes : Nat) : DWord :=
  BitVec.ofNat 64 (2 ^ 63 + (if cause == 0 then 0 else 2 ^ 62) + 2 ^ 55 * cause + 2 ^ 43 * drop + bytes)

/-! ### The saved image (R131, R222, R296; notes/assumptions/17.md) -/

/-- Bytes that an image keeps for the save block of a group (R131). -/
def blockRoom : Nat := 526912
/-- Where the tiles lie in the image of a team of `n` groups: 16 ASAVE images, then their anchors (R222). -/
def tileOff (n : Nat) : Nat := blockRoom * n
/-- Where the R83 records lie, by the slots of the spill area (R81). -/
def recordOff (n : Nat) : Nat := tileOff n + 16 * 102400 + 128
/-- Where the barrier slots lie. -/
def barOff (n : Nat) : Nat := recordOff n + 288 * (64 * n + 512)
/-- The bytes of the largest image of a team of `n` groups (R222, R384): the hardware part, with the s registers of its access threads, and
the software save areas of its groups. -/
def imageBytes (n : Nat) : Nat := barOff n + 16 * 12 + 2048 * n + blockRoom * n
/-- The flat key of a byte of a team's image in the save arena. -/
def Team.imageKey (t : Team) (off : Nat) : Nat := flatKey spHBM (t.arena + off)
/-- The save block of a group as it stands in the image. -/
def State.readBlock (s : State) (t : Team) (g : Nat) : List Byte :=
  let k := t.imageKey (blockRoom * g)
  let n := 0xA20 + min 524288 (Memory.read s.mem (k + 4) 4)
  Memory.bytes s.mem k ((n + 63) / 64 * 64)
/-- Write bytes of a team's image. -/
def State.writeImage (s : State) (t : Team) (off : Nat) (b : List Byte) : State :=
  { s with mem := Memory.writeBytes s.mem (t.imageKey off) b }
/-- The image stands for registers that operations still write: from the save on, until every restore routine has ended (R296). -/
def Team.imaged (t : Team) : Bool :=
  t.phase == .saving || t.phase == .saved || t.frags.any fun f => match f.mode with | .restore .. => true | _ => false
/-- Update a group in the image while it stands for the group (R296). -/
def State.onImage (s : State) (t : Team) (g : Nat) (f : Group → Group) : State :=
  if t.imaged then s.writeImage t (blockRoom * g) (f ((t.group g).reload (s.readBlock t g))).block else s
/-- Update a group as an operation ends: in the image while it stands for the group, and in the registers of a resident team (R296,
R321, R336). -/
def State.onLate (s : State) (tid g : Nat) (f : Group → Group) : State :=
  match s.teamAt tid with
  | none => s
  | some t =>
    if t.resident then (s.onImage t g f).onGroup tid g f else s.onImage t g f
/-- A group as the operations that end see it: of a saved team, as its image holds it. -/
def State.lateGroup (s : State) (t : Team) (g : Nat) : Group :=
  if t.resident then t.group g else (t.group g).reload (s.readBlock t g)
/-- Write registers of a group as an operation ends. -/
def State.putRegs (s : State) (tid g : Nat) (l : List (Nat × VReg)) : State :=
  s.onLate tid g fun x => l.foldl (fun x p => x.vput p.1 p.2) x
/-- Write an s register of a group as an operation ends. -/
def State.putSreg (s : State) (tid g r : Nat) (v : DWord) : State := s.onLate tid g fun x => x.sput r v
/-- Write a status word to a completion pair: all 64 lanes, uniform (R285); nothing for D = 0. -/
def State.putPair (s : State) (tid g d : Nat) (v : DWord) : State :=
  if d == 0 then s
  else s.putRegs tid g [(d, .uniform (v.extractLsb' 0 32)), (d + 1, .uniform (v.extractLsb' 32 32))]
/-- Close the open station of a group: its final word is written with the bytes landed (R291). -/
def State.closeStation (s : State) (tid g : Nat) : State :=
  match (s.teamAt tid).bind fun t => (t.group g).station with
  | none => s
  | some st =>
    ((s.endOp st.op).onGroup tid g fun x => { x with station := none }).putPair tid g st.d (finalWord 0 0 st.landed)
/-- Lowering genmax below the end of a station closes it first (R291). -/
def State.closeBelow (s : State) (tid g gen : Nat) : State :=
  match (s.teamAt tid).bind fun t => (t.group g).station with
  | none => s
  | some st => if gen < st.base + st.n then s.closeStation tid g else s

/-! ### Register slabs (R124 to R127, R139) -/

/-- slabs(n) of R124. -/
def slabsOf (n : Nat) : Nat := n / 16 + (2048 - n + 511) / 512
/-- Slabs of a team (R124). -/
def Team.slabs (t : Team) : Nat := t.groups.foldl (fun n x => n + slabsOf x.genmax) 0
/-- An amount of half-core h. -/
def Per.get (p : Per) (h : Nat) : Nat := if h == 0 then p.h0 else p.h1
/-- Slabs that a team has taken from a half-core (R112). -/
def Team.slabsIn (t : Team) (h : Nat) : Nat := if h == 0 then t.slabs0 else t.slabs - t.slabs0
/-- Tiles that a team took from a half-core. -/
def Team.tilesIn (t : Team) (h : Nat) : Nat := if h == 0 then t.tiles0 else t.kernel.accTiles - t.tiles0
/-- Barrier slots that a team took from a half-core. -/
def Team.barsIn (t : Team) (h : Nat) : Nat := if h == 0 then t.bars0 else t.kernel.nb - t.bars0
/-- Half-cores of a core that a partition owns. -/
def State.halvesOf (s : State) (ctx core : Nat) : List Nat := (List.range 2).filter fun h => s.ownsHalf ctx core h
/-- What is free of a resource in half-core h for a partition that owns it (R112, R116): neither held by a team nor being scrubbed. -/
def State.freeIn (s : State) (ctx core h size : Nat) (held : Team → Nat) (dirty : Scrub → Per) : Nat :=
  if !s.ownsHalf ctx core h then 0
  else size - ((s.onCore core).foldl (fun n t => n + held t) 0 +
    s.scrubs.foldl (fun n x => if x.core == core then n + (dirty x).get h else n) 0)
/-- Free slabs of half-core h (R124). -/
def State.freeSlabsIn (s : State) (ctx core h : Nat) : Nat := s.freeIn ctx core h Config.slabsPerHalf (fun t => t.slabsIn h) (fun x => x.slabs)
/-- Free slabs of a partition's half-cores on a core. -/
def State.freeSlabs (s : State) (ctx core : Nat) : Nat := s.freeSlabsIn ctx core 0 + s.freeSlabsIn ctx core 1
/-- Slabs that raising the groups to `gen` takes (R125). -/
def Team.growNeed (t : Team) (gs : List Nat) (gen : Nat) : Nat :=
  gs.foldl (fun n g => n + (slabsOf gen - slabsOf (t.group g).genmax)) 0
/-- Raise genmax of groups (R125); a group at or above `gen` keeps its own. -/
def Team.grow (t : Team) (gs : List Nat) (gen : Nat) : Team :=
  gs.foldl (fun t g => t.onGroup g fun x => { x with genmax := max x.genmax gen }) t
/-- Raise genmax of groups with slabs of half 0 first (R112, R125). -/
def State.growSlabs (s : State) (tid : Nat) (gs : List Nat) (gen : Nat) : State :=
  match s.teamAt tid with
  | none => s
  | some t =>
    let from0 := min (t.growNeed gs gen) (s.freeSlabsIn t.ctx t.core 0)
    s.onTeam tid fun t => { t.grow gs gen with slabs0 := t.slabs0 + from0 }
/-- A blocked request of the partition on the core (R126). One of a team that is being pre-empted is withdrawn (R127). -/
def State.growBlocked (s : State) (ctx core : Nat) : Bool :=
  (s.onCore core).any fun t => t.ctx == ctx && t.phase == .running && t.frags.any fun f => match f.wait with | .grow .. => true | _ => false
/-- The request can be granted at issue (R126): it raises no genmax, or its slabs are free and no older request is blocked. That a ROLE is
denied too while an older REGGROW is blocked is the model's choice (R88; notes/assumptions/78.md). -/
def State.growNow (s : State) (w : Who) (gen : Nat) : Bool :=
  !(w.present.any fun g => (w.team.group g).genmax < gen) ||
    (w.team.growNeed w.present gen ≤ s.freeSlabs w.team.ctx w.team.core && !s.growBlocked w.team.ctx w.team.core)
/-- GEN is at most 128: a larger one breaks an operand limit (R46, R133). -/
def genOk (gen : BitVec 8) : Bool := gen.toNat ≤ 128
/-- REGGROW (R126, R139). A request that was blocked answers as the arbiter has decided. -/
def execReggrow (d : SReg) (gen : BitVec 8) (s : State) : Host.Outcome State Fault Refusal :=
  let n := 16 * gen.toNat
  execOn .execOnly true (fun _ => genOk gen) (fun w s =>
    match w.frag.wait with
    | .granted ok => .ok ((s.setAllS w d.toNat fun _ => if ok then 1 else 0).onFrag w fun f => { f with wait := .ready })
    | _ =>
      if s.growNow w n then .ok ((s.growSlabs w.team.id w.present n).setAllS w d.toNat fun _ => 1)
      else .wait ({ s with nextGrow := s.nextGrow + 1 }.onFrag w fun f => { f with wait := .grow n d s.nextGrow })) s
/-- REGGROW.NB (R127, R139). -/
def execReggrowNb (d : SReg) (gen : BitVec 8) (s : State) : Host.Outcome State Fault Refusal :=
  let n := 16 * gen.toNat
  execOn .execOnly true (fun _ => genOk gen) (fun w s =>
    if s.growNow w n then .ok ((s.growSlabs w.team.id w.present n).setAllS w d.toNat fun _ => 1)
    else .ok (s.setAllS w d.toNat fun _ => 0)) s
/-- Lower genmax of a group (R125): general registers that lose their storage become uniform 0. -/
def Group.shrink (x : Group) (gen : Nat) : Group :=
  if x.genmax ≤ gen then x
  else
    let rs := (List.range (x.genmax - gen)).map fun k => gen + k
    let y := rs.foldl (fun (y : Group) r => if (y.vget r).isGeneral then y.vput r (.uniform 0) else y) x
    { y with genmax := gen }
/-- A scrub of released resources of a core (R116). -/
def State.newScrub (s : State) (x : Scrub) : State :=
  { s with scrubs := s.scrubs ++ [{ x with id := s.nextScrub }], nextScrub := s.nextScrub + 1 }
/-- A scrub of nothing yet. -/
def Scrub.empty (ctx core : Nat) : Scrub :=
  { id := 0, ctx := ctx, core := core, slots := [], entries := [], mats := [], slabs := ⟨0, 0⟩, tiles := ⟨0, 0⟩, bars := ⟨0, 0⟩, records := ⟨0, 0⟩ }
/-- Lower genmax of groups; the slabs that come free are scrubbed, those of half 1 first (R112, R116, R125; notes/assumptions/82.md). -/
def State.shrinkSlabs (s : State) (tid : Nat) (gs : List Nat) (gen : Nat) : State :=
  match s.teamAt tid with
  | none => s
  | some t =>
    let freed := gs.foldl (fun k g => k + (slabsOf (t.group g).genmax - slabsOf gen)) 0
    let from1 := min freed (t.slabsIn 1)
    let s := s.onTeam tid fun t => { gs.foldl (fun t g => t.onGroup g fun x => x.shrink gen) t with slabs0 := t.slabs0 - (freed - from1) }
    if freed == 0 then s else s.newScrub { Scrub.empty t.ctx t.core with slabs := ⟨freed - from1, from1⟩ }
/-- A register of group `g` from `gen` to its genmax has still to be written by an outstanding operation, or read by a matrix step (R125,
R180). -/
def State.losing (s : State) (t : Team) (g gen : Nat) : Bool :=
  (s.ops.any fun o => o.team == t.id && o.writes.any fun r => match r with
    | .v h k => h == g && gen ≤ k && k < (t.group g).genmax
    | _ => false) ||
  (List.range ((t.group g).genmax - gen)).any fun k => s.matrixReads t.id g (gen + k)
/-- REGSHRINK (R125, R139): it closes stations that reach above (R291), and waits for what outstanding operations write to or read from the
registers it releases. -/
def execRegshrink (d : SReg) (gen : BitVec 8) (s : State) : Host.Outcome State Fault Refusal :=
  let n := 16 * gen.toNat
  execOn .execOnly true (fun _ => genOk gen) (fun w s =>
    let s := w.present.foldl (fun s g => s.closeBelow w.team.id g n) s
    if w.present.any fun g => s.losing w.team g n then .wait s
    else .ok ((s.shrinkSlabs w.team.id w.present n).setAllS w d.toNat fun _ => 1)) s
/-- REGQRY (R139). -/
def execRegqry (d : SReg) (s : State) : Host.Outcome State Fault Refusal :=
  execPlain (fun w s =>
    let free := s.freeSlabs w.team.ctx w.team.core
    gformW w d.toNat (fun g =>
      let n := (w.group g).genmax
      BitVec.ofNat 64 (n + 2 ^ 16 * slabsOf n + 2 ^ 32 * free)) s) s

end Sys2Proof.Machine
end

