-- ==== Sys2Proof/Decode.lean ====
section
/-! DEFINITION. The five instruction formats (R34 to R38), the decoder with checks 1 to 4 of R46, issue classes (R45), and the
encoder written from the same tables (R95, R133, R146, R153, R162, R164, R165, R182, R207, R231, R270, R288, R317, R335, R351,
R353, R357, R380, R397). -/

namespace Sys2Proof

/-! ### Formats -/

/-- Format V3 (R34). -/
structure FmtV where
  op : BitVec 8
  fn : BitVec 4
  g : Bool
  lf : Bool
  d : BitVec 11
  a : BitVec 11
  b : BitVec 11
  c : BitVec 11
  ty : BitVec 4
  rm : BitVec 3
  sat : Bool
  ind : BitVec 3
  msk : BitVec 8
  x : BitVec 19
  deriving DecidableEq, Repr
/-- Format VI (R35). -/
structure FmtI where
  op : BitVec 8
  fn : BitVec 4
  g : Bool
  lf : Bool
  d : BitVec 11
  a : BitVec 11
  imm : BitVec 32
  ty : BitVec 4
  rm : BitVec 3
  sat : Bool
  msk : BitVec 8
  x : BitVec 12
  deriving DecidableEq, Repr
/-- Format M (R36). -/
structure FmtM where
  op : BitVec 8
  fn : BitVec 4
  g : Bool
  lf : Bool
  d : BitVec 11
  a : BitVec 11
  b : BitVec 11
  c : BitVec 11
  ty : BitVec 4
  scope : BitVec 3
  ord : BitVec 3
  col : BitVec 3
  msk : BitVec 8
  off : BitVec 17
  deriving DecidableEq, Repr
/-- Format B (R37). -/
structure FmtB where
  op : BitVec 8
  fn : BitVec 4
  g : Bool
  lf : Bool
  d : BitVec 11
  a : BitVec 11
  tgt : BitVec 32
  ts : BitVec 3
  msk : BitVec 8
  x : BitVec 17
  deriving DecidableEq, Repr
/-- Format S (R38). -/
structure FmtS where
  op : BitVec 8
  fn : BitVec 4
  g : Bool
  lf : Bool
  d : BitVec 11
  a : BitVec 11
  b : BitVec 11
  sel : BitVec 16
  msk : BitVec 8
  z : BitVec 25
  deriving DecidableEq, Repr

/-- The fields of a word in format V3. -/
def FmtV.ofWord (w : IWord) : FmtV :=
  { op := w.extractLsb' 88 8, fn := w.extractLsb' 84 4, g := w.getLsbD 83, lf := w.getLsbD 82, d := w.extractLsb' 71 11,
    a := w.extractLsb' 60 11, b := w.extractLsb' 49 11, c := w.extractLsb' 38 11, ty := w.extractLsb' 34 4,
    rm := w.extractLsb' 31 3, sat := w.getLsbD 30, ind := w.extractLsb' 27 3, msk := w.extractLsb' 19 8,
    x := w.extractLsb' 0 19 }
/-- The word of a V3 instruction. -/
def FmtV.toWord (r : FmtV) : IWord :=
  r.op ++ r.fn ++ BitVec.ofBool r.g ++ BitVec.ofBool r.lf ++ r.d ++ r.a ++ r.b ++ r.c ++ r.ty ++ r.rm ++
    BitVec.ofBool r.sat ++ r.ind ++ r.msk ++ r.x
/-- The fields of a word in format VI. -/
def FmtI.ofWord (w : IWord) : FmtI :=
  { op := w.extractLsb' 88 8, fn := w.extractLsb' 84 4, g := w.getLsbD 83, lf := w.getLsbD 82, d := w.extractLsb' 71 11,
    a := w.extractLsb' 60 11, imm := w.extractLsb' 28 32, ty := w.extractLsb' 24 4, rm := w.extractLsb' 21 3,
    sat := w.getLsbD 20, msk := w.extractLsb' 12 8, x := w.extractLsb' 0 12 }
/-- The word of a VI instruction. -/
def FmtI.toWord (r : FmtI) : IWord :=
  r.op ++ r.fn ++ BitVec.ofBool r.g ++ BitVec.ofBool r.lf ++ r.d ++ r.a ++ r.imm ++ r.ty ++ r.rm ++ BitVec.ofBool r.sat ++
    r.msk ++ r.x
/-- The fields of a word in format M. -/
def FmtM.ofWord (w : IWord) : FmtM :=
  { op := w.extractLsb' 88 8, fn := w.extractLsb' 84 4, g := w.getLsbD 83, lf := w.getLsbD 82, d := w.extractLsb' 71 11,
    a := w.extractLsb' 60 11, b := w.extractLsb' 49 11, c := w.extractLsb' 38 11, ty := w.extractLsb' 34 4,
    scope := w.extractLsb' 31 3, ord := w.extractLsb' 28 3, col := w.extractLsb' 25 3, msk := w.extractLsb' 17 8,
    off := w.extractLsb' 0 17 }
/-- The word of a format M instruction. -/
def FmtM.toWord (r : FmtM) : IWord :=
  r.op ++ r.fn ++ BitVec.ofBool r.g ++ BitVec.ofBool r.lf ++ r.d ++ r.a ++ r.b ++ r.c ++ r.ty ++ r.scope ++ r.ord ++ r.col ++
    r.msk ++ r.off
/-- The fields of a word in format B. -/
def FmtB.ofWord (w : IWord) : FmtB :=
  { op := w.extractLsb' 88 8, fn := w.extractLsb' 84 4, g := w.getLsbD 83, lf := w.getLsbD 82, d := w.extractLsb' 71 11,
    a := w.extractLsb' 60 11, tgt := w.extractLsb' 28 32, ts := w.extractLsb' 25 3, msk := w.extractLsb' 17 8,
    x := w.extractLsb' 0 17 }
/-- The word of a format B instruction. -/
def FmtB.toWord (r : FmtB) : IWord :=
  r.op ++ r.fn ++ BitVec.ofBool r.g ++ BitVec.ofBool r.lf ++ r.d ++ r.a ++ r.tgt ++ r.ts ++ r.msk ++ r.x
/-- The fields of a word in format S. -/
def FmtS.ofWord (w : IWord) : FmtS :=
  { op := w.extractLsb' 88 8, fn := w.extractLsb' 84 4, g := w.getLsbD 83, lf := w.getLsbD 82, d := w.extractLsb' 71 11,
    a := w.extractLsb' 60 11, b := w.extractLsb' 49 11, sel := w.extractLsb' 33 16, msk := w.extractLsb' 25 8,
    z := w.extractLsb' 0 25 }
/-- The word of a format S instruction. -/
def FmtS.toWord (r : FmtS) : IWord :=
  r.op ++ r.fn ++ BitVec.ofBool r.g ++ BitVec.ofBool r.lf ++ r.d ++ r.a ++ r.b ++ r.sel ++ r.msk ++ r.z

/-! ### Field encodings -/

/-- The integer table of R41. -/
def IntTy.ofCode (c : BitVec 4) : Option IntTy :=
  match c.toNat with
  | 0 => some .i32 | 1 => some .n32 | 2 => some .i64 | 3 => some .n64 | 4 => some .i16 | 5 => some .n16 | 6 => some .i8
  | 7 => some .n8 | 8 => some .i4 | 9 => some .n4 | 10 => some .b128 | _ => none
/-- The code of an integer type. -/
def IntTy.code : IntTy → BitVec 4
  | .i32 => 0 | .n32 => 1 | .i64 => 2 | .n64 => 3 | .i16 => 4 | .n16 => 5 | .i8 => 6 | .n8 => 7 | .i4 => 8 | .n4 => 9
  | .b128 => 10
/-- The floating table of R41. -/
def FltTy.ofCode (c : BitVec 4) : Option FltTy :=
  match c.toNat with
  | 0 => some .f32 | 1 => some .f16 | 2 => some .bf16 | 3 => some .e4m3 | 4 => some .e5m2 | 5 => some .e3m2
  | 6 => some .e2m3 | 7 => some .e2m1 | 8 => some .e8m0 | _ => none
/-- The code of a floating type. -/
def FltTy.code : FltTy → BitVec 4
  | .f32 => 0 | .f16 => 1 | .bf16 => 2 | .e4m3 => 3 | .e5m2 => 4 | .e3m2 => 5 | .e2m3 => 6 | .e2m1 => 7 | .e8m0 => 8
/-- A type of the table that `flt` selects; .B128 is in neither (R146, R162). -/
def NumTy.ofCode (flt : Bool) (c : BitVec 4) : Option NumTy :=
  if flt then (FltTy.ofCode c).map .flt
  else match IntTy.ofCode c with
    | some .b128 => none
    | t => t.map .int
/-- The code of a type in its table. -/
def NumTy.code : NumTy → BitVec 4
  | .int t => t.code
  | .flt t => t.code
/-- A type of the floating table. -/
def NumTy.isFlt : NumTy → Bool
  | .int _ => false
  | .flt _ => true

/-- RM 0 to 5 (R42). -/
def Round.ofCode (rm : BitVec 3) (x : BitVec 11) : Option Round :=
  match rm.toNat with
  | 0 => some .rne | 1 => some .rz | 2 => some .rup | 3 => some .rdn | 4 => some .rna | 5 => some (.rs x) | _ => none
/-- RM 0 to 4, of an opcode with no stochastic form (R42). -/
def Round.ofCode4 (rm : BitVec 3) : Option Round :=
  if rm.toNat ≤ 4 then Round.ofCode rm 0 else none
/-- The code of a mode. -/
def Round.code : Round → BitVec 3
  | .rne => 0 | .rz => 1 | .rup => 2 | .rdn => 3 | .rna => 4 | .rs _ => 5
/-- The random-bit register of a mode. -/
def Round.reg : Round → BitVec 11
  | .rs r => r
  | _ => 0
/-- SCOPE (R43). -/
def Scope.ofCode (c : BitVec 3) : Option Scope :=
  match c.toNat with
  | 0 => some .grp | 1 => some .team | 2 => some .clu | 3 => some .pkg | 4 => some .pod | 5 => some .sys | _ => none
/-- The code of a scope. -/
def Scope.code : Scope → BitVec 3
  | .grp => 0 | .team => 1 | .clu => 2 | .pkg => 3 | .pod => 4 | .sys => 5
/-- ORD (R43). -/
def Ord.ofCode (c : BitVec 3) : Option Ord :=
  match c.toNat with
  | 0 => some .rlx | 1 => some .acq | 2 => some .rel | 3 => some .ar | 4 => some .sc | _ => none
/-- The code of an order. -/
def Ord.code : Ord → BitVec 3
  | .rlx => 0 | .acq => 1 | .rel => 2 | .ar => 3 | .sc => 4
/-- The condition of ICMP by FN (R151). -/
def ICond.ofCode (c : BitVec 4) : Option ICond :=
  match c.toNat with
  | 0 => some .eq | 1 => some .ne | 2 => some .lt | 3 => some .le | 4 => some .gt | 5 => some .ge | _ => none
/-- The FN of a condition. -/
def ICond.code : ICond → BitVec 4
  | .eq => 0 | .ne => 1 | .lt => 2 | .le => 3 | .gt => 4 | .ge => 5
/-- The condition of FCMP and ACMP by FN (R156). -/
def FCond.ofCode (c : BitVec 4) : Option FCond :=
  match c.toNat with
  | 0 => some .eq | 1 => some .ne | 2 => some .lt | 3 => some .le | 4 => some .gt | 5 => some .ge | 6 => some .un
  | 7 => some .ord | _ => none
/-- The FN of a condition. -/
def FCond.code : FCond → BitVec 4
  | .eq => 0 | .ne => 1 | .lt => 2 | .le => 3 | .gt => 4 | .ge => 5 | .un => 6 | .ord => 7
/-- The condition of CWAIT by FN (R280). -/
def WCond.ofCode (c : BitVec 4) : Option WCond :=
  match c.toNat with
  | 0 => some .eq | 1 => some .ne | 2 => some .ge | 3 => some .lt | 4 => some .geu | 5 => some .ltu | _ => none
/-- The FN of a condition. -/
def WCond.code : WCond → BitVec 4
  | .eq => 0 | .ne => 1 | .ge => 2 | .lt => 3 | .geu => 4 | .ltu => 5
/-- IND of a compare (R150). -/
def CmpMode.ofCode (ind : BitVec 3) (c : BitVec 11) : Option CmpMode :=
  match ind.toNat with
  | 0 => some .set | 1 => some .keep | 2 => some (.and (c.setWidth 8)) | 3 => some (.or (c.setWidth 8)) | _ => none
/-- The IND of a mode. -/
def CmpMode.code : CmpMode → BitVec 3
  | .set => 0 | .keep => 1 | .and _ => 2 | .or _ => 3
/-- The C field of a mode. -/
def CmpMode.reg : CmpMode → BitVec 11
  | .and c => c.setWidth 11
  | .or c => c.setWidth 11
  | _ => 0
/-- The operation of ATOM by FN (R273). -/
def AtomOp.ofCode (fn : BitVec 4) (c : BitVec 11) : Option AtomOp :=
  match fn.toNat with
  | 0 => some .add | 1 => some .min | 2 => some .max | 3 => some .and | 4 => some .or | 5 => some .xor | 6 => some .exch
  | 7 => some (.cas c) | 8 => some .inc | _ => none
/-- The FN of an operation. -/
def AtomOp.code : AtomOp → BitVec 4
  | .add => 0 | .min => 1 | .max => 2 | .and => 3 | .or => 4 | .xor => 5 | .exch => 6 | .cas _ => 7 | .inc => 8
/-- The C field of an operation. -/
def AtomOp.reg : AtomOp → BitVec 11
  | .cas c => c
  | _ => 0
/-- The operation of REDL and SCANL by FN (R133): RM belongs to .FADD alone. -/
def RedOp.ofCode (fn : BitVec 4) (rm : BitVec 3) : Option RedOp :=
  match fn.toNat with
  | 0 => some .add | 1 => some .min | 2 => some .max | 3 => some .and | 4 => some .or | 5 => some .xor
  | 8 => (Round.ofCode4 rm).map .fadd | 9 => some .fmin | 10 => some .fmax | _ => none
/-- The FN of an operation. -/
def RedOp.code : RedOp → BitVec 4
  | .add => 0 | .min => 1 | .max => 2 | .and => 3 | .or => 4 | .xor => 5 | .fadd _ => 8 | .fmin => 9 | .fmax => 10
/-- The RM field of an operation. -/
def RedOp.rm : RedOp → BitVec 3
  | .fadd r => r.code
  | _ => 0
/-- The FN of COLL (R353). -/
def CollOp.ofCode (fn : BitVec 4) : Option CollOp :=
  match fn.toNat with
  | 0 => some .put | 1 => some .add | 2 => some .min | 3 => some .max | _ => none
/-- The FN of an operation. -/
def CollOp.code : CollOp → BitVec 4
  | .put => 0 | .add => 1 | .min => 2 | .max => 3
/-- FN of FFMA (R153). -/
def FmaKind.ofCode (fn : BitVec 4) : Option FmaKind :=
  match fn.toNat with
  | 0 => some .plain | 1 => some .ms | 2 => some .nma | 3 => some .nms | _ => none
/-- The FN of a kind. -/
def FmaKind.code : FmaKind → BitVec 4
  | .plain => 0 | .ms => 1 | .nma => 2 | .nms => 3

/-- The partner formats of R165 and R183. -/
def NumTy.partner : NumTy → Option NumTy
  | .flt .f16 => some (.flt .bf16) | .flt .bf16 => some (.flt .f16)
  | .flt .e4m3 => some (.flt .e5m2) | .flt .e5m2 => some (.flt .e4m3)
  | .flt .e3m2 => some (.flt .e2m3) | .flt .e2m3 => some (.flt .e3m2)
  | .int .i8 => some (.int .n8) | .int .n8 => some (.int .i8)
  | .int .i4 => some (.int .n4) | .int .n4 => some (.int .i4)
  | .int .i16 => some (.int .n16) | .int .n16 => some (.int .i16)
  | _ => none

/-! ### The decoder -/

/-- Why a word is no instruction: the number of the check of R46 that it fails. -/
inductive DecodeError
  /-- Check 1: OP is reserved. -/
  | reservedOpcode
  /-- Check 2: G, LF or another reserved bit or field is non-zero. -/
  | reservedField
  /-- Check 3: a register field lies outside its file. -/
  | registerFile
  /-- Check 4: an illegal value. -/
  | illegalValue
  deriving DecidableEq, Repr
/-- The number of the check (R46). -/
def DecodeError.number : DecodeError → Nat
  | .reservedOpcode => 1 | .reservedField => 2 | .registerFile => 3 | .illegalValue => 4

/-- The result of decoding. -/
abbrev Decoded := Except DecodeError Instr

/-- Checks 2, 3 and 4 of R46 in their order. -/
def sift (reserved files : Bool) (i : Option Instr) : Decoded :=
  if !reserved then .error .reservedField
  else if !files then .error .registerFile
  else match i with
    | some i => .ok i
    | none => .error .illegalValue

/-- The field names an s register (R39). -/
def inS (r : BitVec 11) : Bool := r.toNat < 256
/-- The field names a tile (R39). -/
def inA (r : BitVec 11) : Bool := r.toNat < 16
/-- The field names a queue (R39). -/
def inQ (r : BitVec 11) : Bool := r.toNat < 8
/-- A field that names v registers in the vector form and s registers in the G form (R39). -/
def inV (g : Bool) (r : BitVec 11) : Bool := !g || inS r
/-- An s register field. -/
def toS (r : BitVec 11) : SReg := r.setWidth 8
/-- A tile field. -/
def toA (r : BitVec 11) : AReg := r.setWidth 4
/-- A queue field. -/
def toQ (r : BitVec 11) : QReg := r.setWidth 3
/-- The i-th bits of X: field [h:l] of a V3 word's X. -/
def FmtV.xf (r : FmtV) (l n : Nat) : BitVec n := r.x.extractLsb' l n
/-- Legal target of a format B word (R37). -/
def FmtB.target (r : FmtB) : Option Target := if r.ts.toNat ≤ 4 then some ⟨r.tgt, r.ts⟩ else none

/-- Format B: OP 0x01 to 0x16 (R95, R231, R270, R288, R351). -/
def decodeB (r : FmtB) : Decoded :=
  let base := !r.g && !r.lf
  let noT := r.tgt == 0 && r.ts == 0
  let noM := r.msk == 0
  let noX := r.x == 0
  let noD := r.d == 0
  let noA := r.a == 0
  let f0 (i : Option Instr) : Option Instr := if r.fn == 0 then i else none
  let ft (f : Target → Instr) : Option Instr := f0 (r.target.map f)
  match r.op.toNat with
  | 0x01 => sift (base && noD && noA && noT && noM && noX) true (f0 (some .nop))
  | 0x02 => sift (base && noD && noA && noM && noX) true (ft .bra)
  | 0x03 => sift (base && noD && noX) (inS r.a)
      (if r.fn.toNat ≤ 1 then r.target.map fun t => .brc (r.fn == 1) (toS r.a) t r.msk else none)
  | 0x04 => sift (base && noD && noT && noX) true (f0 (some (.brx r.a r.msk)))
  | 0x05 => sift (base && noA && noM && noX) (inS r.d) (ft (.call (toS r.d)))
  | 0x06 => sift (base && noD && noT && noM && noX) (inS r.a) (f0 (some (.ret (toS r.a))))
  | 0x07 => sift (base && noD && noA && noM && noX) true (ft .join)
  | 0x08 => sift (base && noD && noA && noT && noX) true (f0 (some (.exit r.msk)))
  | 0x09 => sift (base && noA && noM && r.x.extractLsb' 6 2 == 0) (inS r.d)
      (let gen := r.x.extractLsb' 8 8
       let keep := r.x.getLsbD 16
       if gen.toNat ≤ 128 && (!keep || gen == 0) then
         ft fun t => .role ⟨toS r.d, t, r.x.extractLsb' 0 4, r.x.extractLsb' 4 2, gen, keep⟩
       else none)
  | 0x0A => sift (base && noD && noA && noT && noM && !r.x.getLsbD 16) true (f0 (some (.yield (r.x.extractLsb' 0 16))))
  | 0x0B => sift (base && noD && noM && r.x.extractLsb' 12 5 == 0 && (r.fn != 0 || r.x == 0) && (r.fn != 1 || noA)) true
      (if r.fn == 0 then r.target.map (.yieldcR r.a)
       else if r.fn == 1 then r.target.map (.yieldcF (r.x.extractLsb' 0 12)) else none)
  | 0x0C => sift (base && noD && noA && noT && noM && r.x.extractLsb' 8 9 == 0) true (f0 (some (.trap (r.x.extractLsb' 0 8))))
  | 0x0D => sift (base && noA && noT && noM && r.x.extractLsb' 15 2 == 0) (inS r.d)
      (if (r.x.extractLsb' 4 11).toNat ≤ 1024 then
         f0 (some (.bara (toS r.d) (r.x.extractLsb' 0 4) (r.x.extractLsb' 4 11))) else none)
  | 0x0E => sift (base && noD && noT && noM && r.x.extractLsb' 4 13 == 0) (inS r.a)
      (f0 (some (.barw (toS r.a) (r.x.extractLsb' 0 4))))
  | 0x0F => sift (base && noA && noT && noM && r.x.extractLsb' 15 2 == 0) (inS r.d)
      (if (r.x.extractLsb' 4 11).toNat ≤ 1024 then
         f0 (some (.bars (toS r.d) (r.x.extractLsb' 0 4) (r.x.extractLsb' 4 11))) else none)
  | 0x10 => sift (base && noD && noT && noM && noX) (inS r.a) (f0 (some (.emset (toS r.a))))
  | 0x11 => sift (base && noA && noT && noM && noX) (inS r.d)
      (if r.fn == 0 then some (.emget .ex (toS r.d)) else if r.fn == 1 then some (.emget .own (toS r.d))
       else if r.fn == 2 then some (.emget .en (toS r.d)) else none)
  | 0x12 => sift (base && noD && noT && noM && noX) (inS r.a) (f0 (some (.emand (toS r.a))))
  | 0x13 => sift (base && noD && noA && noT && noM && noX) true (f0 (some .rgn))
  | 0x14 => sift (base && noD && noT && noM && (r.fn != 0 || noA) && (r.fn != 1 || r.x.extractLsb' 0 16 == 0))
      (r.fn != 1 || inS r.a)
      (if r.fn == 0 then some (.mark (r.x.extractLsb' 0 16) (r.x.getLsbD 16))
       else if r.fn == 1 then some (.markS (toS r.a) (r.x.getLsbD 16)) else none)
  | 0x15 => sift (base && noT && noM && r.x.extractLsb' 8 9 == 0) (inS r.d && inS r.a)
      (match WCond.ofCode r.fn, Scope.ofCode (r.x.extractLsb' 1 3), (r.x.extractLsb' 4 3).toNat with
       | some c, some sc, 0 => some (.cwait ⟨c, r.x.getLsbD 0, sc, false, r.x.getLsbD 7, toS r.d, toS r.a⟩)
       | some c, some sc, 1 => some (.cwait ⟨c, r.x.getLsbD 0, sc, true, r.x.getLsbD 7, toS r.d, toS r.a⟩)
       | _, _, _ => none)
  | 0x16 => sift (base && noD && noT && noM && noX && ((r.fn != 1 && r.fn != 2) || noA)) (r.fn != 0 || inS r.a)
      (if r.fn == 0 then some (.eretT (toS r.a)) else if r.fn == 1 then some .eretSave
       else if r.fn == 2 then some .eretRst else none)
  | _ => .error .reservedOpcode

/-- Format VI: OP 0x21, 0x23, 0x24 (R133). -/
def decodeI (r : FmtI) : Decoded :=
  let base := !r.lf && r.ty == 0 && r.rm == 0 && !r.sat && r.x == 0 && (!r.g || r.msk == 0)
  match r.op.toNat with
  | 0x21 => sift (base && r.a == 0) (inV r.g r.d) (if r.fn == 0 then some (.movi ⟨r.g, r.d, r.imm, r.msk⟩) else none)
  | 0x23 => sift (base && r.a == 0) (inV r.g r.d)
      (if r.fn == 0 then some (.movl ⟨r.g, .s, r.d, r.imm, r.msk⟩)
       else if r.fn == 1 then some (.movl ⟨r.g, .z, r.d, r.imm, r.msk⟩)
       else if r.fn == 2 then some (.movl ⟨r.g, .h, r.d, r.imm, r.msk⟩) else none)
  | 0x24 => sift base (inV r.g r.d && inV r.g r.a)
      (if r.fn == 0 then some (.aff ⟨r.g, r.d, r.a, r.imm, r.msk⟩) else none)
  | _ => .error .reservedOpcode

/-- The operation and type of REDL and SCANL (R133). -/
def FmtV.red (r : FmtV) : Option RedArgs :=
  match RedOp.ofCode r.fn r.rm, IntTy.ofCode r.ty with
  | some op, some t =>
    if (r.fn.toNat ≤ 5 && r.ty.toNat ≤ 3) || r.ty == 0 then some ⟨op, t, r.x.getLsbD 0, r.d, r.a, r.msk⟩ else none
  | _, _ => none

/-- Format V3 of the chapter on vector registers: OP 0x20, 0x22, 0x25 to 0x31 (R133). -/
def decodeV6 (r : FmtV) : Decoded :=
  let base := !r.lf && !r.sat && r.ind == 0
  let noT := r.ty == 0 && r.rm == 0
  let noX := r.x == 0
  let noB := r.b == 0
  let noC := r.c == 0
  let noG := !r.g
  let gm := !r.g || r.msk == 0
  match r.op.toNat with
  | 0x20 => sift (base && r.rm == 0 && noX && noB && noC && gm) (inV r.g r.d && inV r.g r.a)
      (if r.fn == 0 && (r.ty == 0 || (!r.g && r.ty.toNat ≤ 3)) then
         (IntTy.ofCode r.ty).map fun t => .mov ⟨r.g, t, r.d, r.a, r.msk⟩ else none)
  | 0x22 => sift (base && noT && noX && noB && noC && gm && (r.fn.toNat > 1 || noG) && (r.fn != 2 || r.a == 0) &&
        ((r.fn != 3 && r.fn != 4) || r.d == 0))
      ((r.fn.toNat > 1 || inS r.a) && (r.fn != 2 || inS r.d) && ((r.fn != 3 && r.fn != 4) || inS r.a))
      (if r.fn.toNat ≤ 1 then some (.movs ⟨r.fn == 1, r.d, toS r.a, r.msk⟩)
       else if !r.g then none
       else if r.fn == 2 then some (.gmovsRdf (toS r.d)) else if r.fn == 3 then some (.gmovsWrf (toS r.a))
       else if r.fn == 4 then some (.gmovsClf (toS r.a)) else none)
  | 0x25 => sift (base && noT && noX && noB && noC && noG) true
      (if r.fn == 0 then some (.shape ⟨.tight, r.d, r.a, r.msk⟩) else if r.fn == 1 then some (.shape ⟨.gen, r.d, r.a, r.msk⟩)
       else if r.fn == 2 then some (.shape ⟨.qry, r.d, r.a, r.msk⟩) else none)
  | 0x26 => sift (base && noT && noC && noG && r.xf 11 8 == 0) true
      (if r.fn.toNat ≤ 1 then some (.ldx ⟨r.fn == 1, r.d, r.a, r.b, r.xf 0 11, r.msk⟩) else none)
  | 0x27 => sift (base && noT && noC && noG && r.xf 11 8 == 0) true
      (if r.fn.toNat ≤ 1 then some (.stx ⟨r.fn == 1, r.d, r.a, r.b, r.xf 0 11, r.msk⟩) else none)
  | 0x28 => sift (base && noT && noX && noC && noG) true (if r.fn == 0 then some (.perm ⟨r.d, r.a, r.b, r.msk⟩) else none)
  | 0x29 => sift (base && noT && noX && noG) true (if r.fn == 0 then some (.perm2 ⟨r.d, r.a, r.b, r.c, r.msk⟩) else none)
  | 0x2A => sift (base && noT && noC && noG && r.xf 6 13 == 0 && (r.fn != 0 || noB) && (r.fn != 1 || noX)) (r.fn != 1 || inS r.b)
      (if r.fn == 0 then some (.lbcast ⟨.imm (r.xf 0 6), r.d, r.a, r.msk⟩)
       else if r.fn == 1 then some (.lbcast ⟨.sreg (toS r.b), r.d, r.a, r.msk⟩) else none)
  | 0x2B => sift (base && noX && noB && noC && noG && (r.fn == 8 || r.rm == 0)) true (r.red.map .redl)
  | 0x2C => sift (base && r.xf 1 18 == 0 && noB && noC && noG && (r.fn == 8 || r.rm == 0)) true (r.red.map .scanl)
  | 0x2D => sift (base && noT && noX && noB && noC && noG) (inS r.d)
      (if r.fn.toNat ≤ 1 then some (.ballot ⟨r.fn == 1, toS r.d, r.a, r.msk⟩) else none)
  | 0x2E => sift (base && noT && noX && noB && noC && gm) (inV r.g r.d && inS r.a)
      (if r.fn == 0 then some (.mpop (if r.g then .gcnt (toS r.d) (toS r.a) else .cnt r.d (toS r.a) r.msk))
       else if !r.g then none
       else if r.fn == 1 then some (.mpop (.gfirst (toS r.d) (toS r.a)))
       else if r.fn == 2 then some (.mpop (.gnext (toS r.d) (toS r.a))) else none)
  | 0x2F => sift (base && noT && noB && noC && noG && r.a == 0 && r.msk == 0 && r.xf 8 11 == 0) (inS r.d)
      (if r.fn == 0 then some (.reggrow (toS r.d) (r.xf 0 8))
       else if r.fn == 1 then some (.reggrowNb (toS r.d) (r.xf 0 8)) else none)
  | 0x30 => sift (base && noT && noB && noC && noG && r.a == 0 && r.msk == 0 && r.xf 8 11 == 0) (inS r.d)
      (if r.fn == 0 then some (.regshrink (toS r.d) (r.xf 0 8)) else none)
  | 0x31 => sift (base && noT && noX && noB && noC && noG && r.a == 0 && r.msk == 0) (inS r.d)
      (if r.fn == 0 then some (.regqry (toS r.d)) else none)
  | _ => .error .reservedOpcode

/-- An integer type other than .B128 (R146). -/
def FmtV.ity (r : FmtV) : Option IntTy :=
  match IntTy.ofCode r.ty with
  | some .b128 => none
  | t => t
/-- A two-source integer form (R146): `sat` where the row allows SAT. -/
def FmtV.int2 (r : FmtV) (sat : Bool) (f : Int2 → Instr) : Decoded :=
  sift (!r.lf && r.rm == 0 && r.ind == 0 && r.x == 0 && r.c == 0 && (sat || !r.sat) && (!r.g || r.msk == 0))
    (inV r.g r.d && inV r.g r.a && inV r.g r.b)
    (if r.fn == 0 then r.ity.map fun t => f ⟨r.g, t, r.sat, r.d, r.a, r.b, r.msk⟩ else none)
/-- A one-source integer form (R146). -/
def FmtV.int1 (r : FmtV) (sat : Bool) (f : Int1 → Instr) : Decoded :=
  sift (!r.lf && r.rm == 0 && r.ind == 0 && r.x == 0 && r.b == 0 && r.c == 0 && (sat || !r.sat) && (!r.g || r.msk == 0))
    (inV r.g r.d && inV r.g r.a)
    (if r.fn == 0 then r.ity.map fun t => f ⟨r.g, t, r.sat, r.d, r.a, r.msk⟩ else none)
/-- The C field of a compare is reserved but in .AND and .OR (R146, R150). -/
def FmtV.cmpC (r : FmtV) : Bool := r.ind == 2 || r.ind == 3

/-- Integer and address instructions: OP 0x40 to 0x57 (R146). -/
def decodeV7i (r : FmtV) : Decoded :=
  let gm := !r.g || r.msk == 0
  match r.op.toNat with
  | 0x40 => r.int2 true .iadd
  | 0x41 => r.int2 true .isub
  | 0x42 => r.int2 true .imul
  | 0x43 => r.int2 false .imulh
  | 0x44 => sift (!r.lf && r.rm == 0 && r.ind == 0 && r.x == 0 && gm)
      (inV r.g r.d && inV r.g r.a && inV r.g r.b && inV r.g r.c)
      (if r.fn == 0 then r.ity.map fun t => .imad ⟨r.g, t, r.sat, r.d, r.a, r.b, r.c, r.msk⟩ else none)
  | 0x45 => r.int2 false .imin
  | 0x46 => r.int2 false .imax
  | 0x47 => r.int1 true .iabs
  | 0x48 => r.int2 false .iand
  | 0x49 => r.int2 false .ior
  | 0x4A => r.int2 false .ixor
  | 0x4B => r.int1 false .inot
  | 0x4C => r.int2 false .shl
  | 0x4D => r.int2 false .shr
  | 0x4E => r.int2 false .sha
  | 0x4F => r.int2 false .rot
  | 0x50 => sift (!r.lf && r.rm == 0 && !r.sat && r.ind == 0 && r.b == 0 && r.c == 0 && r.xf 13 6 == 0 && gm)
      (inV r.g r.d && inV r.g r.a)
      (if r.fn == 0 then r.ity.map fun t => .bfx ⟨r.g, t, r.d, r.a, r.xf 0 6, r.xf 6 7, r.msk⟩ else none)
  | 0x51 => sift (!r.lf && r.rm == 0 && !r.sat && r.ind == 0 && r.c == 0 && r.xf 13 6 == 0 && gm)
      (inV r.g r.d && inV r.g r.a && inV r.g r.b)
      (if r.fn == 0 then r.ity.map fun t => .bfi ⟨r.g, t, r.d, r.a, r.b, r.xf 0 6, r.xf 6 7, r.msk⟩ else none)
  | 0x52 => r.int1 false .popc
  | 0x53 => r.int1 false .clz
  | 0x54 => r.int1 false .brev
  | 0x55 => sift (!r.lf && r.rm == 0 && !r.sat && r.x == 0 && gm && (r.cmpC || r.c == 0))
      (inS r.d && inV r.g r.a && inV r.g r.b && (!r.cmpC || inS r.c))
      (if r.g && r.ind != 0 then none
       else match ICond.ofCode r.fn, r.ity, CmpMode.ofCode r.ind r.c with
         | some k, some t, some m => some (.icmp ⟨r.g, k, t, m, toS r.d, r.a, r.b, r.msk⟩)
         | _, _, _ => none)
  | 0x56 => sift (!r.lf && r.rm == 0 && !r.sat && r.ind == 0 && r.x == 0 && gm)
      (inV r.g r.d && inV r.g r.a && inV r.g r.b && inS r.c)
      (if r.fn == 0 then r.ity.map fun t => .sel ⟨r.g, t, r.d, r.a, r.b, toS r.c, r.msk⟩ else none)
  | 0x57 => sift (!r.lf && r.rm == 0 && !r.sat && r.ind == 0 && r.c == 0 && gm)
      (inV r.g r.d && inV r.g r.a && inV r.g r.b)
      (if r.fn == 0 then r.ity.map fun t => .lea ⟨r.g, t, r.d, r.a, r.b, r.xf 0 3, r.xf 3 16, r.msk⟩ else none)
  | _ => .error .reservedOpcode

/-- X holds the random-bit register under .RS and is reserved otherwise (R42). -/
def FmtV.rndX (r : FmtV) : Bool := if r.rm == 5 then r.xf 11 8 == 0 else r.x == 0
/-- The random-bit register lies in its file. -/
def FmtV.rndR (r : FmtV) : Bool := r.rm != 5 || inV r.g (r.xf 0 11)
/-- The rounding mode with every value of R42. -/
def FmtV.rmode (r : FmtV) : Option Round := Round.ofCode r.rm (r.xf 0 11)
/-- A two-source rounding form (R153). -/
def FmtV.flt2 (r : FmtV) (f : Flt2 → Instr) : Decoded :=
  sift (!r.lf && r.ind == 0 && r.c == 0 && r.rndX && (!r.g || r.msk == 0))
    (inV r.g r.d && inV r.g r.a && inV r.g r.b && r.rndR)
    (match r.fn.toNat, FltTy.ofCode r.ty, r.rmode with
     | 0, some t, some m => some (f ⟨r.g, t, m, r.sat, r.d, r.a, r.b, r.msk⟩)
     | _, _, _ => none)
/-- A one-source rounding form (R153): `all` where every RM is legal, else RM 0 only; `sat` where the row allows SAT. -/
def FmtV.flt1 (r : FmtV) (all sat : Bool) (f : Flt1 → Instr) : Decoded :=
  sift (!r.lf && r.ind == 0 && r.b == 0 && r.c == 0 && (if all then r.rndX else r.x == 0) && (sat || !r.sat) &&
      (!r.g || r.msk == 0))
    (inV r.g r.d && inV r.g r.a && (!all || r.rndR))
    (match r.fn.toNat, FltTy.ofCode r.ty, (if all then r.rmode else if r.rm == 0 then some .rne else none) with
     | 0, some t, some m => some (f ⟨r.g, t, m, r.sat, r.d, r.a, r.msk⟩)
     | _, _, _ => none)
/-- FMIN and FMAX (R153). -/
def FmtV.fmm (r : FmtV) (f : FMinArgs → Instr) : Decoded :=
  sift (!r.lf && r.rm == 0 && !r.sat && r.ind == 0 && r.c == 0 && r.x == 0 && (!r.g || r.msk == 0))
    (inV r.g r.d && inV r.g r.a && inV r.g r.b)
    (if r.fn == 0 then (FltTy.ofCode r.ty).map fun t => f ⟨r.g, t, r.d, r.a, r.b, r.msk⟩ else none)

/-- Floating instructions: OP 0x60 to 0x70 (R153, R162). -/
def decodeV7f (r : FmtV) : Decoded :=
  let gm := !r.g || r.msk == 0
  match r.op.toNat with
  | 0x60 => r.flt2 .fadd
  | 0x61 => r.flt2 .fsub
  | 0x62 => r.flt2 .fmul
  | 0x63 => sift (!r.lf && r.ind == 0 && r.rndX && gm)
      (inV r.g r.d && inV r.g r.a && inV r.g r.b && inV r.g r.c && r.rndR)
      (match FmaKind.ofCode r.fn, FltTy.ofCode r.ty, r.rmode with
       | some k, some t, some m => some (.ffma ⟨r.g, k, t, m, r.sat, r.d, r.a, r.b, r.c, r.msk⟩)
       | _, _, _ => none)
  | 0x64 => r.fmm .fmin
  | 0x65 => r.fmm .fmax
  | 0x66 => sift (!r.lf && r.rm == 0 && !r.sat && r.x == 0 && gm && (r.cmpC || r.c == 0))
      (inS r.d && inV r.g r.a && inV r.g r.b && (!r.cmpC || inS r.c))
      (if r.g && r.ind != 0 then none
       else match FCond.ofCode r.fn, FltTy.ofCode r.ty, CmpMode.ofCode r.ind r.c with
         | some k, some t, some m => some (.fcmp ⟨r.g, k, t, m, toS r.d, r.a, r.b, r.msk⟩)
         | _, _, _ => none)
  | 0x67 => sift (!r.lf && r.rm == 0 && !r.sat && r.ind == 0 && r.b == 0 && r.c == 0 && r.x == 0 && gm)
      (inV r.g r.d && inV r.g r.a)
      (if r.fn == 0 then (FltTy.ofCode r.ty).map fun t => .fclass ⟨r.g, t, r.d, r.a, r.msk⟩ else none)
  | 0x68 => r.flt1 true false .frnd
  | 0x69 => r.flt2 .fscl
  | 0x6A => r.flt1 true true .frcp
  | 0x6B => r.flt1 false true .frsq
  | 0x6C => r.flt1 true true .fsqrt
  | 0x6D => r.flt1 false true .fexp2
  | 0x6E => r.flt1 false true .flog2
  | 0x6F => r.flt1 false true .ftanh
  | 0x70 => sift (!r.lf && r.ind == 0 && r.b == 0 && r.c.extractLsb' 6 5 == 0 && r.rndX && gm)
      (inV r.g r.d && inV r.g r.a && r.rndR)
      (match r.fn.toNat, NumTy.ofCode (r.c.getLsbD 5) r.ty, NumTy.ofCode (r.c.getLsbD 4) (r.c.extractLsb' 0 4), r.rmode with
       | 0, some dt, some st, some m => some (.cvt ⟨r.g, dt, st, m, r.sat, r.d, r.a, r.msk⟩)
       | _, _, _, _ => none)
  | _ => .error .reservedOpcode

/-- The element types of PACKN and UNPKN (R164). -/
def packTy (flt : Bool) (c : BitVec 4) : Option NumTy :=
  if (if flt then 1 ≤ c.toNat && c.toNat ≤ 8 else 4 ≤ c.toNat && c.toNat ≤ 9) then NumTy.ofCode flt c else none
/-- The pair of tables of the dot products (R165): the opcode's own types. -/
def dotTys (op : Nat) : List NumTy :=
  match op with
  | 0x73 => [.flt .e2m1, .int .i4, .int .n4]
  | 0x74 => [.flt .e3m2, .flt .e2m3]
  | 0x75 => [.flt .e4m3, .flt .e5m2, .int .i8, .int .n8]
  | _ => [.flt .f16, .flt .bf16, .int .i16, .int .n16]
/-- A packed dot product (R165, R167). -/
def FmtV.dot (r : FmtV) (f : DotArgs → Instr) : Decoded :=
  let none6 := r.op == 0x74 && r.fn.getLsbD 0
  let acc := (r.fn == 2 || r.fn == 3) && !none6
  let flt := r.fn == 0 || r.fn == 2
  sift (!r.lf && !r.g && (if r.fn.toNat > 3 || none6 then r.xf 11 8 == 0
        else if acc then r.xf 6 13 == 0 && r.rm == 0 && !r.sat && r.c == 0
        else if r.fn == 1 then r.rm == 0 && r.x == 0 else r.rndX))
    (!acc || inA r.d)
    (match NumTy.ofCode flt r.ty with
     | none => none
     | some t =>
       if r.fn.toNat > 3 || none6 || r.ind.toNat > 1 then none
       else if r.ind == 1 && !((dotTys r.op.toNat).contains t && t.partner.isSome) then none
       else if acc then some (f ⟨t, r.ind == 1, .acc (toA r.d) (r.xf 0 6), r.a, r.b, r.msk⟩)
       else r.rmode.map fun m => f ⟨t, r.ind == 1, .vec r.d r.c m r.sat, r.a, r.b, r.msk⟩)

/-- Packed instructions: OP 0x71 to 0x76 (R164, R165). -/
def decodeV7p (r : FmtV) : Decoded :=
  match r.op.toNat with
  | 0x71 => sift (!r.lf && !r.g && r.ind.toNat ≤ 1 && r.b == 0 && r.c == 0 && r.rndX) true
      (match r.fn.toNat, packTy (r.ind == 0) r.ty, r.rmode with
       | 0, some t, some m => some (.packn ⟨t, m, r.sat, r.d, r.a, r.msk⟩)
       | _, _, _ => none)
  | 0x72 => sift (!r.lf && !r.g && r.ind.toNat ≤ 1 && r.b == 0 && r.c == 0 && r.x == 0 && r.rm == 0 && !r.sat) true
      (if r.fn == 0 then (packTy (r.ind == 0) r.ty).map fun t => .unpkn ⟨t, r.d, r.a, r.msk⟩ else none)
  | 0x73 => r.dot .dotq
  | 0x74 => r.dot .dotx
  | 0x75 => r.dot .dotb
  | 0x76 => r.dot .doth
  | _ => .error .reservedOpcode

/-- The element type of MMA (R183). -/
def mmaTy (flt : Bool) (c : BitVec 4) : Option NumTy :=
  if (if flt then 1 ≤ c.toNat && c.toNat ≤ 7 else 6 ≤ c.toNat && c.toNat ≤ 9) then NumTy.ofCode flt c else none
/-- MMA and MMLOOP (R182, R183). -/
def FmtV.mma (r : FmtV) (loop : Bool) : Option Instr :=
  if r.fn.toNat > 1 then none
  else match mmaTy (!r.ind.getLsbD 1) r.ty with
    | none => none
    | some t =>
      if r.ind.getLsbD 0 && t.partner.isNone then none
      else
        let m : MmaArgs := ⟨r.lf, if r.fn == 1 then some (r.x.getLsbD 18) else none, t, r.ind.getLsbD 0, toA r.d, r.a, toQ r.b,
          r.msk⟩
        if loop then some (.mmloop m (r.xf 0 12) (r.xf 12 6)) else some (.mma m)
/-- NROWS 1 to 64 (R182). -/
def rowsOk (n : BitVec 7) : Bool := 1 ≤ n.toNat && n.toNat ≤ 64
/-- The types of AROW (R187) and ARSLV (R190). -/
def arowTy (flt : Bool) (c : BitVec 4) : Option NumTy :=
  if (if flt then c.toNat ≤ 2 else c == 0) then NumTy.ofCode flt c else none
/-- FP32, BF16 or I32 (R190). -/
def arslvTy (flt : Bool) (c : BitVec 4) : Option NumTy :=
  if (if flt then c == 0 || c == 2 else c == 0) then NumTy.ofCode flt c else none
/-- A scale format of SCACC (R189). -/
def scaleTy (c : BitVec 4) : Option FltTy := if c == 2 || c == 4 || c == 8 then FltTy.ofCode c else none

/-- Tile instructions: OP 0x80 to 0x8D (R182). -/
def decodeV8 (r : FmtV) : Decoded :=
  let noG := !r.g
  let base := !r.g && !r.lf && !r.sat && r.rm == 0
  let noT := r.ty == 0 && r.ind == 0
  match r.op.toNat with
  | 0x80 => sift (base && noT && r.a == 0 && r.b == 0 && r.c == 0 && r.xf 10 9 == 0) (inA r.d)
      (if r.fn == 0 then some (.aclr (toA r.d) (r.xf 0 10) r.msk) else none)
  | 0x81 => sift (base && noT && r.a == 0 && r.b == 0 && r.c == 0 && r.xf 10 9 == 0) (inA r.d)
      (if r.fn == 0 then some (.ashift (toA r.d) (r.xf 0 10) r.msk) else none)
  | 0x82 => sift (noG && !r.sat && r.rm == 0 && r.c == 0 && !r.ind.getLsbD 2 && r.xf 0 18 == 0 &&
        (r.fn != 0 || !r.x.getLsbD 18)) (inA r.d && inQ r.b) (r.mma false)
  | 0x83 => sift (noG && !r.sat && r.rm == 0 && r.c == 0 && !r.ind.getLsbD 2 && (r.fn != 0 || !r.x.getLsbD 18))
      (inA r.d && inQ r.b) (r.mma true)
  | 0x84 => sift (base && r.b == 0 && r.c == 0 && r.ind.toNat ≤ 1 && r.xf 6 13 == 0) (inA r.d)
      (if r.fn == 0 then (arowTy (r.ind == 0) r.ty).map fun t => .arow ⟨t, toA r.d, r.a, r.xf 0 6, r.msk⟩ else none)
  | 0x85 => sift (base && noT && r.b == 0 && r.c == 0 && r.x == 0) (inA r.d && inA r.a)
      (if r.fn == 0 then some (.aadd (toA r.d) (toA r.a) r.msk) else none)
  | 0x86 => sift (base && noT && r.b == 0 && r.c == 0 && r.x == 0) (inA r.d && inA r.a)
      (if r.fn == 0 then some (.amov (toA r.d) (toA r.a) r.msk) else none)
  | 0x87 => sift (base && r.ind == 0 && r.xf 4 15 == 0) (inA r.d && inA r.a)
      (match r.fn.toNat, scaleTy r.ty, scaleTy (r.xf 0 4) with
       | 0, some fa, some fb => some (.scacc ⟨fa, fb, toA r.d, toA r.a, r.b, r.c, r.msk⟩)
       | _, _, _ => none)
  | 0x88 => sift (noG && !r.lf && r.ind.toNat ≤ 1 && r.b == 0 && r.c == 0 && r.xf 13 6 == 0) (inA r.a)
      (match r.fn.toNat, arslvTy (r.ind == 0) r.ty, Round.ofCode4 r.rm with
       | 0, some t, some m =>
         if rowsOk (r.xf 6 7) then some (.arslv ⟨t, m, r.sat, r.d, toA r.a, r.xf 0 6, r.xf 6 7, r.msk⟩) else none
       | _, _, _ => none)
  | 0x89 => sift (base && noT && r.a == 0 && r.b == 0 && r.c == 0 && r.x == 0) (inA r.d)
      (if r.fn == 0 then some (.arslvi (toA r.d) r.msk) else none)
  | 0x8A => sift (base && noT && r.c == 0 && r.xf 13 6 == 0) (inS r.d && inA r.a)
      (match FCond.ofCode r.fn with
       | some k => if rowsOk (r.xf 6 7) then some (.acmp ⟨k, toS r.d, toA r.a, r.b, r.xf 0 6, r.xf 6 7, r.msk⟩) else none
       | none => none)
  | 0x8B => sift (base && noT && r.b == 0 && r.c == 0 && r.xf 6 13 == 0 && (r.fn != 0 || r.x == 0)) ((r.fn != 0 || inS r.d) && inA r.a)
      (if r.fn == 0 then some (.astat (.t (toS r.d) (toA r.a) r.msk))
       else if r.fn == 1 then some (.astat (.r r.d (toA r.a) (r.xf 0 6) r.msk)) else none)
  | 0x8C => sift (noG && !r.sat && r.rm == 0 && noT && r.d == 0 && r.c == 0 && r.xf 13 6 == 0) (inA r.a && inS r.b)
      (if r.fn == 0 && rowsOk (r.xf 6 7) then some (.asave ⟨r.lf, toA r.a, toS r.b, r.xf 0 6, r.xf 6 7, r.msk⟩) else none)
  | 0x8D => sift (noG && !r.sat && r.rm == 0 && noT && r.a == 0 && r.c == 0 && r.xf 13 6 == 0) (inA r.d && inS r.b)
      (if r.fn == 0 && rowsOk (r.xf 6 7) then some (.aload ⟨r.lf, toA r.d, toS r.b, r.xf 0 6, r.xf 6 7, r.msk⟩) else none)
  | _ => .error .reservedOpcode

/-- Queue instructions in V3, RLKQ, SEQRD and SEQFENCE (R207, R288, R335). -/
def decodeVq (r : FmtV) : Decoded :=
  let base := !r.g && !r.lf && !r.sat && r.rm == 0 && r.ty == 0 && r.ind == 0
  let noM := r.msk == 0
  let noX := r.x == 0
  let noB := r.b == 0
  let noC := r.c == 0
  let f0 := r.fn == 0
  match r.op.toNat with
  | 0xA0 => sift (base && noM && noB && noC && r.xf 6 13 == 0) (inS r.d && inQ r.a)
      (if f0 && (r.xf 0 5).toNat ≤ 16 then some (.qdef (toS r.d) (toQ r.a) (r.xf 0 5) (r.x.getLsbD 5)) else none)
  | 0xA1 => sift (base && noX && noB && noC) (inQ r.a) (if f0 then some (.qpop r.d (toQ r.a) r.msk) else none)
  | 0xA2 => sift (base && noX && noB && noC) (inQ r.d) (if f0 then some (.qpush (toQ r.d) r.a r.msk) else none)
  | 0xA3 => sift (base && noX && noB && noC && noM) (inS r.d && inQ r.a) (if f0 then some (.qstat (toS r.d) (toQ r.a)) else none)
  | 0xA4 => sift (base && noX && noB && noC && noM && r.d == 0) (inQ r.a)
      (if f0 then some (.qdrainDisc (toQ r.a)) else if r.fn == 1 then some (.qdrainFlush (toQ r.a)) else none)
  | 0xC4 => sift (base && noX && noC && noM) (inS r.d && inS r.a && inS r.b)
      (if f0 then some (.rlkq (toS r.d) (toS r.a) (toS r.b)) else none)
  | 0xD1 => sift (base && noX && noB && noC && noM && r.a == 0) (inS r.d) (if f0 then some (.seqrd (toS r.d)) else none)
  | 0xD2 => sift (base && noX && noB && noC && noM && r.d == 0) (inS r.a) (if f0 then some (.seqfence (toS r.a)) else none)
  | _ => .error .reservedOpcode

/-- The width of a load or store (R269). -/
def FmtM.memTy (r : FmtM) : Option MemTy :=
  if r.fn == 0 then
    match IntTy.ofCode r.ty with
    | some .i4 | some .n4 | none => none
    | some t => some (.ty t)
  else if r.fn == 1 && r.ty == 1 then some .b24 else none
/-- The width of an ATOM (R270, R273). -/
def FmtM.atomTy (r : FmtM) : Option IntTy :=
  if r.ty.toNat ≤ 3 || (r.ty == 10 && (r.fn == 6 || r.fn == 7)) then IntTy.ofCode r.ty else none
/-- TY of a copy (R288): 0 to `top`, or .B128. -/
def FmtM.copyTy (r : FmtM) (top : Nat) : Option IntTy := if r.ty.toNat ≤ top || r.ty == 10 then IntTy.ofCode r.ty else none
/-- .POD or .SYS (R317): whether it is .SYS. -/
def FmtM.podSys (r : FmtM) : Option Bool := if r.scope == 4 then some false else if r.scope == 5 then some true else none
/-- .RLX or .REL: whether it is .REL. -/
def FmtM.relaxRel (r : FmtM) : Option Bool := if r.ord == 0 then some false else if r.ord == 2 then some true else none
/-- The release order of a queue stream (R207): .RLX or the given one. -/
def FmtM.relaxOr (r : FmtM) (k : BitVec 3) : Option Bool := if r.ord == 0 then some false else if r.ord == k then some true else none
/-- QLD and QST (R207, R212). -/
def FmtM.stream (r : FmtM) (k : BitVec 3) (f : StreamArgs → Instr) : Option Instr :=
  match r.fn.toNat, Scope.ofCode r.scope, r.relaxOr k with
  | 0, some sc, some o =>
    if r.ty.toNat ≤ 1 then some (f ⟨r.lf, r.ty == 1, sc, o, r.col, toQ r.d, toS r.a, toS r.b, toS r.c, r.off⟩) else none
  | _, _, _ => none
/-- PUT, PUTSIG and GET (R317). -/
def FmtM.put (r : FmtM) (rel : Option Bool) : Option PutArgs :=
  match r.podSys, rel with
  | some sy, some o => some ⟨r.lf, sy, o, r.col, r.d, toS r.a, r.msk⟩
  | _, _ => none

/-- Memory, copy, fabric, loop and collective instructions in format M (R207, R270, R288, R317, R335, R353, R357). -/
def decodeM (r : FmtM) : Decoded :=
  let noG := !r.g
  let gm := !r.g || r.msk == 0
  let noT := r.ty == 0
  let noB := r.b == 0
  let noC := r.c == 0
  let noS := r.scope == 0
  let noO := r.ord == 0
  let noCol := r.col == 0
  let noM := r.msk == 0
  let noOff := r.off == 0
  match r.op.toNat with
  | 0xA5 => sift (noG && noM) (inQ r.d && inS r.a && inS r.b && inS r.c) (if noCol then r.stream 1 .qld else none)
  | 0xA6 => sift (noG && noM) (inQ r.d && inS r.a && inS r.b && inS r.c) (r.stream 2 .qst)
  | 0xB0 => sift (noB && gm) (inV r.g r.d && inV r.g r.a && inV r.g r.c)
      (match r.memTy, Scope.ofCode r.scope, Ord.ofCode r.ord with
       | some t, some sc, some o =>
         if noCol && (o == .rlx || o == .acq || o == .sc) then
           some (.ld ⟨r.g, r.lf, t, sc, o, r.d, r.a, r.c, r.msk, r.off⟩) else none
       | _, _, _ => none)
  | 0xB1 => sift (gm && r.d.extractLsb' 8 3 == 0 && (!noO || r.d == 0)) (inV r.g r.a && inV r.g r.b && inV r.g r.c)
      (match r.memTy, Scope.ofCode r.scope, Ord.ofCode r.ord with
       | some t, some sc, some o =>
         if o == .rlx || o == .rel || o == .sc then
           some (.st ⟨r.g, r.lf, t, sc, o, r.col, r.d.setWidth 8, r.a, r.b, r.c, r.msk, r.off⟩) else none
       | _, _, _ => none)
  | 0xB2 => sift (gm && (r.fn == 7 || noC)) (inV r.g r.d && inV r.g r.a && inV r.g r.b && (r.fn != 7 || inV r.g r.c))
      (match AtomOp.ofCode r.fn r.c, r.atomTy, Scope.ofCode r.scope, Ord.ofCode r.ord with
       | some op, some t, some sc, some o =>
         if noCol then some (.atom ⟨r.g, r.lf, op, t, sc, o, r.d, r.a, r.b, r.msk, r.off⟩) else none
       | _, _, _, _ => none)
  | 0xB3 => sift (noG && !r.lf && r.d.extractLsb' 8 3 == 0 && r.a == 0 && noB && noC && noT && noCol && noM && noOff) true
      (match r.fn.toNat, Scope.ofCode r.scope, Ord.ofCode r.ord with
       | 0, some sc, some o => some (.fence sc o (r.d.setWidth 8))
       | _, _, _ => none)
  | 0xB4 => sift (!r.lf && r.d == 0 && noB && noT && noS && noO && noCol && gm) (inV r.g r.a && inV r.g r.c)
      (if r.fn == 0 then some (.pref ⟨r.g, r.a, r.c, r.msk, r.off⟩) else none)
  | 0xC0 => sift noG true
      (match r.fn.toNat, r.copyTy 3, Scope.ofCode r.scope with
       | 0, some t, some sc =>
         if noO then some (.cpl ⟨r.lf, t, sc, r.col, r.d, r.a, r.b, r.c, r.msk, r.off⟩) else none
       | _, _, _ => none)
  | 0xC1 => sift (noG && noB && noC && noOff) (inS r.a)
      (match r.fn.toNat, r.copyTy 7, Scope.ofCode r.scope with
       | 0, some t, some sc => if noO then some (.cpbox ⟨r.lf, t, sc, r.col, r.d, toS r.a, r.msk⟩) else none
       | _, _, _ => none)
  | 0xC2 => sift (noG && noT && noC && noS && noCol && noM && noOff) (inS r.a && inS r.b)
      (if r.fn == 0 && noO then some (.cpmc ⟨r.lf, r.d, toS r.a, toS r.b⟩) else none)
  | 0xC3 => sift (noG && noT && noC && noS && noCol && noM && r.off.extractLsb' 11 6 == 0) (inS r.a)
      (if r.fn == 0 && noO then some (.cpst ⟨r.lf, r.d, toS r.a, r.b, r.off.extractLsb' 0 11⟩) else none)
  | 0xC8 => sift (noG && noT && noB && noC && noOff) (inS r.a)
      (if r.fn == 0 then (r.put r.relaxRel).map .put else none)
  | 0xC9 => sift (noG && noC && noOff) (inS r.a && inS r.b)
      (if r.fn == 0 && (r.ty == 1 || r.ty == 3) then (r.put r.relaxRel).map fun p => .putsig p (r.ty == 3) (toS r.b) else none)
  | 0xCA => sift (noG && noT && noB && noC && noCol && noOff) (inS r.a)
      (if r.fn == 0 then (r.put (if noO then some false else none)).map .get else none)
  | 0xCB => sift (noG && noB && noCol && noOff && (r.fn == 2 || r.fn.toNat > 2 || noC) && (r.fn != 2 || noT))
      (inS r.a && (r.fn != 2 || inA r.c))
      (match (if r.fn == 0 then (if r.ty == 0 then some .f32 else if r.ty == 2 then some RedmSrc.bf16 else none)
              else if r.fn == 1 then (if r.ty == 0 then some .i32 else none)
              else if r.fn == 2 then some (.acc (toA r.c)) else none), r.podSys, r.relaxRel with
       | some src, some sy, some o => some (.redm ⟨r.lf, src, sy, o, r.d, toS r.a, r.msk⟩)
       | _, _, _ => none)
  | 0xCC => sift (noG && noB && noC && noCol && noOff) (inS r.a)
      (match (if r.fn == 0 then (if r.ty == 0 then some .f32 else if r.ty == 2 then some RedrTy.bf16 else none)
              else if r.fn == 1 then (if r.ty == 0 then some .i32 else none) else none), r.podSys with
       | some t, some sy => if noO then some (.redr ⟨r.lf, t, sy, r.d, toS r.a, r.msk⟩) else none
       | _, _ => none)
  | 0xCD => sift (noG && noB && noC && noT && noS && noO && noCol && noOff && (r.fn != 1 || r.a == 0)) (inS r.d && (r.fn != 0 || inS r.a))
      (if r.fn == 0 then some (.tsrdH r.lf (toS r.d) (toS r.a) r.msk)
       else if r.fn == 1 then some (.tsrdP r.lf (toS r.d) r.msk) else none)
  | 0xD0 => sift (noG && noT && noB && noCol && noM && noOff && r.c.extractLsb' 8 3 == 0 && (!noO || noC)) (inS r.d && inS r.a)
      (match r.fn.toNat, r.podSys, r.relaxRel with
       | 0, some sy, some o => some (.bcast ⟨r.lf, sy, o, r.c.setWidth 8, toS r.d, toS r.a⟩)
       | _, _, _ => none)
  | 0xD8 => sift noG true
      (match CollOp.ofCode r.fn, IntTy.ofCode r.ty, r.podSys, r.relaxRel with
       | some op, some t, some sy, some o =>
         if r.ty.toNat ≤ 3 then some (.coll ⟨r.lf, op, t, sy, o, r.col, r.d, r.a, r.b, r.c, r.msk, r.off⟩) else none
       | _, _, _, _ => none)
  | 0xD9 => sift (noG && noB && noC && noCol && noOff) (inS r.a)
      (match r.fn.toNat, Scope.ofCode r.scope with
       | 0, some sc =>
         if noO && (r.ty == 5 || r.ty == 1) then some (.rsort ⟨r.lf, r.ty == 5, sc, r.d, toS r.a, r.msk⟩) else none
       | _, _ => none)
  | _ => .error .reservedOpcode

/-- System instructions in format S: OP 0xE0 to 0xE5 (R231, R351, R380, R397). A SEL outside its list breaks an operand limit. -/
def decodeS (r : FmtS) : Decoded :=
  let base := !r.g && !r.lf && r.z == 0 && r.msk == 0 && r.b == 0
  let f0 (i : Instr) : Option Instr := if r.fn == 0 then some i else none
  match r.op.toNat with
  | 0xE0 => sift (base && r.a == 0) (inS r.d) (f0 (.clkrd (toS r.d) r.sel))
  | 0xE1 => sift (base && r.a == 0) (inS r.d) (f0 (.idrd (toS r.d) r.sel))
  | 0xE2 => sift (base && (r.sel == 4 || r.a == 0)) (inS r.d && inS r.a) (f0 (.enrd (toS r.d) (toS r.a) r.sel))
  | 0xE3 => sift base (inS r.d && inS r.a) (f0 (.ttq (toS r.d) (toS r.a) r.sel))
  | 0xE4 => sift (base && r.a == 0) (inS r.d) (f0 (.crd (toS r.d) r.sel))
  | 0xE5 => sift (base && r.d == 0) (inS r.a) (f0 (.cwr r.sel (toS r.a)))
  | _ => .error .reservedOpcode

/-- The decoder: checks 1 to 4 of R46 over the major-opcode map of R45. Total on any word. -/
def decode (w : IWord) : Decoded :=
  let op := (w.extractLsb' 88 8).toNat
  if op < 0x20 then decodeB (FmtB.ofWord w)
  else if op == 0x21 || op == 0x23 || op == 0x24 then decodeI (FmtI.ofWord w)
  else if op < 0x40 then decodeV6 (FmtV.ofWord w)
  else if op < 0x60 then decodeV7i (FmtV.ofWord w)
  else if op < 0x71 then decodeV7f (FmtV.ofWord w)
  else if op < 0x80 then decodeV7p (FmtV.ofWord w)
  else if op < 0xA0 then decodeV8 (FmtV.ofWord w)
  else if op < 0xA5 || op == 0xC4 || op == 0xD1 || op == 0xD2 then decodeVq (FmtV.ofWord w)
  else if op < 0xE0 then decodeM (FmtM.ofWord w)
  else decodeS (FmtS.ofWord w)

/-- The instruction of an opcode-table word: 96 bits, bit 0 the least significant bit of the first word of the slot (R21). -/
def decodeTableWord (_nbits w : Nat) : Option Instr :=
  match decode (BitVec.ofNat 96 w) with
  | .ok i => some i
  | .error _ => none

/-! ### Issue classes -/

/-- Issue classes of R27. -/
inductive IssueClass | v | w | m | c | y
  deriving DecidableEq, Repr
/-- The class of a word by OP and G (R45); none for a reserved OP (R26). -/
def issueClass (w : IWord) : Option IssueClass :=
  let op := (w.extractLsb' 88 8).toNat
  let vw : IssueClass := if w.getLsbD 83 then .w else .v
  if op == 0 then none
  else if op == 0x08 || op == 0x0A || op == 0x0B || op == 0x0C || op == 0x13 || op == 0x16 then some .y
  else if op ≤ 0x16 then some .c
  else if op < 0x20 then none
  else if op ≤ 0x2E then some vw
  else if op ≤ 0x31 then some .c
  else if op < 0x40 then none
  else if op ≤ 0x57 then some vw
  else if op < 0x60 then none
  else if op ≤ 0x76 then some vw
  else if op < 0x80 then none
  else if op ≤ 0x8D then some .v
  else if op == 0xA0 then some .m
  else if op == 0xA1 || op == 0xA2 then some .v
  else if op == 0xA3 then some .w
  else if op == 0xA4 then some .c
  else if op == 0xA5 || op == 0xA6 then some .m
  else if 0xB0 ≤ op && op ≤ 0xB4 then some .m
  else if 0xC0 ≤ op && op ≤ 0xC3 then some .m
  else if op == 0xC4 then some .w
  else if 0xC8 ≤ op && op ≤ 0xCD then some .m
  else if op == 0xD0 then some .m
  else if op == 0xD1 then some .w
  else if op == 0xD2 then some .c
  else if op == 0xD8 || op == 0xD9 then some .m
  else if 0xE0 ≤ op && op ≤ 0xE5 then some .y
  else none

/-! ### The encoder -/

/-- A V3 word with every field zero but OP. -/
def FmtV.zero (op : Nat) : FmtV :=
  { op := BitVec.ofNat 8 op, fn := 0, g := false, lf := false, d := 0, a := 0, b := 0, c := 0, ty := 0, rm := 0, sat := false,
    ind := 0, msk := 0, x := 0 }
/-- A VI word with every field zero but OP. -/
def FmtI.zero (op : Nat) : FmtI :=
  { op := BitVec.ofNat 8 op, fn := 0, g := false, lf := false, d := 0, a := 0, imm := 0, ty := 0, rm := 0, sat := false, msk := 0,
    x := 0 }
/-- A format M word with every field zero but OP. -/
def FmtM.zero (op : Nat) : FmtM :=
  { op := BitVec.ofNat 8 op, fn := 0, g := false, lf := false, d := 0, a := 0, b := 0, c := 0, ty := 0, scope := 0, ord := 0,
    col := 0, msk := 0, off := 0 }
/-- A format B word with every field zero but OP. -/
def FmtB.zero (op : Nat) : FmtB :=
  { op := BitVec.ofNat 8 op, fn := 0, g := false, lf := false, d := 0, a := 0, tgt := 0, ts := 0, msk := 0, x := 0 }
/-- A format S word with every field zero but OP. -/
def FmtS.zero (op : Nat) : FmtS :=
  { op := BitVec.ofNat 8 op, fn := 0, g := false, lf := false, d := 0, a := 0, b := 0, sel := 0, msk := 0, z := 0 }

/-- An s register in its 11-bit field. -/
def ofS (r : SReg) : BitVec 11 := r.setWidth 11
/-- A tile in its 11-bit field. -/
def ofA (r : AReg) : BitVec 11 := r.setWidth 11
/-- A queue in its 11-bit field. -/
def ofQ (r : QReg) : BitVec 11 := r.setWidth 11
/-- A bit as a field. -/
def bit1 (b : Bool) : BitVec 1 := BitVec.ofBool b

/-- The word of each form by its table. -/
def encInt2 (op : Nat) (m : Int2) : IWord :=
  { FmtV.zero op with g := m.g, ty := m.ty.code, sat := m.sat, d := m.d, a := m.a, b := m.b, msk := m.msk }.toWord
/-- One-source integer forms. -/
def encInt1 (op : Nat) (m : Int1) : IWord :=
  { FmtV.zero op with g := m.g, ty := m.ty.code, sat := m.sat, d := m.d, a := m.a, msk := m.msk }.toWord
/-- Two-source rounding forms. -/
def encFlt2 (op : Nat) (m : Flt2) : IWord :=
  { FmtV.zero op with g := m.g, ty := m.ty.code, rm := m.rm.code, sat := m.sat, d := m.d, a := m.a, b := m.b, msk := m.msk,
                      x := m.rm.reg.setWidth 19 }.toWord
/-- One-source rounding forms. -/
def encFlt1 (op : Nat) (m : Flt1) : IWord :=
  { FmtV.zero op with g := m.g, ty := m.ty.code, rm := m.rm.code, sat := m.sat, d := m.d, a := m.a, msk := m.msk,
                      x := m.rm.reg.setWidth 19 }.toWord
/-- FMIN and FMAX. -/
def encFMin (op : Nat) (m : FMinArgs) : IWord :=
  { FmtV.zero op with g := m.g, ty := m.ty.code, d := m.d, a := m.a, b := m.b, msk := m.msk }.toWord
/-- LDX and STX. -/
def encIdx (op : Nat) (m : IdxArgs) : IWord :=
  { FmtV.zero op with fn := (bit1 m.any).setWidth 4, d := m.d, a := m.a, b := m.b, msk := m.msk, x := m.len.setWidth 19 }.toWord
/-- REDL and SCANL. -/
def encRed (op : Nat) (m : RedArgs) : IWord :=
  { FmtV.zero op with fn := m.op.code, ty := m.ty.code, rm := m.op.rm, d := m.d, a := m.a, msk := m.msk,
                      x := (bit1 m.exc).setWidth 19 }.toWord
/-- The dot products. -/
def encDot (op : Nat) (m : DotArgs) : IWord :=
  let flt := m.ty.isFlt
  match m.dst with
  | .vec d c rm sat =>
    { FmtV.zero op with fn := if flt then 0 else 1, ty := m.ty.code, ind := (bit1 m.partner).setWidth 3, rm := rm.code,
                        sat := sat, d := d, a := m.a, b := m.b, c := c, msk := m.msk, x := rm.reg.setWidth 19 }.toWord
  | .acc d row =>
    { FmtV.zero op with fn := if flt then 2 else 3, ty := m.ty.code, ind := (bit1 m.partner).setWidth 3, d := ofA d,
                        a := m.a, b := m.b, msk := m.msk, x := row.setWidth 19 }.toWord
/-- MMA and MMLOOP: `x` holds count − 1 and inc / 2. -/
def encMma (op : Nat) (m : MmaArgs) (x : BitVec 18) : IWord :=
  { FmtV.zero op with
      fn := if m.m32.isSome then 1 else 0, lf := m.lf, ty := m.ty.code,
      ind := (bit1 (!m.ty.isFlt) ++ bit1 m.partner).setWidth 3, d := ofA m.d, a := m.a, b := ofQ m.b, msk := m.msk,
      x := bit1 (m.m32.getD false) ++ x }.toWord
/-- ROW and NROWS in X. -/
def rowX (row : BitVec 6) (n : BitVec 7) : BitVec 19 := (n ++ row).setWidth 19
/-- QLD and QST: `k` is the order code that the ordered form takes. -/
def encStream (op : Nat) (k : BitVec 3) (m : StreamArgs) : IWord :=
  { FmtM.zero op with lf := m.lf, d := ofQ m.q, a := ofS m.a, b := ofS m.b, c := ofS m.c, ty := (bit1 m.w24).setWidth 4,
                      scope := m.scope.code, ord := if m.ordered then k else 0, col := m.col, off := m.off }.toWord
/-- TY and FN of a load or store. -/
def MemTy.code : MemTy → BitVec 4 × BitVec 4
  | .ty t => (t.code, 0)
  | .b24 => (1, 1)
/-- .POD or .SYS. -/
def podCode (sys : Bool) : BitVec 3 := if sys then 5 else 4
/-- .RLX or .REL. -/
def relCode (rel : Bool) : BitVec 3 := if rel then 2 else 0
/-- PUT, PUTSIG and GET. -/
def encPut (op : Nat) (ty : BitVec 4) (b : BitVec 11) (m : PutArgs) : IWord :=
  { FmtM.zero op with lf := m.lf, d := m.d, a := ofS m.a, b := b, ty := ty, scope := podCode m.sys, ord := relCode m.rel,
                      col := m.col, msk := m.msk }.toWord

/-- The word of an instruction; none for an event, which no word encodes. -/
def encode (i : Instr) : Option IWord :=
  match i with
  | .nop => some (FmtB.zero 0x01).toWord
  | .bra t => some { FmtB.zero 0x02 with tgt := t.tgt, ts := t.ts }.toWord
  | .brc neg a t msk =>
    some { FmtB.zero 0x03 with fn := (bit1 neg).setWidth 4, a := ofS a, tgt := t.tgt, ts := t.ts, msk := msk }.toWord
  | .brx a msk => some { FmtB.zero 0x04 with a := a, msk := msk }.toWord
  | .call d t => some { FmtB.zero 0x05 with d := ofS d, tgt := t.tgt, ts := t.ts }.toWord
  | .ret a => some { FmtB.zero 0x06 with a := ofS a }.toWord
  | .join t => some { FmtB.zero 0x07 with tgt := t.tgt, ts := t.ts }.toWord
  | .exit msk => some { FmtB.zero 0x08 with msk := msk }.toWord
  | .role r =>
    some { FmtB.zero 0x09 with d := ofS r.d, tgt := r.t.tgt, ts := r.t.ts,
                               x := bit1 r.keep ++ r.gen ++ 0#2 ++ r.cls ++ r.grp }.toWord
  | .yield n => some { FmtB.zero 0x0A with x := n.setWidth 17 }.toWord
  | .yieldcR a t => some { FmtB.zero 0x0B with a := a, tgt := t.tgt, ts := t.ts }.toWord
  | .yieldcF f t => some { FmtB.zero 0x0B with fn := 1, tgt := t.tgt, ts := t.ts, x := f.setWidth 17 }.toWord
  | .trap c => some { FmtB.zero 0x0C with x := c.setWidth 17 }.toWord
  | .bara d b n => some { FmtB.zero 0x0D with d := ofS d, x := (n ++ b).setWidth 17 }.toWord
  | .barw a b => some { FmtB.zero 0x0E with a := ofS a, x := b.setWidth 17 }.toWord
  | .bars d b n => some { FmtB.zero 0x0F with d := ofS d, x := (n ++ b).setWidth 17 }.toWord
  | .emset a => some { FmtB.zero 0x10 with a := ofS a }.toWord
  | .emget k d =>
    some { FmtB.zero 0x11 with fn := (match k with | .ex => 0 | .own => 1 | .en => 2), d := ofS d }.toWord
  | .emand a => some { FmtB.zero 0x12 with a := ofS a }.toWord
  | .rgn => some (FmtB.zero 0x13).toWord
  | .mark n nc => some { FmtB.zero 0x14 with x := bit1 nc ++ n }.toWord
  | .markS a nc => some { FmtB.zero 0x14 with fn := 1, a := ofS a, x := bit1 nc ++ 0#16 }.toWord
  | .cwait w =>
    some { FmtB.zero 0x15 with fn := w.cond.code, d := ofS w.d, a := ofS w.a,
                               x := (bit1 w.y ++ (bit1 w.acq).setWidth 3 ++ w.scope.code ++ bit1 w.w64).setWidth 17 }.toWord
  | .eretT a => some { FmtB.zero 0x16 with a := ofS a }.toWord
  | .eretSave => some { FmtB.zero 0x16 with fn := 1 }.toWord
  | .eretRst => some { FmtB.zero 0x16 with fn := 2 }.toWord
  | .mov m => some { FmtV.zero 0x20 with g := m.g, ty := m.ty.code, d := m.d, a := m.a, msk := m.msk }.toWord
  | .movi m => some { FmtI.zero 0x21 with g := m.g, d := m.d, imm := m.imm, msk := m.msk }.toWord
  | .movs m => some { FmtV.zero 0x22 with fn := (bit1 m.hi).setWidth 4, d := m.d, a := ofS m.a, msk := m.msk }.toWord
  | .gmovsRdf d => some { FmtV.zero 0x22 with fn := 2, g := true, d := ofS d }.toWord
  | .gmovsWrf a => some { FmtV.zero 0x22 with fn := 3, g := true, a := ofS a }.toWord
  | .gmovsClf a => some { FmtV.zero 0x22 with fn := 4, g := true, a := ofS a }.toWord
  | .movl m =>
    some { FmtI.zero 0x23 with fn := (match m.kind with | .s => 0 | .z => 1 | .h => 2), g := m.g, d := m.d, imm := m.imm,
                               msk := m.msk }.toWord
  | .aff m => some { FmtI.zero 0x24 with g := m.g, d := m.d, a := m.a, imm := m.imm, msk := m.msk }.toWord
  | .shape m =>
    some { FmtV.zero 0x25 with fn := (match m.kind with | .tight => 0 | .gen => 1 | .qry => 2), d := m.d, a := m.a,
                               msk := m.msk }.toWord
  | .ldx m => some (encIdx 0x26 m)
  | .stx m => some (encIdx 0x27 m)
  | .perm m => some { FmtV.zero 0x28 with d := m.d, a := m.a, b := m.b, msk := m.msk }.toWord
  | .perm2 m => some { FmtV.zero 0x29 with d := m.d, a := m.a, b := m.b, c := m.c, msk := m.msk }.toWord
  | .lbcast m =>
    match m.src with
    | .imm l => some { FmtV.zero 0x2A with d := m.d, a := m.a, msk := m.msk, x := l.setWidth 19 }.toWord
    | .sreg b => some { FmtV.zero 0x2A with fn := 1, d := m.d, a := m.a, b := ofS b, msk := m.msk }.toWord
  | .redl m => some (encRed 0x2B m)
  | .scanl m => some (encRed 0x2C m)
  | .ballot m => some { FmtV.zero 0x2D with fn := (bit1 m.z).setWidth 4, d := ofS m.d, a := m.a, msk := m.msk }.toWord
  | .mpop m =>
    match m with
    | .cnt d a msk => some { FmtV.zero 0x2E with d := d, a := ofS a, msk := msk }.toWord
    | .gcnt d a => some { FmtV.zero 0x2E with g := true, d := ofS d, a := ofS a }.toWord
    | .gfirst d a => some { FmtV.zero 0x2E with fn := 1, g := true, d := ofS d, a := ofS a }.toWord
    | .gnext d a => some { FmtV.zero 0x2E with fn := 2, g := true, d := ofS d, a := ofS a }.toWord
  | .reggrow d n => some { FmtV.zero 0x2F with d := ofS d, x := n.setWidth 19 }.toWord
  | .reggrowNb d n => some { FmtV.zero 0x2F with fn := 1, d := ofS d, x := n.setWidth 19 }.toWord
  | .regshrink d n => some { FmtV.zero 0x30 with d := ofS d, x := n.setWidth 19 }.toWord
  | .regqry d => some { FmtV.zero 0x31 with d := ofS d }.toWord
  | .iadd m => some (encInt2 0x40 m)
  | .isub m => some (encInt2 0x41 m)
  | .imul m => some (encInt2 0x42 m)
  | .imulh m => some (encInt2 0x43 m)
  | .imad m =>
    some { FmtV.zero 0x44 with g := m.g, ty := m.ty.code, sat := m.sat, d := m.d, a := m.a, b := m.b, c := m.c,
                               msk := m.msk }.toWord
  | .imin m => some (encInt2 0x45 m)
  | .imax m => some (encInt2 0x46 m)
  | .iabs m => some (encInt1 0x47 m)
  | .iand m => some (encInt2 0x48 m)
  | .ior m => some (encInt2 0x49 m)
  | .ixor m => some (encInt2 0x4A m)
  | .inot m => some (encInt1 0x4B m)
  | .shl m => some (encInt2 0x4C m)
  | .shr m => some (encInt2 0x4D m)
  | .sha m => some (encInt2 0x4E m)
  | .rot m => some (encInt2 0x4F m)
  | .bfx m =>
    some { FmtV.zero 0x50 with g := m.g, ty := m.ty.code, d := m.d, a := m.a, msk := m.msk,
                               x := (m.len ++ m.pos).setWidth 19 }.toWord
  | .bfi m =>
    some { FmtV.zero 0x51 with g := m.g, ty := m.ty.code, d := m.d, a := m.a, b := m.b, msk := m.msk,
                               x := (m.len ++ m.pos).setWidth 19 }.toWord
  | .popc m => some (encInt1 0x52 m)
  | .clz m => some (encInt1 0x53 m)
  | .brev m => some (encInt1 0x54 m)
  | .icmp m =>
    some { FmtV.zero 0x55 with fn := m.cond.code, g := m.g, ty := m.ty.code, ind := m.mode.code, d := ofS m.d, a := m.a,
                               b := m.b, c := m.mode.reg, msk := m.msk }.toWord
  | .sel m =>
    some { FmtV.zero 0x56 with g := m.g, ty := m.ty.code, d := m.d, a := m.a, b := m.b, c := ofS m.c, msk := m.msk }.toWord
  | .lea m =>
    some { FmtV.zero 0x57 with g := m.g, ty := m.ty.code, d := m.d, a := m.a, b := m.b, msk := m.msk,
                               x := m.disp ++ m.sh }.toWord
  | .fadd m => some (encFlt2 0x60 m)
  | .fsub m => some (encFlt2 0x61 m)
  | .fmul m => some (encFlt2 0x62 m)
  | .ffma m =>
    some { FmtV.zero 0x63 with fn := m.kind.code, g := m.g, ty := m.ty.code, rm := m.rm.code, sat := m.sat, d := m.d, a := m.a,
                               b := m.b, c := m.c, msk := m.msk, x := m.rm.reg.setWidth 19 }.toWord
  | .fmin m => some (encFMin 0x64 m)
  | .fmax m => some (encFMin 0x65 m)
  | .fcmp m =>
    some { FmtV.zero 0x66 with fn := m.cond.code, g := m.g, ty := m.ty.code, ind := m.mode.code, d := ofS m.d, a := m.a,
                               b := m.b, c := m.mode.reg, msk := m.msk }.toWord
  | .fclass m => some { FmtV.zero 0x67 with g := m.g, ty := m.ty.code, d := m.d, a := m.a, msk := m.msk }.toWord
  | .frnd m => some (encFlt1 0x68 m)
  | .fscl m => some (encFlt2 0x69 m)
  | .frcp m => some (encFlt1 0x6A m)
  | .frsq m => some (encFlt1 0x6B m)
  | .fsqrt m => some (encFlt1 0x6C m)
  | .fexp2 m => some (encFlt1 0x6D m)
  | .flog2 m => some (encFlt1 0x6E m)
  | .ftanh m => some (encFlt1 0x6F m)
  | .cvt m =>
    some { FmtV.zero 0x70 with g := m.g, ty := m.dty.code, rm := m.rm.code, sat := m.sat, d := m.d, a := m.a,
                               c := (bit1 m.dty.isFlt ++ bit1 m.sty.isFlt ++ m.sty.code).setWidth 11, msk := m.msk,
                               x := m.rm.reg.setWidth 19 }.toWord
  | .packn m =>
    some { FmtV.zero 0x71 with ty := m.ty.code, ind := (bit1 (!m.ty.isFlt)).setWidth 3, rm := m.rm.code, sat := m.sat, d := m.d,
                               a := m.a, msk := m.msk, x := m.rm.reg.setWidth 19 }.toWord
  | .unpkn m =>
    some { FmtV.zero 0x72 with ty := m.ty.code, ind := (bit1 (!m.ty.isFlt)).setWidth 3, d := m.d, a := m.a, msk := m.msk }.toWord
  | .dotq m => some (encDot 0x73 m)
  | .dotx m => some (encDot 0x74 m)
  | .dotb m => some (encDot 0x75 m)
  | .doth m => some (encDot 0x76 m)
  | .aclr d n msk => some { FmtV.zero 0x80 with d := ofA d, msk := msk, x := n.setWidth 19 }.toWord
  | .ashift d n msk => some { FmtV.zero 0x81 with d := ofA d, msk := msk, x := n.setWidth 19 }.toWord
  | .mma m => some (encMma 0x82 m 0)
  | .mmloop m count inc => some (encMma 0x83 m (inc ++ count))
  | .arow m =>
    some { FmtV.zero 0x84 with ty := m.ty.code, ind := (bit1 (!m.ty.isFlt)).setWidth 3, d := ofA m.d, a := m.a, msk := m.msk,
                               x := m.row.setWidth 19 }.toWord
  | .aadd d a msk => some { FmtV.zero 0x85 with d := ofA d, a := ofA a, msk := msk }.toWord
  | .amov d a msk => some { FmtV.zero 0x86 with d := ofA d, a := ofA a, msk := msk }.toWord
  | .scacc m =>
    some { FmtV.zero 0x87 with ty := m.fa.code, d := ofA m.d, a := ofA m.a, b := m.b, c := m.c, msk := m.msk,
                               x := m.fb.code.setWidth 19 }.toWord
  | .arslv m =>
    some { FmtV.zero 0x88 with ty := m.ty.code, ind := (bit1 (!m.ty.isFlt)).setWidth 3, rm := m.rm.code, sat := m.sat, d := m.d,
                               a := ofA m.a, msk := m.msk, x := rowX m.row m.nrows }.toWord
  | .arslvi d msk => some { FmtV.zero 0x89 with d := ofA d, msk := msk }.toWord
  | .acmp m =>
    some { FmtV.zero 0x8A with fn := m.cond.code, d := ofS m.d, a := ofA m.a, b := m.b, msk := m.msk,
                               x := rowX m.row m.nrows }.toWord
  | .astat m =>
    match m with
    | .t d a msk => some { FmtV.zero 0x8B with d := ofS d, a := ofA a, msk := msk }.toWord
    | .r d a row msk => some { FmtV.zero 0x8B with fn := 1, d := d, a := ofA a, msk := msk, x := row.setWidth 19 }.toWord
  | .asave m =>
    some { FmtV.zero 0x8C with lf := m.lf, a := ofA m.acc, b := ofS m.b, msk := m.msk, x := rowX m.row m.nrows }.toWord
  | .aload m =>
    some { FmtV.zero 0x8D with lf := m.lf, d := ofA m.acc, b := ofS m.b, msk := m.msk, x := rowX m.row m.nrows }.toWord
  | .qdef d q depth store =>
    some { FmtV.zero 0xA0 with d := ofS d, a := ofQ q, x := (bit1 store ++ depth).setWidth 19 }.toWord
  | .qpop d q msk => some { FmtV.zero 0xA1 with d := d, a := ofQ q, msk := msk }.toWord
  | .qpush q a msk => some { FmtV.zero 0xA2 with d := ofQ q, a := a, msk := msk }.toWord
  | .qstat d q => some { FmtV.zero 0xA3 with d := ofS d, a := ofQ q }.toWord
  | .qdrainDisc q => some { FmtV.zero 0xA4 with a := ofQ q }.toWord
  | .qdrainFlush q => some { FmtV.zero 0xA4 with fn := 1, a := ofQ q }.toWord
  | .qld m => some (encStream 0xA5 1 m)
  | .qst m => some (encStream 0xA6 2 m)
  | .ld m =>
    some { FmtM.zero 0xB0 with fn := m.ty.code.2, g := m.g, lf := m.lf, ty := m.ty.code.1, scope := m.scope.code,
                               ord := m.ord.code, d := m.d, a := m.a, c := m.c, msk := m.msk, off := m.off }.toWord
  | .st m =>
    some { FmtM.zero 0xB1 with fn := m.ty.code.2, g := m.g, lf := m.lf, ty := m.ty.code.1, scope := m.scope.code,
                               ord := m.ord.code, col := m.col, d := m.km.setWidth 11, a := m.a, b := m.b, c := m.c, msk := m.msk,
                               off := m.off }.toWord
  | .atom m =>
    some { FmtM.zero 0xB2 with fn := m.op.code, g := m.g, lf := m.lf, ty := m.ty.code, scope := m.scope.code, ord := m.ord.code,
                               d := m.d, a := m.a, b := m.b, c := m.op.reg, msk := m.msk, off := m.off }.toWord
  | .fence sc o km => some { FmtM.zero 0xB3 with d := km.setWidth 11, scope := sc.code, ord := o.code }.toWord
  | .pref m => some { FmtM.zero 0xB4 with g := m.g, a := m.a, c := m.c, msk := m.msk, off := m.off }.toWord
  | .cpl m =>
    some { FmtM.zero 0xC0 with lf := m.lf, ty := m.ty.code, scope := m.scope.code, col := m.col, d := m.d, a := m.a, b := m.b,
                               c := m.c, msk := m.msk, off := m.off }.toWord
  | .cpbox m =>
    some { FmtM.zero 0xC1 with lf := m.lf, ty := m.ty.code, scope := m.scope.code, col := m.col, d := m.d, a := ofS m.a,
                               msk := m.msk }.toWord
  | .cpmc m => some { FmtM.zero 0xC2 with lf := m.lf, d := m.d, a := ofS m.a, b := ofS m.b }.toWord
  | .cpst m => some { FmtM.zero 0xC3 with lf := m.lf, d := m.d, a := ofS m.a, b := m.b, off := m.n.setWidth 17 }.toWord
  | .rlkq d a b => some { FmtV.zero 0xC4 with d := ofS d, a := ofS a, b := ofS b }.toWord
  | .put m => some (encPut 0xC8 0 0 m)
  | .putsig m w64 b => some (encPut 0xC9 (if w64 then 3 else 1) (ofS b) m)
  | .get m => some (encPut 0xCA 0 0 m)
  | .redm m =>
    some { FmtM.zero 0xCB with
             fn := (match m.src with | .f32 => 0 | .bf16 => 0 | .i32 => 1 | .acc _ => 2),
             ty := (match m.src with | .bf16 => 2 | _ => 0), c := (match m.src with | .acc c => ofA c | _ => 0),
             lf := m.lf, d := m.d, a := ofS m.a, scope := podCode m.sys, ord := relCode m.rel, msk := m.msk }.toWord
  | .redr m =>
    some { FmtM.zero 0xCC with
             fn := (match m.ty with | .i32 => 1 | _ => 0), ty := (match m.ty with | .bf16 => 2 | _ => 0), lf := m.lf, d := m.d,
             a := ofS m.a, scope := podCode m.sys, msk := m.msk }.toWord
  | .tsrdH lf d a msk => some { FmtM.zero 0xCD with lf := lf, d := ofS d, a := ofS a, msk := msk }.toWord
  | .tsrdP lf d msk => some { FmtM.zero 0xCD with fn := 1, lf := lf, d := ofS d, msk := msk }.toWord
  | .bcast m =>
    some { FmtM.zero 0xD0 with lf := m.lf, d := ofS m.d, a := ofS m.a, c := m.km.setWidth 11, scope := podCode m.sys,
                               ord := relCode m.rel }.toWord
  | .seqrd d => some { FmtV.zero 0xD1 with d := ofS d }.toWord
  | .seqfence a => some { FmtV.zero 0xD2 with a := ofS a }.toWord
  | .coll m =>
    some { FmtM.zero 0xD8 with fn := m.op.code, lf := m.lf, ty := m.ty.code, scope := podCode m.sys, ord := relCode m.rel,
                               col := m.col, d := m.d, a := m.a, b := m.b, c := m.c, msk := m.msk, off := m.off }.toWord
  | .rsort m =>
    some { FmtM.zero 0xD9 with lf := m.lf, ty := if m.n16 then 5 else 1, scope := m.scope.code, d := m.d, a := ofS m.a,
                               msk := m.msk }.toWord
  | .clkrd d sel => some { FmtS.zero 0xE0 with d := ofS d, sel := sel }.toWord
  | .idrd d sel => some { FmtS.zero 0xE1 with d := ofS d, sel := sel }.toWord
  | .enrd d a sel => some { FmtS.zero 0xE2 with d := ofS d, a := ofS a, sel := sel }.toWord
  | .ttq d a sel => some { FmtS.zero 0xE3 with d := ofS d, a := ofS a, sel := sel }.toWord
  | .crd d sel => some { FmtS.zero 0xE4 with d := ofS d, sel := sel }.toWord
  | .cwr sel a => some { FmtS.zero 0xE5 with a := ofS a, sel := sel }.toWord
  | .issueSelect .. | .spillWaitExpiry .. | .fragmentRefill .. | .barrierWaitEnd .. | .teamLeave ..
  | .scrubComplete .. | .arbiterGrant .. | .clockThrottle .. | .launchAdmit | .launchRefuse .. | .launchComplete ..
  | .reggrowGrant .. | .reggrowDeny .. | .accessIssue .. | .matrixStep .. | .matrixOpComplete ..
  | .matrixOpEarlyEnd .. | .tileDatapathExecute .. | .streamRecordArrive .. | .streamWritePerform .. | .preempt ..
  | .teamSave .. | .teamRestore .. | .watchdog .. | .detRoundCommit .. | .impreciseFaultDelivery ..
  | .loadComplete .. | .storePerform .. | .atomApply .. | .updateOnlyFlush .. | .cwaitPoll .. | .flushMarkerAck ..
  | .pteAckPost .. | .copyItemComplete .. | .copyFinalWord .. | .workSteal .. | .cpmcLanding .. | .leaseTick
  | .nodeRead .. | .nodeWrite .. | .nodeAtomic .. | .heldWriteRelease .. | .atomicCacheWriteback ..
  | .replyReceive .. | .remotePacketApply .. | .packetIntegrityFailure .. | .linkFailure ..
  | .reductionContribution .. | .reductionRead .. | .timestampQuery .. | .slotConfigApply .. | .pennantArrive
  | .storeRec .. | .claimRec .. | .addRec .. | .launchRec .. | .pteRec .. | .slotRec .. | .freeRec .. | .abortRec ..
  | .recordRefetch .. | .loopLeave | .loopBudgetWindow | .tierCarryOut .. | .tierLeaseRenew .. | .sampleDecay
  | .hotGranuleCopy .. | .kvtRecompute | .reconcile .. | .quotaExhausted .. | .quotaWrite .. | .leaseWrite ..
  | .dbstatClear .. | .registerWrite .. | .recordDoorbell .. | .createContext .. | .dissolveContext .. | .mapVf ..
  | .installPortKey .. | .stageFirmware .. | .errorDelivery .. | .masterFreeze .. | .vfDisable .. | .atsInvalidate ..
  | .reset | .bootStageAdvance .. | .getVersion | .getCapabilities | .negotiateAlgorithms .. | .getDigests
  | .getCertificate .. | .challenge .. | .getMeasurements .. | .keyExchange .. | .finish .. | .ideKm ..
  | .remoteRead .. | .ownerChangeScrubComplete .. | .retransmissionRequest .. => none
end Sys2Proof
end

