-- ==== Sys2Proof/Machine/Meter.lean ====
section
/-! DEFINITION. Direct energy charges (R372 to R374): what each piece of work costs, and to whom it is booked. -/

namespace Sys2Proof.Machine
open Sys2Proof

/-- The base die that holds a location (R11, R235); POOL and TRAY sectors found in memory-side SRAM are spread as the window is
(notes/assumptions/12.md). -/
def baseDie (key : Nat) : Nat :=
  if keySpace key == spHBM then 4 + keyOff key / (48 * 2 ^ 30) / 3 % 4 else 4 + keyOff key / 4096 % 4
/-- The I/O die of a port (R11). -/
def portDie (p : Nat) : Nat := if p < 16 then 8 else 9
/-- Charge one sector of memory in the package: class 8 or 9 (R373). -/
def State.chargeSector (s : State) (ctx : Nat) (team : Option Nat) (sec : Nat) : State :=
  let k := 32 * sec
  if keySpace k == spHBM then s.charge ctx team (if Config.sramHit s.stepNo then 8 else 9) (baseDie k) 1
  else if keySpace k == spSRAM || keyPooled k then s.charge ctx team 8 (baseDie k) 1
  else s
/-- Charge the sectors that runs touch. -/
def State.chargeRuns (s : State) (ctx : Nat) (team : Option Nat) (runs : List (Nat × Nat)) : State :=
  (runs.filter fun r => r.2 != 0).foldl (fun s r =>
    (List.range ((r.1 + r.2 - 1) / 32 + 1 - r.1 / 32)).foldl (fun s i => s.chargeSector ctx team (r.1 / 32 + i)) s) s
/-- KIND of a packet (R302); the sideband configuration of R362 is no packet of a path, and has none. For the answers to 0x09, 0x0A and
0x0B see notes/assumptions/18.md. -/
def payloadKind : Payload → Nat
  | .write _ => 0x01
  | .read _ => 0x02
  | .readData .. => 0x03
  | .writeAck .. => 0x04
  | .atomic _ => 0x05
  | .atomicReply .. => 0x06
  | .marker => 0x07
  | .markerAck _ => 0x08
  | .contrib .. => 0x09
  | .redRead .. => 0x0A
  | .redData .. => 0x03
  | .tsQuery => 0x0B
  | .tsReply .. => 0x03
  | .config .. => 0x00
/-- NDATA: the data flits of a packet, each an aligned sector (R301, R302, R355). -/
def packetData (p : Packet) : Nat :=
  match p.load with
  | .write b => (b.length + p.addr % 32 + 31) / 32
  | .readData b _ _ => (b.length + p.addr % 32 + 31) / 32
  | .atomic l => (l.length + 1) / 2
  | .atomicReply l _ _ => (l.length + 1) / 2
  | .contrib _ _ _ w _ _ l _ => (w * l.length + 31) / 32
  | .redData _ l _ => (l.length + 1) / 2
  | _ => 0
/-- ADDR: the offset in the node, or the address at the target package (R302). -/
def packetTarget (p : Packet) : Nat :=
  if p.dst != 0xFF then p.addr else if keySpace p.addr == spPOOL then p.addr % 2 ^ 42 else p.addr % 2 ^ 50
/-- Header bytes 0x00 to 0x0F, which R307 authenticates (R302). -/
def packetHeader (p : Packet) : List Byte :=
  [BitVec.ofNat 8 (payloadKind p.load), BitVec.ofNat 8 p.ctx, BitVec.ofNat 8 p.src, BitVec.ofNat 8 p.dst] ++ natLe 2 p.pts.toNat ++
    [BitVec.ofNat 8 (packetData p), 0] ++ natLe 8 (packetTarget p)
/-- The nonce of a packet: port, direction (0 toward the node, 1 from it), CTX, a zero byte, the packet counter (R307). -/
def packetNonce (port dir ctx : Nat) (counter : BitVec 64) : List Byte :=
  [BitVec.ofNat 8 port, BitVec.ofNat 8 dir, BitVec.ofNat 8 ctx, 0] ++ natLe 8 counter.toNat
/-- A header that a receiver accepts: no reserved KIND, no reserved bit, at most 8 data flits (R301, R302). -/
def headerGood (b : List Byte) : Bool :=
  let f (k : Nat) : Nat := (b.getD k 0).toNat
  1 ≤ f 0 && f 0 ≤ 0x0B && f 6 ≤ 8 && f 7 == 0
/-- A receiver accepts the packet (R302, R308); the sideband configuration has no header. -/
def packetGood (p : Packet) : Bool :=
  p.tagOk && p.reservedOk && (match p.load with | .config .. => true | _ => headerGood (packetHeader p))
/-- Flits of a packet: the header and the data flits (R301). -/
def packetFlits (p : Packet) : Nat := 1 + packetData p
/-- Charge a packet at a port (R373, R374). -/
def State.chargePacket (s : State) (port : Nat) (p : Packet) : State := s.charge p.ctx none 11 (portDie port) (packetFlits p)
/-- Charge the packets of a read of `n` bytes of one sector at its home: the request, and the reply with its data (R301, R373). -/
def State.chargeRead (s : State) (ctx key n : Nat) : State :=
  let port := if keySpace key == spPOOL || keySpace key == spTRAY then keyNode key else 0
  s.charge ctx none 11 (portDie port) (2 + (n + key % 32 + 31) / 32)
/-- Charge a loop record sent or applied: class 12 at I/O die 1 (R373). -/
def State.chargeRecord (s : State) (ctx : Nat) : State := s.charge ctx none 12 9 1

/-- A 64-bit integer type. -/
def tyWide (t : IntTy) : Bool := t == .i64 || t == .n64
/-- The charge class of a pass of a vector form (R143, R373; notes/assumptions/12.md): 2 for the 16-lane unit, 1 for multiplies,
dot products and 64-bit passes, 0 for the others. -/
def Instr.passClass : Instr → Nat
  | .imul _ | .imulh _ | .imad _ | .lea _ => 1
  | .iadd m | .isub m | .imin m | .imax m | .iand m | .ior m | .ixor m | .shl m | .shr m | .sha m | .rot m => (tyWide m.ty).toNat
  | .iabs m | .inot m | .popc m | .clz m | .brev m => (tyWide m.ty).toNat
  | .bfx m => (tyWide m.ty).toNat
  | .bfi m => (tyWide m.ty).toNat
  | .icmp m => (tyWide m.ty).toNat
  | .sel m => (tyWide m.ty).toNat
  | .mov m => (tyWide m.ty).toNat
  | .cvt m => (m.dty == .int .i64 || m.dty == .int .n64 || m.sty == .int .i64 || m.sty == .int .n64).toNat
  | .dotq _ | .dotx _ | .dotb _ | .doth _ => 1
  | .frcp _ | .frsq _ | .fsqrt _ | .fexp2 _ | .flog2 _ | .ftanh _ => 2
  | _ => 0
/-- MSK of a class V word (R34, R35). -/
def wordMask (x : IWord) : MaskField :=
  let op := (x.extractLsb' 88 8).toNat
  if op == 0x21 || op == 0x23 || op == 0x24 then x.extractLsb' 12 8 else x.extractLsb' 19 8
/-- A tile instruction: the tile datapath charges it per cc (R182, R373). -/
def wordTile (x : IWord) : Bool := (x.extractLsb' 92 4).toNat == 8
/-- Book the core work of an instruction at retirement (R79, R374): a class V instruction per group pass, any other per issue. -/
def State.bookWork (s : State) (w : Who) (i : Instr) : State :=
  match encode i with
  | none => s
  | some x =>
    let die := coreDie w.team.core
    match issueClass x with
    | some .v =>
      if wordTile x then s
      else s.charge w.team.ctx (some w.team.id) (Instr.passClass i) die (w.qual (wordMask x)).length
    | some _ => s.charge w.team.ctx (some w.team.id) 3 die 1
    | none => s

end Sys2Proof.Machine
end

