-- ==== Sys2Proof/Machine/Home.lean ====
section
/-! DEFINITION. Access to memory at its home: lease timestamps (R264, R309 to R311), the atomic cache (R312), the arithmetic of an
ATOM (R273), update-only lines (R276), fabric packets and their arbiters (R117, R301 to R306), and the reads and writes that
engines and the events of memory make. -/

namespace Sys2Proof.Machine
open Sys2Proof

/-! ### Timestamps (R309) -/

/-- The number of the lease tick, unwrapped, and the pod tick T (R309): the ticks made so far, so that pts is never behind T. -/
def State.tickNo (s : State) : Nat := s.ticks
/-- T. -/
def State.tickT (s : State) : BitVec 16 := BitVec.ofNat 16 s.tickNo
/-- max of R309, the first operand being the older. -/
def tsMax (a b : BitVec 16) : BitVec 16 := if 1 ≤ (b - a).toNat && (b - a).toNat ≤ 32768 then b else a
/-- A held timestamp lies before another: at a difference of 32,768 the held one is the older (R309). -/
def tsPast (held now : BitVec 16) : Bool := 1 ≤ (now - held).toNat && (now - held).toNat ≤ 32768
/-- The lease length of a context (R310, R393). -/
def State.leaseOf (s : State) (c : Nat) : BitVec 16 := (cellGet 10 s.host.lease c).setWidth 16
/-- Raise pts; lease copies that it passes expire (R264, R310). -/
def State.raisePts (s : State) (v : BitVec 16) : State :=
  let p := tsMax s.pts v
  { s with pts := p, copies := s.copies.filter fun c => !tsPast c.2.rts p }

/-! ### Nodes -/

/-- A node that nothing has reached. -/
def Node.fresh : Node := { stamps := [], cache := [], heldWrites := [], pathWts := none, slots := [] }
/-- Node `n`. -/
def State.nodeAt (s : State) (n : Nat) : Node := (tableFind s.nodes n).getD Node.fresh
/-- Replace node `n`. -/
def State.putNode (s : State) (n : Nat) (x : Node) : State := { s with nodes := tablePut s.nodes n x }
/-- The stamps of a sector at an access: fresh, expired or rebased by R311. -/
def State.stampAt (s : State) (sec : Nat) : Stamp :=
  let old := s.tickT - 16384
  match tableFind (s.nodeAt (keyNode (32 * sec))).stamps sec with
  | none => { wts := old, rts := old, seen := s.tickNo }
  | some st =>
    let fix (v : BitVec 16) : BitVec 16 :=
      if 32768 ≤ s.tickNo - st.seen || (16384 ≤ (s.tickT - v).toNat && (s.tickT - v).toNat ≤ 32768) then old else v
    { wts := fix st.wts, rts := fix st.rts, seen := s.tickNo }
/-- Store the stamps of a sector. -/
def State.putStamp (s : State) (sec : Nat) (st : Stamp) : State :=
  let n := keyNode (32 * sec)
  let x := s.nodeAt n
  s.putNode n { x with stamps := tablePut x.stamps sec st }
/-- The atomic cache gives up a sector before another access is served (R312). -/
def State.writeback (s : State) (sec : Nat) : State :=
  let n := keyNode (32 * sec)
  let x := s.nodeAt n
  s.putNode n { x with cache := tableDrop x.cache sec }
/-- The timestamp that a write with header time `p` would take (R310). -/
def State.nextWts (s : State) (p : BitVec 16) (sec : Nat) : BitVec 16 := tsMax ((s.stampAt sec).rts + 1) p
/-- The write is held at the home: its wts lies more than 2^12 ticks after T (R311). -/
def State.holdsWrite (s : State) (p : BitVec 16) (sec : Nat) : Bool :=
  let d := (s.nextWts p sec - s.tickT).toNat
  4096 < d && d ≤ 32767
/-- A read of a sector at its home (R310): the stamps of the reply. -/
def State.homeRead (s : State) (p lease : BitVec 16) (sec : Nat) : State × Stamp :=
  let s := s.writeback sec
  let st := s.stampAt sec
  let st := { st with rts := tsMax st.rts (p + lease) }
  (s.putStamp sec st, st)
/-- A write of a sector at its home takes the next wts (R310); the data is written by the caller. -/
def State.homeStamp (s : State) (p : BitVec 16) (sec : Nat) : State × BitVec 16 :=
  let w := s.nextWts p sec
  (s.putStamp sec { wts := w, rts := w, seen := s.tickNo }, w)

/-! ### The arithmetic of an ATOM (R273) -/

/-- The new value of a word of `n` bytes: FN, signed compare, old value, operand, compare value. Codes 16 and above are the
operations of COLL (R354). -/
def atomNew (fn : Nat) (signed : Bool) (n old b c : Nat) : Nat :=
  let w := 8 * n
  let lt (x y : Nat) : Bool := if signed then natSigned w x < natSigned w y else x < y
  match fn with
  | 0 => (old + b) % 2 ^ w
  | 1 => if lt b old then b else old
  | 2 => if lt old b then b else old
  | 3 => old &&& b
  | 4 => old ||| b
  | 5 => old ^^^ b
  | 6 => b
  | 7 => if old == c then b else old
  | 8 => if b ≤ old then 0 else (old + 1) % 2 ^ w
  | 16 => b
  | 17 => (old + b) % 2 ^ w
  | 18 => if lt b old then b else old
  | _ => if lt old b then b else old
/-- Operations that combine in an update-only line (R276). -/
def atomCombines (fn : Nat) : Bool := fn ≤ 5

/-! ### Direct access at the home -/

/-- The sector that is due to leave the atomic cache first. -/
def firstToLeave : Cells Nat → Option (Nat × Nat)
  | [] => none
  | e :: t =>
    match firstToLeave t with
    | none => some e
    | some x => if x.2 < e.2 then some x else some e
/-- The atomic cache takes a sector until `leave`. When its space is needed, a sector leaves; the spec does not say which, and the model
takes the one that is due first (R312; notes/assumptions/28.md). -/
def Node.takeSector (x : Node) (sec leave : Nat) : Node :=
  let room := if (tableFind x.cache sec).isSome || x.cache.length < Config.cacheSectors then x.cache
    else match firstToLeave x.cache with
      | none => x.cache
      | some e => tableDrop x.cache e.1
  { x with cache := tablePut room sec leave }
/-- One atomic at the home of its word, with header time `p` and lease length `lease`: on POOL in the atomic cache as a write, which keeps
the sector until that many ticks have passed without another (R312). The old value, and the wts it took. -/
def State.atomAt (s : State) (p : BitVec 16) (lease key n fn : Nat) (signed : Bool) (b c : Nat) : State × Nat × BitVec 16 :=
  let old := Memory.read s.mem key n
  let s := { s with mem := Memory.write s.mem key n (atomNew fn signed n old b c) }
  if keyPooled key then
    let sec := keySector key
    let r := s.homeStamp p sec
    (r.1.putNode (keyNode key) ((r.1.nodeAt (keyNode key)).takeSector sec (s.tickNo + lease)), old, r.2)
  else (s, old, 0)
/-- The same by this package for a context: pts follows (R264). -/
def State.homeAtomic (s : State) (ctx key n fn : Nat) (signed : Bool) (b c : Nat) : State × Nat :=
  let r := s.atomAt s.pts (s.leaseOf ctx).toNat key n fn signed b c
  (if keyPooled key then r.1.raisePts r.2.2 else r.1, r.2.1)

/-! ### Packets (R117, R301 to R307) -/

/-- The arbiter of fabric port p; the others are those of the on-chip network, the host link and the tap (R117, R334). -/
def arbPort (p : Nat) : Nat := p
/-- On-chip network. -/
def arbNet : Nat := 32
/-- Host link. -/
def arbHost : Nat := 33
/-- Tap queue. -/
def arbTap : Nat := 34
/-- The arbitration weight of a context (R117, R381). -/
def State.weightOf (s : State) (c : Nat) : Nat :=
  match s.ctxDesc c with
  | none => 1
  | some d => d.weight
/-- Periods of an arbiter's clock since reset (R117): a flit time for a fabric port, 1 ns for the host link, one cc for the others. -/
def State.arbNow (s : State) (a : Nat) : Nat := if a < arbNet then s.ns * 7 / 2 else if a == arbHost then s.ns else s.cc
/-- Put a packet into the input buffer of a port's arbiter. -/
def State.post (s : State) (port input : Nat) (p : Packet) : State :=
  let a : Arbiter := (tableFind s.arbiters (arbPort port)).getD { waiting := [], pointer := 0 }
  let x : Waiting := { input := input, weight := s.weightOf p.ctx, since := s.arbNow port, pkt := p }
  { s with arbiters := tablePut s.arbiters (arbPort port) { a with waiting := a.waiting ++ [x] } }
/-- The package's number (R393). -/
def State.pkgNo (s : State) : Nat := s.host.pkg
/-- A packet of an operation to the node of a key (R302). -/
def State.packetTo (s : State) (o : Op) (key item : Nat) (load : Payload) : Packet :=
  { ctx := o.ctx, src := s.pkgNo, dst := 0xFF, pts := s.pts, addr := key, load := load, op := o.id, item := item,
    lease := (s.leaseOf o.ctx).toNat, tagOk := true, reservedOk := true }
/-- Post a packet of an operation to the node of a key. -/
def State.postTo (s : State) (o : Op) (key item : Nat) (load : Payload) : State :=
  s.post (keyNode key) o.core (s.packetTo o key item load)
/-- The node of a remote transfer's route (R303). -/
def State.routeNode (s : State) (pkg va : Nat) : Nat := (pkg + va / 2 ^ 21) % max 1 s.host.nodes
/-- Post a packet of an operation on the route to another package (R303). -/
def State.postRoute (s : State) (o : Op) (pkg va item : Nat) (load : Payload) : State :=
  s.post (s.routeNode pkg va) o.core { s.packetTo o va item load with dst := pkg }
/-- The nodes whose paths runs use. -/
def pooledNodes (runs : List (Nat × Nat)) : List Nat := ((runs.filter fun r => keyPooled r.1).map fun r => keyNode r.1).eraseDups
/-- The packets of an access may go out on the paths of its runs (R304): no load, store or ATOM that the thread has issued before operation
`id` has packets for one of them still to send. An ATOM in the update-only state is no packet of its own (R276), and engine operations
send theirs in their own time (R262; notes/assumptions/30.md). -/
def State.pathTurn (s : State) (id tid : Nat) (thr : Option Nat) (lanes : List Mask) (runs : List (Nat × Nat)) : Bool :=
  !(s.ops.any fun p => p.id < id && !p.sent && p.mine tid thr lanes &&
    (match p.kind with
     | .load .. => true
     | .store .. => true
     | .atom _ _ _ _ _ _ _ gathered => !gathered
     | _ => false) &&
    (pooledNodes p.kind.runs).any fun n => (pooledNodes runs).contains n)
/-- Cut a contiguous run of bytes into packets of at most 256 bytes and 8 sectors, each within one 4 KiB block (R301). -/
def cutRun : Nat → Nat → Nat → List (Nat × Nat)
  | 0, _, _ => []
  | fuel + 1, a, n =>
    if n == 0 then []
    else
      let here := min n (256 - a % 32 - (if 4096 < a % 4096 + 256 - a % 32 then a % 4096 + 256 - a % 32 - 4096 else 0))
      (a, here) :: cutRun fuel (a + here) (n - here)
/-- The packets of a run. -/
def packetRuns (a n : Nat) : List (Nat × Nat) := cutRun (n / 32 + 2) a n
/-! ### Lines and sectors -/

/-- An update-only line of a core: 128 bytes (R276). -/
def keyLine (k : Nat) : Nat := k / 128
/-- The operations that gave the entries have been applied at their home: their lanes on the line are done, and an operation with
no lane left completes (R275, R276). -/
def State.linesDone (s : State) (ids : List Nat) (line : Nat) : State :=
  { s with ops := s.ops.filterMap fun o =>
      if !ids.contains o.id then some o
      else match o.kind with
        | .atom g fn sg ty d gs lanes ga =>
          let lanes := lanes.map fun (x : LaneAcc) =>
            if x.segs.any fun r => keyLine r.1 == line then { x with got := some 0 } else x
          if lanes.all fun x => x.got.isSome then none else some { o with kind := .atom g fn sg ty d gs lanes ga }
        | _ => some o }
/-- The outstanding operation of an update-only line on its way to its POOL home (R276), for the ATOMs that gave its entries. -/
def State.flushOp (s : State) (ids : List Nat) (line : Nat) : Option Op :=
  (ids.findSome? fun i => s.opAt i).map fun o =>
    { o with id := s.nextOp, inst := s.nextOp, flag := none, lanes := [], writes := [], ord := .rlx, deps := [], pend := 1, sent := true,
             fail := none, markers := [], locks := [], kind := .flush ids line }
/-- Send one update-only line home (R276): on a POOL page its combined contributions go in a packet for each context, and the ATOMs are done
when it is acknowledged (R304, R312); elsewhere they are applied. -/
def State.flushLine (s : State) (core line : Nat) : State :=
  let es := s.update.filter fun e => e.core == core && e.line == line
  let s := { s with update := s.update.filter fun e => !(e.core == core && e.line == line) }
  if keyPooled (128 * line) then
    ((es.map fun e => e.ctx).eraseDups).foldl (fun s c =>
      let mine := es.filter fun e => e.ctx == c
      match s.flushOp ((mine.flatMap fun e => e.ops).eraseDups) line with
      | none => s
      | some o => (s.addOp o).postTo o (128 * line) 0 (.atomic (mine.map fun e => (e.key - 128 * line, e.fn, e.signed, e.w, e.val, 0)))) s
  else
    let s := es.foldl (fun s e => (s.homeAtomic e.ctx e.key e.w e.fn e.signed e.val 0).1) s
    s.linesDone (es.flatMap fun e => e.ops) line
/-- The update-only lines held, as (core, line). -/
def State.updateLines (s : State) : List (Nat × Nat) :=
  s.update.foldl (fun l e => if l.contains (e.core, e.line) then l else l ++ [(e.core, e.line)]) []
/-- Another access to the bytes sends the lines that hold them home (R276). -/
def State.flushRuns (s : State) (runs : List (Nat × Nat)) : State :=
  (s.updateLines.filter fun l => runs.any fun r => keyLine r.1 ≤ l.2 && l.2 ≤ keyLine (r.1 + r.2 - 1)).foldl
    (fun s l => s.flushLine l.1 l.2) s
/-- Every line of a core goes home (R276). -/
def State.flushCore (s : State) (core : Nat) : State :=
  (s.updateLines.filter fun l => l.1 == core).foldl (fun s l => s.flushLine l.1 l.2) s

/-- The sectors of a list of runs, ascending in each run. -/
def runsSectors (runs : List (Nat × Nat)) : List Nat :=
  (runs.filter fun r => r.2 != 0).flatMap fun r =>
    (List.range ((r.1 + r.2 - 1) / 32 + 1 - r.1 / 32)).map fun i => r.1 / 32 + i
/-- The sectors of POOL and TRAY among them. -/
def pooledSectors (runs : List (Nat × Nat)) : List Nat := (runsSectors runs).filter fun x => keyPooled (32 * x)
/-- The valid lease copy of a sector (R310). -/
def State.copyOf (s : State) (sec : Nat) : Option LeaseCopy := (tableFind s.copies sec).filter fun c => !tsPast c.rts s.pts
/-- The bytes of runs as the package reads them: valid lease copies first, memory otherwise. -/
def State.viewBytes (s : State) (runs : List (Nat × Nat)) : List Byte :=
  runs.flatMap fun r => (List.range r.2).map fun i =>
    let k := r.1 + i
    if keyPooled k then
      match s.copyOf (keySector k) with
      | some c => c.data.extractLsb' (8 * (k % 32)) 8
      | none => Memory.byte s.mem k
    else Memory.byte s.mem k
/-- The bytes of runs as the loads of group `g` of team `tid` see them: its stores on their way home lie over memory (R249). -/
def State.seenBytes (s : State) (tid g : Nat) (runs : List (Nat × Nat)) : List Byte := overlay runs (s.viewBytes runs) (s.shadow tid g)
/-- The 32 bytes of a sector. -/
def Memory.sector (m : Memory) (sec : Nat) : Rec32 := BitVec.ofNat 256 (Memory.read m (32 * sec) 32)
/-- Sectors of memory-side SRAM that no window has carved (R16, R235): 2,048 MiB less the windows of the top-level contexts, which hold
their children's. -/
def State.uncarved (s : State) : Nat :=
  2 ^ 26 - 2 ^ 16 * (s.host.ctxs.filter fun d => d.parent.isNone).foldl (fun n d => n + d.window) 0
/-- Sectors of it that lease copies may take beside the copies of tier 0 (R16, R343). -/
def State.copyRoom (s : State) : Nat :=
  s.uncarved - (s.tiers.copies.filter fun c => c.tier == 0).foldl (fun n c => n + (c.last + 1 - c.first)) 0
/-- Keep a lease copy; with the SRAM full, the copy of the lowest address makes room (R16, R310; notes/assumptions/20.md). -/
def State.keepCopy (s : State) (sec : Nat) (c : LeaseCopy) : State :=
  if s.copyRoom == 0 then s
  else
    let kept := if (tableFind s.copies sec).isSome || s.copies.length < s.copyRoom then s.copies else s.copies.tail
    { s with copies := tablePut kept sec c }
/-- Read one sector of POOL or TRAY at its home for this package, keeping a lease copy unless it is a GET's (R310, R319). -/
def State.leaseRead (s : State) (ctx : Nat) (keep : Bool) (sec : Nat) : State :=
  let r := s.homeRead s.pts (s.leaseOf ctx) sec
  let s := r.1.raisePts r.2.wts
  if keep then s.keepCopy sec { data := Memory.sector s.mem sec, rts := r.2.rts } else s
/-- An engine reads runs: update-only lines go home, and a POOL or TRAY sector without a valid copy is read at its home. -/
def State.engineRead (s : State) (ctx : Nat) (keep : Bool) (runs : List (Nat × Nat)) : State × List Byte :=
  let s := s.flushRuns runs
  let s := (pooledSectors runs).foldl (fun s x => if keep && (s.copyOf x).isSome then s else s.leaseRead ctx keep x) s
  (s, s.viewBytes runs)
/-- An engine writes runs: every POOL or TRAY sector takes a lease write (R310), and sampled and lease copies follow the home
(R344). -/
def State.engineWrite (s : State) (runs : List (Nat × Nat)) (bytes : List Byte) : State :=
  let s := s.flushRuns runs
  let s := (pooledSectors runs).foldl (fun s x => let r := (s.writeback x).homeStamp s.pts x; r.1.raisePts r.2) s
  { s with mem := Memory.writeRuns s.mem runs bytes }
/-- A write to the runs would be held at a home (R311). -/
def State.writeHeld (s : State) (runs : List (Nat × Nat)) : Bool := (pooledSectors runs).any fun x => s.holdsWrite s.pts x

/-- The ports that a release or fence with colour mask `km` sends a marker down (R263). -/
def markerPorts (km : BitVec 8) (p : Cells (BitVec 9)) : List Nat :=
  (p.filter fun e => e.2 &&& (0x100#9 ||| km.setWidth 9) != 0).map fun e => e.1
/-- The paths after that release or fence. -/
def afterMarkers (km : BitVec 8) (p : Cells (BitVec 9)) : Cells (BitVec 9) :=
  (p.map fun e => (e.1, e.2 &&& ~~~(0x100#9 ||| km.setWidth 9))).filter fun e => e.2 != 0
/-- SCOPE is POD or SYS. -/
def scopeWide (c : Scope) : Bool := c == .pod || c == .sys

end Sys2Proof.Machine
end

