-- ==== Sys2Proof/Machine/Issue.lean ====
section
/-! DEFINITION. From the issue latch to the instruction that executes: arrival at a frame (R85), line entry with its parity and
line checks (R21 to R26), WM (R31), pairing (R27 to R29), checks 1 to 4 of R46, the interlock (R32), the 63-operation limit
(R30), the hold of an ordered ATOM (R277), and the closing instructions of deterministic mode (R226). -/

namespace Sys2Proof.Machine
open Sys2Proof

/-! ### The fetch line -/

/-- The line word (R22). -/
def lineWord (l : BitVec 512) : BitVec 32 := l.extractLsb' 0 32
/-- Slot k of a line (R21). -/
def lineSlot (l : BitVec 512) (k : Nat) : IWord := l.extractLsb' (32 + 96 * k) 96
/-- PT (R22). -/
def linePT (l : BitVec 512) : Nat := ((lineWord l).extractLsb' 25 3).toNat
/-- BT bit of slot k (R22). -/
def lineBT (l : BitVec 512) (k : Nat) : Bool := (lineWord l).getLsbD (20 + k)
/-- WM (R22). -/
def lineWM (l : BitVec 512) : BitVec 12 := (lineWord l).extractLsb' 8 12
/-- FA (R22). -/
def lineFA (l : BitVec 512) : Nat := ((lineWord l).extractLsb' 4 4).toNat
/-- FB (R22). -/
def lineFB (l : BitVec 512) : Nat := ((lineWord l).extractLsb' 0 4).toNat
/-- The exclusive OR of the bits of a number. -/
def parityOf (v : Nat) : Nat → Bool
  | 0 => false
  | n + 1 => xor (v % 2 == 1) (parityOf (v / 2) n)
/-- The parity of quarter k, PAR bits included in quarter 0 taken as zero (R23). -/
def quarterParity (l : BitVec 512) (k : Nat) : Bool :=
  let q := (l.extractLsb' (128 * k) 128).toNat
  parityOf (if k == 0 then q % 2 ^ 28 + q / 2 ^ 32 * 2 ^ 32 else q) 128
/-- The parity check of R23. -/
def parityOk (l : BitVec 512) : Bool := (List.range 4).all fun k => quarterParity l k == (lineWord l).getLsbD (28 + k)
/-- The lower slots of the pairs that PT names (R22). -/
def pairSlots (pt : Nat) : List Nat :=
  match pt with
  | 1 => [0] | 2 => [1] | 3 => [2] | 4 => [3] | 5 => [0, 2] | 6 => [1, 3] | 7 => [0, 3] | _ => []
/-- What a word writes, for the pair rule; nothing when it decodes to no instruction. -/
def wordWrites (w : IWord) : List Use :=
  match decode w with
  | .ok i => Instr.writes i
  | .error _ => []
/-- A register that a write discards does not count as written (R118). -/
def Use.real (u : Use) : Bool := u != .v 0 && u != .s 0
/-- A pair breaks R26 or R28: its classes, a double write, or a BT bit on its higher slot. -/
def pairBad (l : BitVec 512) (k : Nat) : Bool :=
  let a := lineSlot l k
  let b := lineSlot l (k + 1)
  let ok := match issueClass a, issueClass b with
    | some .v, some x => x == .w || x == .m || x == .c
    | some x, some .v => x == .w || x == .m || x == .c
    | _, _ => false
  !ok || lineBT l (k + 1) || (wordWrites a).any fun u => u.real && (wordWrites b).contains u
/-- An illegal line (R26). -/
def lineIllegal (l : BitVec 512) : Bool :=
  (12 ≤ lineFA l && lineFA l ≤ 14) || (12 ≤ lineFB l && lineFB l ≤ 14) || (pairSlots (linePT l)).any (pairBad l)
/-- 64 bytes as a line. -/
def lineOf (bs : List Byte) : BitVec 512 := BitVec.ofNat 512 (leNat bs)

/-- The line address of a PC (R21). -/
def pcLine (pc : DWord) : DWord := pc &&& ~~~0x3F#64
/-- The slot of a PC (R21). -/
def pcSlot (pc : DWord) : Nat := (pc.extractLsb' 0 3).toNat
/-- A PC that may execute (R21). -/
def pcValid (pc : DWord) : Bool := pc.extractLsb' 3 3 == 0 && pcSlot pc ≤ 4
/-- The slot after slot k of a line (R24). -/
def slotNext (line : DWord) (k : Nat) : DWord := if k ≥ 4 then line + 64 else line + BitVec.ofNat 64 (k + 1)

/-- What a fetch of a line gives. -/
inductive Fetched
  | line (l : BitVec 512)
  | fault (cause : Nat)
  | mig
  deriving DecidableEq, Repr
/-- Fetch a line for a context (R242: as a fetch; notes/assumptions/10.md). -/
def State.fetch (s : State) (c : Nat) (line : DWord) : Fetched :=
  match s.check c .fetch 64 line.toNat with
  | .fault cause => .fault cause
  | .mig => .mig
  | .ok key _ => .line (lineOf (Memory.bytes s.mem key 64))

/-- What entering a line gives: the line, or the trap it raises, or a wait on MIG (R23, R24, R26, R242). -/
inductive Entered
  | line (l : BitVec 512)
  | trap (cause : Nat) (info : DWord)
  | mig
  deriving DecidableEq, Repr
/-- Enter the line of a PC: parity first, then the line checks (R26). -/
def State.enter (s : State) (c : Nat) (pc : DWord) : Entered :=
  match s.fetch c (pcLine pc) with
  | .fault cause => .trap cause (pcLine pc)
  | .mig => .mig
  | .line l =>
    if !parityOk l then .trap 0x03 (pcLine pc)
    else if lineIllegal l then .trap 0x02 (pcLine pc)
    else .line l
/-- The line a fragment issues from: the one it has entered, or the one it enters now (R24). -/
def State.lineFor (s : State) (c : Nat) (f : Fragment) : Entered :=
  match f.line with
  | some l => .line l
  | none => s.enter c f.pc

/-- Every flag in WM is clear (R31): checked when the line is entered only. -/
def State.wmClear (s : State) (tid : Nat) (thr : Option Nat) (f : Fragment) (l : BitVec 512) : Bool :=
  f.line.isSome || (List.range 12).all fun k => !(lineWM l).getLsbD k || !s.flagSet tid thr f.m k

/-! ### The interlock -/

/-- The storage elements of a use, over the groups that the issuer holds; an access thread has its own s registers. A tile operation
may read B registers of every group of a quad (R178), so a v use of MMA covers every group of the team. -/
def Who.refs (w : Who) (allGroups : Bool) (u : Use) : List RegRef :=
  match u with
  | .v r => (if allGroups then List.range w.team.groups.length else w.present).map fun g => .v g r
  | .s r =>
    match w.thr with
    | none => w.present.map fun g => .s g r
    | some x => [.ts x.group r]
  | .acc t => [.tile t]
  | .queue _ => []
/-- The instruction is MMA or MMLOOP. -/
def Instr.isMatrix : Instr → Bool
  | .mma .. => true
  | .mmloop .. => true
  | _ => false
/-- Tile instructions execute in issue order on their datapath and array (R173, R174): they wait there, not at issue. A queue is not
interlocked at issue either, although R32 names queues: QPOP and QPUSH wait by R199 and R200, and QSTAT reports outstanding streams and
so does not wait for them (R210; notes/assumptions/70.md). -/
def Use.waits (u : Use) : Bool :=
  match u with
  | .acc _ => false
  | .queue _ => false
  | _ => u.real
/-- The instruction reads or writes FSTAT by name (R132). -/
def Instr.namesFstat : Instr → Bool
  | .gmovsRdf _ => true
  | .gmovsWrf _ => true
  | .gmovsClf _ => true
  | _ => false
/-- A queued resolve or an outstanding REDR will still raise FSTAT bits of a present group (R75, R190, R321). -/
def State.fstatPending (s : State) (w : Who) : Bool :=
  s.ops.any fun o => o.team == w.team.id &&
    (match o.kind with
     | .tile (.resolve g _ _) _ => w.present.contains g
     | .engine e => (match e.kind with | .redr .. => w.present.contains e.group | _ => false)
     | _ => false)
/-- An outstanding operation will write something that the instruction reads or writes, or a matrix step has still to read what it
writes (R32, R180). -/
def State.interlocked (s : State) (w : Who) (i : Instr) : Bool :=
  ((Instr.readsOf i ++ Instr.writes i).filter Use.waits).any (fun u =>
    (w.refs (Instr.isMatrix i) u).any fun r => s.pendingWrite w.team.id r) ||
  ((Instr.writes i).filter Use.waits).any (fun u => match u with
    | .v r => w.present.any fun g => s.matrixReads w.team.id g r
    | _ => false) ||
  (Instr.namesFstat i && s.fstatPending w)
/-- The instructions of a slot or pair would put a 64th operation on a flag (R30). -/
def State.flagFull (s : State) (w : Who) (is : List Instr) : Bool :=
  (List.range 12).any fun k =>
    let n := (is.filter fun i => (Instr.flagBit i).bind w.flag == some k).length
    n != 0 && 63 < s.flagLoad w.team.id k + n
/-- An ordered ATOM holds the fragment back (R277). -/
def State.held (s : State) (w : Who) (i : Instr) : Bool :=
  Instr.heldBack i && w.frag.hold.any fun d => (s.opAt d).isSome
/-- An instruction that a fragment executes at its commit: a closing one, one that commits, and a store that no region buffers, which
its ticket puts in order (R217, R226; notes/assumptions/83.md). -/
def Instr.endsRound (i : Instr) (regioned : Bool) : Bool :=
  match i with
  | .rgn => true
  | .yield _ => true
  | .st _ => !regioned || Instr.closing i
  | .asave _ => true
  | _ => Instr.closing i
/-- The instruction waits for its commit (R226). -/
def State.roundStop (s : State) (w : Who) (i : Instr) : Bool := s.roundHeld w && Instr.endsRound i w.regioned

/-! ### Preparing an issue -/

/-- What the latch leads to. -/
inductive Prep
  /-- The step is over: an arrival, a wait, or a trap before execution. -/
  | settled (s : State)
  /-- One slot executes. -/
  | one (i : Instr) (s : State)
  /-- A pair executes: the V instruction, then its partner, each with its slot (R29). -/
  | pair (v : Instr) (vslot : Nat) (p : Instr) (pslot : Nat) (s : State)

/-- The issuer does nothing in this step. -/
def State.idle (s : State) : State := { s with issue := none, last := .waited }
/-- The instructions of a slot or pair must wait (R30, R32, R277). -/
def State.mustWait (s : State) (w : Who) (is : List Instr) : Bool :=
  is.any (fun i => s.interlocked w i || s.held w i) || s.flagFull w is
/-- Set the latch for a slot of the entered line. -/
def latchSlot (iss : Issue) (l : BitVec 512) (pc : DWord) (k : Nat) (next : DWord) (snap : Option (List Group)) : Issue :=
  { iss with pc := pc, slot := k, line := pcLine pc, next := next, fa := lineFA l, fb := lineFB l, snap := snap }

/-- The groups as both instructions of a pair read them (R29): FSTAT as R217 reads it. -/
def Team.snapshot (t : Team) : List Group := t.groups.mapIdx fun g (x : Group) => { x with fstat := t.fstat g }
/-- Prepare the issue that the latch names. The spec does not say which trap a pair reports when both of its instructions trap: the model
takes a word of the lower slot that does not decode first, then that of the higher slot (notes/assumptions/69.md). -/
def State.prepare (s : State) : Prep :=
  match s.who with
  | none => .settled s.idle
  | some w =>
    match (if w.thr.isNone then w.team.arrivesAt w.frag else none) with
    | some F => .settled { s.arrive w.team.id w.frag F with issue := none, last := .waited }
    | none =>
      let pc := w.frag.pc
      let k := pcSlot pc
      let w := { w with iss := { w.iss with pc := pc, slot := k, line := pcLine pc, next := slotNext (pcLine pc) k } }
      match s.lineFor w.team.ctx w.frag with
      | .mig => .settled (s.onFrag w fun f => { f with wait := .mig (pcLine pc) }).idle
      | .trap cause info => .settled (s.trapWho w cause info pc)
      | .line l =>
        if !s.wmClear w.team.id (w.thr.map fun x => x.group) w.frag l then .settled s.idle
        else
          let s := s.onFrag w fun f => { f with line := some l }
          let one := latchSlot w.iss l pc k (slotNext (pcLine pc) k) none
          if (pairSlots (linePT l)).contains k then
            let iss := latchSlot w.iss l pc k (slotNext (pcLine pc) (k + 1)) (some w.team.snapshot)
            match decode (lineSlot l k), decode (lineSlot l (k + 1)) with
            | .error e, _ => .settled (s.trapWho { w with iss := iss } 0x01 (BitVec.ofNat 64 e.number) pc)
            | .ok _, .error e => .settled (s.trapWho { w with iss := { iss with slot := k + 1 } } 0x01 (BitVec.ofNat 64 e.number) pc)
            | .ok a, .ok b =>
              let w' := { w with iss := iss }
              if s.mustWait w' [a, b] then .settled s.idle
              else if s.roundStop w' a || s.roundStop w' b then
                .settled (s.onFrag w fun f => { f with wait := .round }).idle
              else
                let s := { s with issue := some iss }
                if issueClass (lineSlot l k) == some .v then .pair a k b (k + 1) s else .pair b (k + 1) a k s
          else
            match decode (lineSlot l k) with
            | .error e => .settled (s.trapWho { w with iss := one } 0x01 (BitVec.ofNat 64 e.number) pc)
            | .ok i =>
              let w' := { w with iss := one }
              if s.mustWait w' [i] then .settled s.idle
              else if s.roundStop w' i then .settled (s.onFrag w fun f => { f with wait := .round }).idle
              else .one i { s with issue := some one }

/-! ### Targets -/

/-- The check of a transfer target (R21, R25, R37, R96): none when it may be taken, else the trap. -/
inductive TargetCheck
  | good
  | trap (cause : Nat) (info : DWord)
  | mig (va : DWord)
  deriving DecidableEq, Repr
/-- Check a target PC: valid, within 52 bits, its line readable as a fetch, its BT bit set. -/
def State.checkTarget (s : State) (c : Nat) (pc : DWord) : TargetCheck :=
  if !pcValid pc then .trap 0x01 0
  else match s.fetch c (pcLine pc) with
    | .fault cause => .trap cause (pcLine pc)
    | .mig => .mig (pcLine pc)
    | .line l => if lineBT l (pcSlot pc) then .good else .trap 0x01 0
/-- The PC of a format B target (R37). -/
def Who.target (w : Who) (t : Target) : DWord :=
  (w.iss.line + (t.tgt.signExtend 64) * 64) ||| t.ts.setWidth 64

/-! ### Pairs -/

/-- The latch of one instruction of a pair. -/
def State.latchAs (s : State) (iss : Issue) (slot : Nat) : State := { s with issue := some { iss with slot := slot } }
/-- A pair in which an instruction traps has no effect: the trap is taken from the state before it, at the lower slot's PC
(R29; notes/assumptions/14.md). -/
def State.pairTrap (s : State) (iss : Issue) (slot cause : Nat) (info : DWord) : State :=
  let s := s.latchAs iss slot
  match s.who with
  | none => s.idle
  | some w => s.trapWho w cause info iss.pc
/-- The closing instruction of a pair commits its region at issue, before either instruction acts (R219). -/
def State.closePair (s : State) (closing : Bool) : State :=
  if !closing then s
  else match s.who with
    | none => s
    | some w => (s.close w).reopen w
/-- A pair acts as one step (R29): the V instruction completes, then its partner, which reads the registers as they stood before. A pair of
which an instruction must wait has no effect yet but that instruction's wait: it issues again as a whole. When both instructions trap, which
the spec leaves open, the trap of the V instruction is reported (notes/assumptions/69.md). -/
def runPair (run : Instr → State → Host.Outcome State Fault Refusal) (v : Instr) (vslot : Nat) (p : Instr) (pslot : Nat)
    (s : State) : Host.Outcome State Fault Refusal :=
  match s.issue with
  | none => .next s.idle
  | some iss =>
    let s0 := s
    let s := s.closePair (Instr.closing p)
    match run v (s.latchAs iss vslot) with
    | .fault r => .fault r
    | .refused r => .refused r
    | .next s1 =>
      match s1.last with
      | .trapped cause info => .next (s0.pairTrap iss vslot cause info)
      | .waited => .next s1
      | _ =>
        match run p (s1.latchAs iss pslot) with
        | .fault r => .fault r
        | .refused r => .refused r
        | .next s2 =>
          match s2.last with
          | .trapped cause info => .next (s0.pairTrap iss pslot cause info)
          | .waited => (match run p (s.latchAs iss pslot) with
            | .next s3 => .next (if s3.last == .waited then s3 else s.idle)
            | r => r)
          | _ => .next s2

end Sys2Proof.Machine
end

