-- ==== Sys2Proof/Machine/Split.lean ====
section
/-! DEFINITION. Whether a stream of control is ready (R31, R85, R91, R93, R253, R278, R280, R294, R338), the split table with its spilling
(R80 to R83), and the splits of fragments (R84, R216). -/

namespace Sys2Proof.Machine
open Sys2Proof

/-! ### Readiness -/

/-- A stream of control as an issuer, before anything of its line is known. -/
def Team.whoOf (t : Team) (f : Fragment) (thr : Option Thread) : Who :=
  { iss := { team := t.id, frag := f.id, thread := thr.map fun x => x.group, pc := f.pc, slot := pcSlot f.pc, line := pcLine f.pc,
             next := slotNext (pcLine f.pc) (pcSlot f.pc), fa := 15, fb := 15, snap := none },
    team := t, frag := f, thr := thr }
/-- A copy or station write to the pair is outstanding in a present group (R294). -/
def State.copyPending (s : State) (w : Who) (a : Nat) : Bool :=
  s.ops.any fun o => o.team == w.team.id &&
    (match o.kind with | .engine _ => true | .station _ => true | _ => false) &&
    w.present.any fun g => o.writes.contains (.v g a) || o.writes.contains (.v g (a + 1))
/-- The flags of a mask that are set for the issuer. -/
def State.flagsBusy (s : State) (w : Who) (flags : BitVec 12) : Bool :=
  (List.range 12).any fun k => flags.getLsbD k && s.flagSet w.team.id w.thrId w.frag.m k
/-- What a fragment or access thread waits for has come about (R85, R91, R126, R253, R278, R280, R294, R338). -/
def State.waitOver (s : State) (w : Who) : Bool :=
  match w.frag.wait with
  | .ready => true
  | .granted _ => true
  | .parkR a => !s.copyPending w a
  | .parkF flags => !s.flagsBusy w flags
  | .ops ids lvl => ids.all fun i => (s.opAt i).all fun o => o.performed lvl
  | .seq n => n.toNat ≤ s.loop.applied
  | .cwait _ _ go => go
  | .round => w.frag.roundGo
  | .frame _ => false
  | .barrier _ _ => false
  | .grow _ _ _ => false
  | .mig _ => false
/-- Nothing at the fragment's slot holds it back: WM (R31), the 63-operation limit (R30), the interlock (R32), an ordered ATOM
(R277). An arrival (R85), a trap and a wait on MIG need no free operand. -/
def State.slotFree (s : State) (w : Who) : Bool :=
  (w.thr.isNone && (w.team.arrivesAt w.frag).isSome) ||
  match s.lineFor w.team.ctx w.frag with
  | .trap _ _ => true
  | .mig => true
  | .line l =>
    let k := pcSlot w.frag.pc
    let w := { w with iss := { w.iss with fa := lineFA l, fb := lineFB l } }
    let word (k : Nat) : List Instr := match decode (lineSlot l k) with
      | .error _ => []
      | .ok i => [i]
    let is := word k ++ (if (pairSlots (linePT l)).contains k then word (k + 1) else [])
    s.wmClear w.team.id w.thrId w.frag l && !s.mustWait w is
/-- A fragment is ready: what it waits for is over, and nothing at its slot holds it back (R93). -/
def State.ready (s : State) (t : Team) (f : Fragment) : Bool :=
  !f.blocked && s.waitOver (t.whoOf f none) && s.slotFree (t.whoOf f none)

/-! ### The split table -/

/-- Entry numbers in use on a core, or being scrubbed there (R80, R116). -/
def State.entriesUsed (s : State) (core : Nat) : List Nat :=
  ((s.onCore core).flatMap fun t => t.frags.filterMap (fun f => f.entry) ++ t.frames.filterMap (fun f => f.entry)) ++
    s.scrubs.flatMap fun x => if x.core == core then x.entries else []
/-- A free split-table entry of a core in a half-core that the context owns (R80, R381): the spec does not say which, the model takes the
lowest (notes/assumptions/73.md). -/
def State.freeEntry (s : State) (ctx core : Nat) : Option Nat :=
  let used := s.entriesUsed core
  (List.range 128).find? fun e => s.ownsHalf ctx core (e / 64) && !used.contains e
/-- The WAIT field of a fragment's record (R83): one that waits for nothing of its own may still stand at a WM, an operand or a busy
flag. -/
def State.waitCode (s : State) (t : Team) (f : Fragment) : Nat :=
  match f.wait with
  | .frame _ => 1
  | .barrier .. => 2
  | _ => if s.ready t f then 0 else 3
/-- 128 bytes of a hierarchical mask (R83). -/
def maskBytes (l : List Mask) : List Byte := (List.range 16).flatMap fun g => natLe 8 (maskAt l g).toNat
/-- The groups of a hierarchical mask as GP (R78). -/
def groupWord (l : List Mask) : Nat := (maskGroups l).foldl (fun n g => n + 2 ^ g) 0
/-- A link as R83 stores it. -/
def linkWord (l : Option Nat) : Nat := l.getD 0xFFFFFFFF
/-- The 288-byte record of a fragment (R83). -/
def Fragment.record (f : Fragment) (wait : Nat) : List Byte :=
  natLe 8 f.pc.toNat ++ natLe 2 (groupWord f.m) ++ [0, BitVec.ofNat 8 (f.cls % 4)] ++ natLe 2 f.age ++
    [BitVec.ofNat 8 wait, 0] ++ natLe 4 (linkWord f.link) ++ natLe 4 0 ++ natLe 8 0 ++ maskBytes f.m ++ maskBytes f.e
/-- The 288-byte record of a frame (R83). -/
def Frame.record (f : Frame) : List Byte :=
  natLe 8 f.pc.toNat ++ natLe 2 (groupWord f.x) ++ [1, BitVec.ofNat 8 (f.cls % 4)] ++ natLe 2 0 ++ [0, 0] ++
    natLe 4 (linkWord f.link) ++ natLe 4 f.num ++ natLe 8 0 ++ maskBytes f.x ++ maskBytes f.en
/-- The virtual address of a record of a team's spill area. -/
def Team.spillVa (t : Team) (slot : Nat) : Nat := t.kernel.spill.toNat + 288 * slot
/-- A failed translation or access of the spill area is cause 0x05, a fault of the team (R81). The spec states neither its PC nor the
fragment that receives it: the model reports PC 0 to the fragment spilled or refilled, fragment 0 for a frame
(notes/assumptions/76.md). -/
def State.spillFault (s : State) (t : Team) (fid va : Nat) : State :=
  s.onTeam t.id fun t => t.holdFault ⟨fid, none, 0, 0x05, BitVec.ofNat 64 va⟩
/-- Write a spill record (R81, R83): the address to wait for when its page is migrating (R246). -/
def State.writeSpill (s : State) (t : Team) (fid slot : Nat) (bytes : List Byte) : Except DWord State :=
  let va := t.spillVa slot
  match s.range t.ctx .store va 288 with
  | .runs l => .ok ((s.chargeMove t 288).engineWrite l bytes)
  | .mig _ _ page => .error (BitVec.ofNat 64 (page.getD va))
  | .bad _ a => .ok (s.spillFault t fid a)
/-- Read a spill record back (R82); none while its page is migrating. -/
def State.readSpill (s : State) (t : Team) (fid slot : Nat) : Option State :=
  let va := t.spillVa slot
  match s.range t.ctx .load va 288 with
  | .runs l => some ((s.chargeMove t 288).engineRead t.ctx true l).1
  | .mig .. => none
  | .bad _ a => some (s.spillFault t fid a)
/-- A resident entry of a team that may be spilled. -/
inductive Victim
  | frame (f : Frame)
  | frag (f : Fragment)
  deriving DecidableEq, Repr
/-- The fragment of lowest age in a list; of several the first (notes/assumptions/74.md). -/
def lowestAge : List Fragment → Option Fragment
  | [] => none
  | f :: t =>
    match lowestAge t with
    | none => some f
    | some x => if x.age < f.age then some x else some f
/-- A fragment waits at a frame or a barrier. -/
def Wait.atJoin (w : Wait) : Bool :=
  match w with
  | .frame _ => true
  | .barrier .. => true
  | _ => false
/-- The first three choices of R82: a frame, a fragment waiting at a frame or a barrier, another fragment that is not ready. Of several the
model takes the first in the team's list (notes/assumptions/74.md). -/
def State.idleVictim (s : State) (t : Team) : Option Victim :=
  match t.frames.find? fun f => f.entry.isSome with
  | some f => some (.frame f)
  | none =>
    let rs := t.frags.filter fun f => f.entry.isSome
    match rs.find? fun f => f.wait.atJoin with
    | some f => some (.frag f)
    | none => (rs.find? fun f => !s.ready t f).map .frag
/-- The resident entry that R82 spills next: the first three choices, then the ready fragment of lowest age. -/
def State.victim (s : State) (t : Team) : Option Victim :=
  match s.idleVictim t with
  | some v => some v
  | none => (lowestAge (t.frags.filter fun f => f.entry.isSome)).map .frag
/-- The slot of a fragment's spill record: the number of its lowest team lane, which no other fragment holds (R77, R81;
notes/assumptions/16.md). -/
def Team.fragSlot (t : Team) (m : List Mask) : Nat := min (lowestTeamLane m) (64 * t.kernel.groups - 1)
/-- The slot of a frame's spill record: after those of the fragments. -/
def Team.frameSlot (t : Team) (n : Nat) : Nat := 64 * t.kernel.groups + n
/-- The entry of a victim. -/
def Victim.entry : Victim → Option Nat
  | .frame f => f.entry
  | .frag f => f.entry
/-- Spill a resident entry: its record is written and its number comes free (R82). -/
def State.spill (s : State) (tid : Nat) (v : Victim) : Except DWord State :=
  match s.teamAt tid with
  | none => .ok s
  | some t =>
    match v with
    | .frame f => (s.writeSpill t 0 (t.frameSlot f.num) f.record).map fun s => s.onTeam tid fun t =>
        { t with frames := t.frames.map fun x => if x.num == f.num then { x with entry := none } else x }
    | .frag f => (s.writeSpill t f.id (t.fragSlot f.m) (f.record (s.waitCode t f))).map fun s => s.onTeam tid fun t =>
        { t with frags := t.frags.map fun x => if x.id == f.id then { x with entry := none } else x }
/-- Resident entries of a team. -/
def Team.residents (t : Team) : Nat := (t.frags.filter fun f => f.entry.isSome).length + (t.frames.filter fun f => f.entry.isSome).length
/-- An entry for a new fragment or frame of a team: a free one, else the one of the entry that R82 spills when the team has more than one,
else none: the new one is spilled itself (R82). -/
def State.takeEntry (s : State) (tid : Nat) : Except DWord (State × Option Nat) :=
  match s.teamAt tid with
  | none => .ok (s, none)
  | some t =>
    match s.freeEntry t.ctx t.core with
    | some e => .ok (s, some e)
    | none =>
      if t.residents ≤ 1 then .ok (s, none)
      else
        match s.victim t with
        | none => .ok (s, none)
        | some v => (s.spill tid v).map fun s => (s, v.entry)

/-! ### New fragments and frames -/

/-- The number of a new fragment: above those of the team. -/
def Team.freshFrag (t : Team) : Nat := t.frags.foldl (fun n f => max n (f.id + 1)) t.nextFrag
/-- Add a fragment to a team under a new number, in an entry of its own or spilled at once (R82). -/
def State.addFrag (s : State) (tid : Nat) (n : Fragment) : Except DWord State :=
  match s.takeEntry tid with
  | .error va => .error va
  | .ok r =>
    match r.1.teamAt tid with
    | none => .ok r.1
    | some t =>
      let n := { n with id := t.freshFrag, entry := r.2 }
      let s := r.1.onTeam tid fun t => { t with frags := t.frags ++ [n], nextFrag := n.id + 1 }
      if r.2.isNone then s.writeSpill t n.id (t.fragSlot n.m) (n.record 0) else .ok s
/-- Add a frame to a team, in an entry of its own or spilled at once (R82). -/
def State.addFrame (s : State) (tid fid : Nat) (F : Frame) : Except DWord State :=
  match s.takeEntry tid with
  | .error va => .error va
  | .ok r =>
    match r.1.teamAt tid with
    | none => .ok r.1
    | some t =>
      let F := { F with entry := r.2 }
      let s := r.1.onTeam tid fun t => { t with frames := t.frames ++ [F] }
      if r.2.isNone then s.writeSpill t fid (t.frameSlot F.num) F.record else .ok s

/-! ### Splits -/

/-- One part of a split: where it goes on, whether the line it has entered stays entered (R24), its lanes. -/
structure Part where
  pc : DWord
  stays : Bool
  m : List Mask
  deriving DecidableEq, Repr
/-- The buffered stores that a part keeps (R216): the bytes its lanes wrote. -/
def partBuffer (m : List Mask) (b : List BufRun) : List BufRun :=
  (b.map fun x => { x with bytes := x.bytes.filter fun y => (maskAt m (y.lane / 64)).getLsbD (y.lane % 64) }).filter fun x =>
    !x.bytes.isEmpty
/-- The entries that buffered stores take in a half-core: one for each sector (R218). -/
def bufCount (buf : List BufRun) (h : Nat) : Nat := ((buf.filter fun b => b.half == h).map fun b => b.sector).eraseDups.length
/-- Buffer entries in use in a half-core (R218). -/
def State.bufUsed (s : State) (core h : Nat) : Nat :=
  (s.onCore core).foldl (fun n t => t.frags.foldl (fun n f => n + bufCount f.region.buf h) n) 0
/-- A part of a split of fragment `f`: its lanes at its target, with the class, age, chain, enable words and region of the original,
restricted to them (R84, R216). Bits of E(g) for lanes that the part does not own are dropped with that restriction, on every split; that
R97 moves "E(g)" of a group on RET is read in the same way (notes/assumptions/80.md). -/
def partOf (f : Fragment) (p : Part) : Fragment :=
  { f with pc := p.pc, m := p.m, e := masksAnd f.e p.m, line := if p.stays then f.line else none, wait := .ready,
           region := { f.region with buf := partBuffer p.m f.region.buf, ckE := masksAnd f.region.ckE p.m,
                                     pend := f.region.pend.mapIdx fun g b => if maskAt p.m g == 0 then 0 else b } }
/-- Insert a part by its lowest team lane. -/
def insertPart (p : Part) : List Part → List Part
  | [] => [p]
  | q :: l => if lowestTeamLane p.m < lowestTeamLane q.m then p :: q :: l else q :: insertPart p l
/-- Add one further part of a split: a new entry, and buffer entries of its own or a pinned region (R82, R84, R216). -/
def State.addPart (s : State) (tid : Nat) (f : Fragment) (p : Part) : Except DWord State :=
  match s.teamAt tid with
  | none => .ok s
  | some t =>
    let n := partOf f p
    let fits := (List.range 2).all fun h => s.bufUsed t.core h + bufCount n.region.buf h ≤ Config.bufPerHalf
    if fits then s.addFrag tid n
    else if s.detHold t then s.addFrag tid { n with region := { n.region with pinned := true } }
    else (s.sendBuffer t n).addFrag tid { n with region := { n.region with buf := [], pinned := true }, paths := n.sentPaths }
/-- Add parts in order. -/
def State.addParts (s : State) (tid : Nat) (f : Fragment) : List Part → Except DWord State
  | [] => .ok s
  | p :: l =>
    match s.addPart tid f p with
    | .error va => .error va
    | .ok s => State.addParts s tid f l
/-- Split a fragment into parts, one per target (R84): the part with the lowest lane keeps the entry. A single part moves the
whole fragment. The address to wait for when a spill meets a migrating page (R246). -/
def State.split (s : State) (tid : Nat) (f : Fragment) (parts : List Part) : Except DWord State :=
  match parts.foldr insertPart [] with
  | [] => .ok s
  | p :: rest => (s.onTeam tid fun t => t.putFrag (partOf f p)).addParts tid f rest

end Sys2Proof.Machine
end

