-- ==== Sys2Proof/Machine/Control.lean ====
section
/-! DEFINITION. Control flow, frames, exits, roles, barriers, enable masks (R84 to R101), safe points, traps and their return, and the
clocks and identities of R231 and R232. -/

namespace Sys2Proof.Machine
open Sys2Proof

/-! ### Transfers (R25, R84, R96, R97) -/

/-- Continue when every target may be taken, else trap at the transferring instruction, or wait on MIG (R25, R96, R246). -/
def State.withTargets (s : State) (w : Who) (ts : List DWord) (k : State → Result) : Result :=
  match ts.findSome? fun pc => match s.checkTarget w.team.ctx pc with | .good => none | c => some c with
  | none => k s
  | some .good => k s
  | some (.trap cause info) => .trap cause info
  | some (.mig va) => .wait (s.onFrag w fun f => { f with wait := .mig va })
/-- A result that may have to wait for a migrating page of the spill area (R82, R246): the instruction has no effect yet. -/
def State.orMig (s : State) (w : Who) (r : Except DWord State) (k : State → Result) : Result :=
  match r with
  | .ok t => k t
  | .error va => .wait (s.onFrag w fun f => { f with wait := .mig va })
/-- Move the whole issuer (R97). -/
def State.goTo (s : State) (w : Who) (pc : DWord) : State := s.onFrag w fun f => f.moveTo pc

/-- NOP. -/
def execNop (s : State) : Host.Outcome State Fault Refusal := execOn .both false (fun _ => true) (fun _ s => .ok s) s
/-- BRA. -/
def execBra (t : Target) (s : State) : Host.Outcome State Fault Refusal :=
  execOn .both false (fun _ => true) (fun w s =>
    s.withTargets w [w.target t] fun s => .jump (s.goTo w (w.target t))) s
/-- The taking lanes of a BRC (R97). -/
def Who.brcTake (w : Who) (neg : Bool) (a : SReg) (msk : MaskField) : List Mask :=
  w.frag.m.mapIdx fun g _ => w.eff msk g &&& (if neg then ~~~(w.s g a.toNat) else w.s g a.toNat)
/-- The effective masks of every group. -/
def Who.effAll (w : Who) (msk : MaskField) : List Mask := w.frag.m.mapIdx fun g _ => w.eff msk g
/-- BRC.T and BRC.F. -/
def execBrc (neg : Bool) (a : SReg) (t : Target) (msk : MaskField) (s : State) : Host.Outcome State Fault Refusal :=
  execOn .both false (fun _ => true) (fun w s =>
    let take := w.brcTake neg a msk
    if masksNone take then .ok s
    else s.withTargets w [w.target t] fun s =>
      if take == w.effAll msk then .jump (s.goTo w (w.target t))
      else s.orMig w (s.split w.team.id w.frag [⟨w.target t, false, take⟩,
        ⟨w.iss.next, sameLine w.iss.next w.iss.line, masksDiff w.frag.m take⟩]) .jump) s
/-- The distinct values of a list, in order. -/
def distinct (l : List DWord) : List DWord := l.foldl (fun k x => if k.contains x then k else k ++ [x]) []
/-- The active lanes with their BRX targets, in team lane order (R97). -/
def Who.brxLanes (w : Who) (a : VReg11) (msk : MaskField) : List (Nat × Nat × DWord) :=
  w.present.flatMap fun g => (maskLanes (w.eff msk g)).map fun i =>
    (g, i, (w.v g (a.toNat + 1)).lane i ++ (w.v g a.toNat).lane i)
/-- The part of a BRX that goes to `pc`. -/
def brxPart (m : List Mask) (l : List (Nat × Nat × DWord)) (pc : DWord) : List Mask :=
  l.foldl (fun m x => if x.2.2 == pc then m.set x.1 (maskAt m x.1 ||| laneBit x.2.1) else m) (m.map fun _ => 0)
/-- BRX: it splits only where the active lanes do not all move to one target; lanes owned and not active go with the part of the
lowest active lane (R84). -/
def execBrx (a : VReg11) (msk : MaskField) (s : State) : Host.Outcome State Fault Refusal :=
  execOn .execOnly false (fun w => evenPair true a && (w.brxLanes a msk).all fun x => pcValid x.2.2) (fun w s =>
    let l := w.brxLanes a msk
    match distinct (l.map fun x => x.2.2) with
    | [] => .ok s
    | p :: ts =>
      s.withTargets w (p :: ts) fun s =>
        if ts.isEmpty then .jump (s.goTo w p)
        else
        let others := ts.map fun pc => (⟨pc, false, brxPart w.frag.m l pc⟩ : Part)
        let first := others.foldl (fun m x => masksDiff m x.m) w.frag.m
        s.orMig w (s.split w.team.id w.frag (⟨p, false, first⟩ :: others)) .jump) s
/-- CALL. -/
def execCall (d : SReg) (t : Target) (s : State) : Host.Outcome State Fault Refusal :=
  execOn .both false (fun _ => true) (fun w s =>
    s.withTargets w [w.target t] fun s =>
      .jump ((s.setAllS w d.toNat fun _ => w.iss.next).goTo w (w.target t))) s
/-- The present groups with an executing lane, with their RET targets (R97). -/
def Who.retGroups (w : Who) (a : SReg) : List (Nat × DWord) :=
  (w.present.filter fun g => w.exec g != 0).map fun g => (g, w.s g a.toNat)
/-- The masks of the groups that a RET sends to `pc`. -/
def retPart (m : List Mask) (l : List (Nat × DWord)) (pc : DWord) : List Mask :=
  m.mapIdx fun g x => if l.any fun e => e.1 == g && e.2 == pc then x else 0
/-- RET: by group; a group with no executing lane joins the part of the lowest active lane (R84). -/
def execRet (a : SReg) (s : State) : Host.Outcome State Fault Refusal :=
  execOn .both false (fun w => (w.retGroups a).all fun x => pcValid x.2) (fun w s =>
    let l := w.retGroups a
    match distinct (l.map fun x => x.2) with
    | [] => .ok s
    | p :: ts =>
      s.withTargets w (p :: ts) fun s =>
        if ts.isEmpty then .jump (s.goTo w p)
        else
          let others := ts.map fun pc => (⟨pc, false, retPart w.frag.m l pc⟩ : Part)
          let first := others.foldl (fun m x => masksDiff m x.m) w.frag.m
          s.orMig w (s.split w.team.id w.frag (⟨p, false, first⟩ :: others)) .jump) s

/-! ### Frames, exits, roles (R88, R98, R99) -/

/-- The number of a new frame: the spec does not say which, the model takes the lowest not in use (notes/assumptions/75.md). -/
def Team.newFrame (t : Team) : Nat := ((List.range Config.maxFrames).find? fun n => (t.frameAt n).isNone).getD 0
/-- Open a frame on the issuing fragment's chain (R98). The fragment stands at the next slot, with its new link, before an entry is taken:
it may be the one that is spilled (R82). -/
def State.openFrame (s : State) (w : Who) (pc : DWord) : Except DWord State :=
  let n := w.team.newFrame
  let F : Frame := { num := n, entry := none, pc := pc, x := w.frag.m, en := w.frag.e, cls := w.frag.cls, link := w.frag.link }
  (s.onFrag w fun f => { f.stepTo w.iss with link := some n }).addFrame w.team.id w.frag.id F
/-- JOIN; a 513th frame is the frame-overflow trap (R81). -/
def execJoin (t : Target) (s : State) : Host.Outcome State Fault Refusal :=
  execOn .execOnly true (fun _ => true) (fun w s =>
    s.withTargets w [w.target t] fun s =>
      if Config.maxFrames ≤ w.team.frames.length then .trap 0x04 0
      else s.orMig w (s.openFrame w (w.target t)) .jump) s
/-- EXIT; an access thread ends when its lane exits (R99, R197). -/
def execExit (msk : MaskField) (s : State) : Host.Outcome State Fault Refusal :=
  execOn .both true (fun _ => true) (fun w s =>
    match w.thr with
    | some x =>
      if masksNone (w.effAll msk) then .ok s
      else .ok (s.onTeam w.team.id fun t => match t.threadAt x.group with
        | none => t
        | some y => t.putThread { y with running := false })
    | none => if masksNone (w.effAll msk) then .ok s else .ok (s.exitLanes w.team.id w.frag.id (w.effAll msk))) s

/-- Move group `g` of the issuing fragment into a fragment of its own (R88): the issuing fragment goes on at the next slot without it. -/
def State.moveRole (s : State) (w : Who) (g : Nat) (pc : DWord) (cls : Nat) : Except DWord State :=
  let only := w.frag.m.mapIdx fun h x => if h == g then x else 0
  let en := w.frag.e
  let fresh (f : Fragment) : Fragment :=
    { f with pc := pc, m := only, e := en, cls := cls, age := 0, link := none, line := none, wait := .ready, region := { Region.fresh pc en f.region.since with pend := f.region.pend.mapIdx fun h b => if h == g then b else 0 } }
  let r := if w.present == [g] then .ok (s.onFrag w fresh)
    else (s.onFrag w fun f => { f.stepTo w.iss with
        m := masksDiff f.m only, region := { f.region with pend := f.region.pend.set g 0 } }).addFrag w.team.id
          { fresh w.frag with mode := .normal }
  r.map fun s => s.leaveFrames w.team.id only
/-- ROLE. -/
def execRole (r : RoleArgs) (s : State) : Host.Outcome State Fault Refusal :=
  let g := r.grp.toNat
  execOn .execOnly true (fun w => w.present.contains g && g < w.team.kernel.groups) (fun w s =>
    s.withTargets w [w.target r.t] fun s =>
      let old := (w.team.group g).genmax
      let new := if r.keep then old else 16 * r.gen.toNat
      let only := { w with frag := { w.frag with m := w.frag.m.mapIdx fun h x => if h == g then x else 0 } }
      if s.losing w.team g new then .wait s
      else if old < new && !s.growNow only new then .ok (s.setS w g r.d.toNat 0)
      else
        let t := s.closeBelow w.team.id g new
        let t := if old < new then t.growSlabs w.team.id [g] new else t.shrinkSlabs w.team.id [g] new
        let t := t.setS w g r.d.toNat 1
        s.orMig w (t.moveRole w g (w.target r.t) r.cls.toNat) .jump) s

/-! ### Barriers (R89 to R92) -/

/-- Earlier loads, ATOMs and stores of the issuer, and stores of others that it carries along, have still to perform: an arrival is a
release at TEAM scope of every colour (R92, R252). -/
def State.accessesOut (s : State) (w : Who) : Bool :=
  !((s.orderDeps w.team.id w.thrId w.frag.m [] (some (0xFF, 2)) false).all fun i =>
    (s.opAt i).all fun o => (!o.kind.reads && o.kind.storeCol.isNone) || o.performed 2)
/-- Barrier slot `b`. -/
def Team.bar (t : Team) (b : Nat) : Barrier := t.bars.getD b { phase := 0, count := 0, expect := 0 }
/-- One arrival (R90). -/
def Team.arriveBar (t : Team) (b cnt : Nat) : Team :=
  let x := t.bar b
  let x := if x.count == 0 then { x with expect := cnt } else x
  { t with bars := t.bars.set b (t.settleBarrier { x with count := x.count + 1 }) }
/-- The arrivals of the groups that arrive, with the token of each (R90). -/
def State.arriveAll (s : State) (w : Who) (d : SReg) (b cnt : Nat) : State × List DWord :=
  (w.present.filter fun g => w.exec g != 0).foldl (fun (acc : State × List DWord) g =>
    match acc.1.teamAt w.team.id with
    | none => acc
    | some t =>
      let tok : DWord := (t.bar b).phase.setWidth 64
      ((acc.1.setS w g d.toNat tok).onTeam w.team.id fun t => t.arriveBar b cnt, acc.2 ++ [tok])) (s, [])
/-- PHASE differs from every token (R91). The spec compares s[A] with the 32-bit PHASE and does not say with which of its bits: the model
compares all 64, PHASE extended with zeros (notes/assumptions/79.md). -/
def Team.barDone (t : Team) (b : Nat) (tokens : List DWord) : Bool :=
  tokens.all fun k => (t.bar b).phase.setWidth 64 != k
/-- The issuer waits at a barrier slot until its phase differs from the tokens (R91). -/
def State.waitBar (s : State) (w : Who) (b : Nat) (tokens : List DWord) : State :=
  match s.teamAt w.team.id with
  | none => s
  | some t => if t.barDone b tokens then s else s.onFrag w fun f => { f with wait := .barrier b tokens }
/-- BARA. -/
def execBara (d : SReg) (b : BitVec 4) (count : BitVec 11) (s : State) : Host.Outcome State Fault Refusal :=
  execOn .execOnly true (fun w => b.toNat < w.team.kernel.nb) (fun w s =>
    let s := s.flushCore w.team.core
    if s.accessesOut w then .wait s else .ok (s.arriveAll w d b.toNat count.toNat).1) s
/-- BARW. -/
def execBarw (a : SReg) (b : BitVec 4) (s : State) : Host.Outcome State Fault Refusal :=
  execOn .execOnly false (fun w => b.toNat < w.team.kernel.nb) (fun w s =>
    .ok (s.waitBar w b.toNat ((w.present.filter fun g => w.exec g != 0).map fun g => w.s g a.toNat))) s
/-- BARS. -/
def execBars (d : SReg) (b : BitVec 4) (count : BitVec 11) (s : State) : Host.Outcome State Fault Refusal :=
  execOn .execOnly true (fun w => b.toNat < w.team.kernel.nb) (fun w s =>
    let s := s.flushCore w.team.core
    if s.accessesOut w then .wait s
    else
      let r := s.arriveAll w d b.toNat count.toNat
      .ok (r.1.waitBar w b.toNat r.2)) s

/-! ### Enable words (R100) -/

/-- Replace E(g) of every present group. -/
def State.setEn (s : State) (w : Who) (f : Nat → Mask → Mask) : State :=
  s.onFrag w fun x => { x with e := x.e.mapIdx fun g e => if w.present.contains g then f g e else e }
/-- EMSET. -/
def execEmset (a : SReg) (s : State) : Host.Outcome State Fault Refusal :=
  execPlain (fun w s => .ok (s.setEn w fun g _ => w.s g a.toNat)) s
/-- EMAND. -/
def execEmand (a : SReg) (s : State) : Host.Outcome State Fault Refusal :=
  execPlain (fun w s => .ok (s.setEn w fun g e => e &&& w.s g a.toNat)) s
/-- EMGET.EX, EMGET.OWN and EMGET.EN. -/
def execEmget (k : EmKind) (d : SReg) (s : State) : Host.Outcome State Fault Refusal :=
  execPlain (fun w s => gformW w d.toNat (fun g => match k with
    | .ex => w.exec g
    | .own => maskAt w.frag.m g
    | .en => maskAt w.frag.e g) s) s

/-! ### Safe points, traps and returns (R217, R225, R229, R231) -/

/-- Commit at an RGN or YIELD (R217). -/
def State.commitHere (s : State) (w : Who) : State :=
  if w.regioned then s.commitAt w.team.id w.frag.id w.iss.next else s
/-- RGN. -/
def execRgn (s : State) : Host.Outcome State Fault Refusal :=
  execPlain (fun w s => .safe (s.commitHere w) w.team.kernel.watchdog) s
/-- YIELD. -/
def execYield (deadline : BitVec 16) (s : State) : Host.Outcome State Fault Refusal :=
  execPlain (fun w s => .safe (s.commitHere w)
    (if deadline == 0 then w.team.kernel.watchdog else 256 * deadline.toNat)) s
/-- TRAP. -/
def execTrap (code : BitVec 8) (s : State) : Host.Outcome State Fault Refusal :=
  execPlain (fun _ _ => .soft 0x40 (code.setWidth 64)) s
/-- The fragment runs its trap handler. -/
def Who.inHandler (w : Who) : Bool :=
  match w.frag.mode with
  | .handler .. => true
  | _ => false
/-- RPC of a handler, 0 outside one. -/
def Fragment.rpc (f : Fragment) : DWord :=
  match f.mode with
  | .handler _ _ _ rpc _ _ => rpc
  | _ => 0
/-- ERET.T. -/
def execEretT (a : SReg) (s : State) : Host.Outcome State Fault Refusal :=
  execOn .execOnly false Who.inHandler (fun w s =>
    if a == 0 then .jump (s.onFrag w fun f => f.leaveTrap w.frag.rpc)
    else
      let pc := w.s w.lowest a.toNat
      s.withTargets w [pc] fun s => .jump (s.onFrag w fun f => f.leaveTrap pc)) s
/-- ERET.SAVE: the fragment is saved (R222). The image keeps the old s254 and s255, which the save of the team puts back. -/
def execEretSave (s : State) : Host.Outcome State Fault Refusal :=
  execOn .execOnly false (fun w => match w.frag.mode with | .save .. => true | _ => false) (fun w s =>
    match w.frag.mode with
    | .save pc restore cls limit olds late =>
      .jump (s.onFrag w fun f => { f with
        pc := pc, line := none, cls := cls, limit := limit, wdog := 0, mode := .parked (some restore) olds late,
        region := Region.fresh pc f.e f.region.since })
    | _ => .ok s) s
/-- A register with the lanes `m` of another; the other whole where the mixture could not be stored (R123). -/
def VReg.withLanes (m : Mask) (wide : Bool) (old new : VReg) : VReg :=
  if !wide || laneList.all fun i => m.getLsbD i || old.lane i == new.lane i then new
  else VReg.ofLanes fun i => if m.getLsbD i then new.lane i else old.lane i
/-- Reload a register of a group that the fragment holds lanes of from the image, in those lanes (R296, R336). -/
def State.reloadLate (s : State) (w : Who) (r : RegRef) : State :=
  match r with
  | .v g k =>
    if maskAt w.frag.m g == 0 then s
    else s.onGroup w.team.id g fun x =>
      x.vput k (VReg.withLanes (maskAt w.frag.m g) (k < x.genmax) (x.vget k) ((x.reload (s.readBlock w.team g)).vget k))
  | .s g k =>
    if maskAt w.frag.m g == 0 then s
    else s.onGroup w.team.id g fun x => x.sput k ((x.reload (s.readBlock w.team g)).sget k)
  | _ => s
/-- ERET.RST: what the hardware reloads replaces the routine's writes to completion pairs (R296), s254 and s255 are reloaded and the fragment resumes at the safe point (R223). -/
def execEretRst (s : State) : Host.Outcome State Fault Refusal :=
  execOn .execOnly false (fun w => match w.frag.mode with | .restore .. => true | _ => false) (fun w s =>
    match w.frag.mode with
    | .restore pc cls limit olds late =>
      let s := late.foldl (fun s r => s.reloadLate w r) s
      let s := olds.foldl (fun s o => (s.setS w o.1 254 o.2.1).setS w o.1 255 o.2.2) s
      .jump (s.onFrag w fun f => { f with
        pc := pc, line := none, cls := cls, limit := limit, wdog := 0, mode := .normal, region := Region.fresh pc f.e f.region.since })
    | _ => .ok s) s

/-! ### Clocks and identities (R227, R231, R232) -/

/-- Write s[D] of every present group with a value that reads as 0 in deterministic mode and sets DETREAD there (R227). -/
def State.writeDet (s : State) (w : Who) (d : SReg) (v : DWord) : Result :=
  if w.determ then .ok ((s.setAllS w d.toNat fun _ => 0).onTeam w.team.id fun t => { t with detRead := true })
  else .ok (s.setAllS w d.toNat fun _ => v)
/-- CLKRD. -/
def execClkrd (d : SReg) (k : BitVec 16) (s : State) : Host.Outcome State Fault Refusal :=
  execOn .execOnly false (fun _ => k.toNat ≤ 2) (fun w s =>
    s.writeDet w d (match k.toNat with
      | 0 => BitVec.ofNat 64 s.cc
      | 1 => BitVec.ofNat 64 s.ns
      | _ => BitVec.ofNat 64 w.frag.retired)) s
/-- The selectors of R232. -/
def idrdOk (k : Nat) : Bool := k ≤ 9 || (0x10 ≤ k && k ≤ 0x14)
/-- The item of IDRD for group `g` (R232). -/
def Who.identity (w : Who) (k g : Nat) : DWord :=
  let t := w.team
  match k with
  | 0x00 => BitVec.ofNat 64 g
  | 0x01 => BitVec.ofNat 64 t.number
  | 0x02 => BitVec.ofNat 64 t.cluster
  | 0x03 => BitVec.ofNat 64 t.unitX
  | 0x04 => BitVec.ofNat 64 t.unitY
  | 0x05 => BitVec.ofNat 64 t.unitZ
  | 0x06 => BitVec.ofNat 64 t.core
  | 0x07 => BitVec.ofNat 64 (t.core / 48)
  | 0x08 => Config.pkg.setWidth 64
  | 0x09 => BitVec.ofNat 64 t.ctx
  | 0x10 => (match w.frag.mode with | .handler p _ _ _ _ _ => p | _ => 0)
  | 0x11 => (match w.frag.mode with | .handler _ c _ _ _ _ => BitVec.ofNat 64 c | _ => 0)
  | 0x12 => (match w.frag.mode with | .handler _ _ i _ _ _ => i | _ => 0)
  | 0x13 => w.frag.rpc
  | _ => if t.detRead then 1 else 0
/-- IDRD. -/
def execIdrd (d : SReg) (k : BitVec 16) (s : State) : Host.Outcome State Fault Refusal :=
  execOn .execOnly false (fun _ => idrdOk k.toNat) (fun w s =>
    if k == 6 || k == 7 then s.writeDet w d (w.identity k.toNat 0)
    else gformW w d.toNat (fun g => w.identity k.toNat g) s) s

end Sys2Proof.Machine
end

