-- ==== Sys2Proof/Machine/IntAlu.lean ====
section
/-! DEFINITION. Integer, logic, shift, bit-field, compare, select and address instructions (R140 to R152). A TY value that a row
excludes breaks an operand limit (R140). -/

namespace Sys2Proof.Machine
open Sys2Proof

/-! ### Shared forms -/

/-- TY 0x0 to 0x7 (R146). -/
def intTyOk (t : IntTy) : Bool := t != .i4 && t != .n4 && t != .b128
/-- TY 0x0 to 0x3 (R146). -/
def wordTyOk (t : IntTy) : Bool := t == .i32 || t == .n32 || t == .i64 || t == .n64
/-- The pattern that a result takes in its destination: 64 bits in a G form or a pair, else 32 (R141). -/
def outBits (g : Bool) (t : IntTy) (v : Int) : Nat := intBits (if g || ty64 t then 64 else 32) v
/-- The lane function of a one-source form. -/
def int1Body (g : Bool) (ty dty : IntTy) (d a : Nat) (msk : MaskField) (f : Nat → Int × FBits) (w : Who) (s : State) : Result :=
  let out (r : Int × FBits) : Nat × FBits := (outBits g dty r.1, r.2)
  if g then gform w d (fun gr => out (f (w.s gr a).toNat)) s
  else vecLanes w msk (ty64 dty) d (fun gr => w.srcTags gr (ty64 ty) a) (fun gr i => out (f (w.laneNat gr (ty64 ty) a i))) s
/-- The lane function of a two-source form; `bw` is the type of B. -/
def int2Body (g : Bool) (ty bty : IntTy) (d a b : Nat) (msk : MaskField) (f : Nat → Nat → Int × FBits) (w : Who) (s : State) :
    Result :=
  let out (r : Int × FBits) : Nat × FBits := (outBits g ty r.1, r.2)
  if g then gform w d (fun gr => out (f (w.s gr a).toNat (w.s gr b).toNat)) s
  else vecLanes w msk (ty64 ty) d (fun gr => w.srcTags gr (ty64 ty) a ++ w.srcTags gr (ty64 bty) b)
    (fun gr i => out (f (w.laneNat gr (ty64 ty) a i) (w.laneNat gr (ty64 bty) b i))) s
/-- The registers of a two-source form name pairs where its type is 64-bit (R64). -/
def int2RegsOk (m : Int2) : Bool :=
  let w := ty64 m.ty
  pairOk m.g w m.d && pairOk m.g w m.a && pairOk m.g w m.b
/-- The same of a form whose B is one register. -/
def shiftRegsOk (m : Int2) : Bool := pairOk m.g (ty64 m.ty) m.d && pairOk m.g (ty64 m.ty) m.a
/-- The same of a one-source form. -/
def int1RegsOk (m : Int1) : Bool := pairOk m.g (ty64 m.ty) m.d && pairOk m.g (ty64 m.ty) m.a
/-- A two-source form of exact arithmetic (R147). -/
def int2Arith (m : Int2) (f : Int → Int → Int × FBits) (w : Who) (s : State) : Result :=
  int2Body m.g m.ty m.ty m.d.toNat m.a.toNat m.b.toNat m.msk (fun a b => f (tyRead m.ty a) (tyRead m.ty b)) w s
/-- A form of two patterns, whose result is read back as the type (R141, R148). -/
def int2Pattern (m : Int2) (f : Nat → Nat → Nat) (w : Who) (s : State) : Result :=
  let n := tyWidth m.ty
  int2Body m.g m.ty m.ty m.d.toNat m.a.toNat m.b.toNat m.msk
    (fun a b => (tyRead m.ty (f (a % 2 ^ n) (b % 2 ^ n)), 0)) w s
/-- A shift: the amount is 32 bits of B modulo the width (R148). -/
def int2Shift (m : Int2) (f : Nat → Nat → Nat) (w : Who) (s : State) : Result :=
  let n := tyWidth m.ty
  int2Body m.g m.ty .n32 m.d.toNat m.a.toNat m.b.toNat m.msk
    (fun a b => (tyRead m.ty (f (a % 2 ^ n) (b % 2 ^ 32 % n)), 0)) w s
/-- The rules of R121 that keep strides hold: a vector form of 32 bits without SAT (R142). -/
def keepsShape (g : Bool) (ty : IntTy) (sat : Bool) : Bool := !g && (ty == .i32 || ty == .n32) && !sat

/-! ### Arithmetic (R147) -/

/-- IADD. -/
def execIadd (m : Int2) (s : State) : Host.Outcome State Fault Refusal :=
  execG m.g (fun _ => intTyOk m.ty && int2RegsOk m) (fun w s =>
    if keepsShape m.g m.ty m.sat then
      vecOne w m.msk m.d.toNat (fun g => addShape (fun x y => x + y) (w.v g m.a.toNat) (w.v g m.b.toNat)) (fun _ _ => 0) s
    else int2Arith m (fun a b => tyFit m.ty m.sat (a + b)) w s) s
/-- ISUB. -/
def execIsub (m : Int2) (s : State) : Host.Outcome State Fault Refusal :=
  execG m.g (fun _ => intTyOk m.ty && int2RegsOk m) (fun w s =>
    if keepsShape m.g m.ty m.sat then
      vecOne w m.msk m.d.toNat (fun g => addShape (fun x y => x - y) (w.v g m.a.toNat) (w.v g m.b.toNat)) (fun _ _ => 0) s
    else int2Arith m (fun a b => tyFit m.ty m.sat (a - b)) w s) s
/-- IMUL. -/
def execImul (m : Int2) (s : State) : Host.Outcome State Fault Refusal :=
  execG m.g (fun _ => intTyOk m.ty && int2RegsOk m) (fun w s =>
    if keepsShape m.g m.ty m.sat then
      vecOne w m.msk m.d.toNat (fun g => mulShape (w.v g m.a.toNat) (w.v g m.b.toNat)) (fun _ _ => 0) s
    else int2Arith m (fun a b => tyFit m.ty m.sat (a * b)) w s) s
/-- IMULH. -/
def execImulh (m : Int2) (s : State) : Host.Outcome State Fault Refusal :=
  execG m.g (fun _ => wordTyOk m.ty && int2RegsOk m) (fun w s =>
    int2Arith m (fun a b => (tyWrap m.ty ((a * b) / (2 ^ tyWidth m.ty : Nat)), 0)) w s) s
/-- IMAD: the fused rule of R121 is the scale rule of A × B, then the add rule with C. -/
def execImad (m : Int3) (s : State) : Host.Outcome State Fault Refusal :=
  let w64 := ty64 m.ty
  execG m.g (fun _ => intTyOk m.ty && pairOk m.g w64 m.d && pairOk m.g w64 m.a && pairOk m.g w64 m.b && pairOk m.g w64 m.c)
    (fun w s =>
      let f (a b c : Nat) : Nat × FBits :=
        let r := tyFit m.ty m.sat (tyRead m.ty a * tyRead m.ty b + tyRead m.ty c)
        (outBits m.g m.ty r.1, r.2)
      if keepsShape m.g m.ty m.sat then
        vecOne w m.msk m.d.toNat (fun g =>
          addShape (fun x y => x + y) (mulShape (w.v g m.a.toNat) (w.v g m.b.toNat)) (w.v g m.c.toNat)) (fun _ _ => 0) s
      else if m.g then
        gform w m.d.toNat (fun g => f (w.s g m.a.toNat).toNat (w.s g m.b.toNat).toNat (w.s g m.c.toNat).toNat) s
      else
        vecLanes w m.msk w64 m.d.toNat
          (fun g => w.srcTags g w64 m.a.toNat ++ w.srcTags g w64 m.b.toNat ++ w.srcTags g w64 m.c.toNat)
          (fun g i => f (w.laneNat g w64 m.a.toNat i) (w.laneNat g w64 m.b.toNat i) (w.laneNat g w64 m.c.toNat i)) s) s
/-- IMIN. -/
def execImin (m : Int2) (s : State) : Host.Outcome State Fault Refusal :=
  execG m.g (fun _ => intTyOk m.ty && int2RegsOk m) (fun w s => int2Arith m (fun a b => (min a b, 0)) w s) s
/-- IMAX. -/
def execImax (m : Int2) (s : State) : Host.Outcome State Fault Refusal :=
  execG m.g (fun _ => intTyOk m.ty && int2RegsOk m) (fun w s => int2Arith m (fun a b => (max a b, 0)) w s) s
/-- IABS. -/
def execIabs (m : Int1) (s : State) : Host.Outcome State Fault Refusal :=
  execG m.g (fun _ => intTyOk m.ty && tySigned m.ty && int1RegsOk m) (fun w s =>
    int1Body m.g m.ty m.ty m.d.toNat m.a.toNat m.msk (fun a => tyFit m.ty m.sat (tyRead m.ty a).natAbs) w s) s

/-! ### Logic, shifts and bit fields (R148) -/

/-- AND. -/
def execIand (m : Int2) (s : State) : Host.Outcome State Fault Refusal :=
  execG m.g (fun _ => wordTyOk m.ty && int2RegsOk m) (fun w s => int2Pattern m (fun a b => a &&& b) w s) s
/-- OR. -/
def execIor (m : Int2) (s : State) : Host.Outcome State Fault Refusal :=
  execG m.g (fun _ => wordTyOk m.ty && int2RegsOk m) (fun w s => int2Pattern m (fun a b => a ||| b) w s) s
/-- XOR. -/
def execIxor (m : Int2) (s : State) : Host.Outcome State Fault Refusal :=
  execG m.g (fun _ => wordTyOk m.ty && int2RegsOk m) (fun w s => int2Pattern m (fun a b => a ^^^ b) w s) s
/-- NOT. -/
def execInot (m : Int1) (s : State) : Host.Outcome State Fault Refusal :=
  execG m.g (fun _ => wordTyOk m.ty && int1RegsOk m) (fun w s =>
    int1Body m.g m.ty m.ty m.d.toNat m.a.toNat m.msk
      (fun a => (tyRead m.ty (2 ^ tyWidth m.ty - 1 - a % 2 ^ tyWidth m.ty), 0)) w s) s
/-- SHL: a 32-bit form with a uniform amount follows the scale rule (R121). -/
def execShl (m : Int2) (s : State) : Host.Outcome State Fault Refusal :=
  execG m.g (fun _ => wordTyOk m.ty && shiftRegsOk m) (fun w s =>
    if keepsShape m.g m.ty false then
      vecOne w m.msk m.d.toNat (fun g => shlShape (w.v g m.a.toNat) (w.v g m.b.toNat)) (fun _ _ => 0) s
    else int2Shift m (fun a k => a * 2 ^ k) w s) s
/-- SHR. -/
def execShr (m : Int2) (s : State) : Host.Outcome State Fault Refusal :=
  execG m.g (fun _ => wordTyOk m.ty && shiftRegsOk m) (fun w s => int2Shift m (fun a k => a / 2 ^ k) w s) s
/-- SHA: floor division of the two's-complement value. -/
def execSha (m : Int2) (s : State) : Host.Outcome State Fault Refusal :=
  execG m.g (fun _ => wordTyOk m.ty && shiftRegsOk m) (fun w s =>
    int2Shift m (fun a k => intBits (tyWidth m.ty) (natSigned (tyWidth m.ty) a / (2 ^ k : Nat))) w s) s
/-- ROT. -/
def execRot (m : Int2) (s : State) : Host.Outcome State Fault Refusal :=
  execG m.g (fun _ => wordTyOk m.ty && shiftRegsOk m) (fun w s =>
    int2Shift m (fun a k => a * 2 ^ k + a / 2 ^ (tyWidth m.ty - k)) w s) s
/-- LEN and POS of R146. -/
def fieldOk (ty : IntTy) (pos : BitVec 6) (len : BitVec 7) : Bool :=
  len != 0 && pos.toNat + len.toNat ≤ tyWidth ty
/-- BFX. -/
def execBfx (m : BfxArgs) (s : State) : Host.Outcome State Fault Refusal :=
  let w64 := ty64 m.ty
  execG m.g (fun _ => wordTyOk m.ty && pairOk m.g w64 m.d && pairOk m.g w64 m.a && fieldOk m.ty m.pos m.len) (fun w s =>
    int1Body m.g m.ty m.ty m.d.toNat m.a.toNat m.msk (fun a =>
      let f := natBits a m.pos.toNat m.len.toNat
      ((if tySigned m.ty then natSigned m.len.toNat f else (f : Int)), 0)) w s) s
/-- BFI: A is the field and B the base. -/
def execBfi (m : BfiArgs) (s : State) : Host.Outcome State Fault Refusal :=
  let w64 := ty64 m.ty
  execG m.g (fun _ => wordTyOk m.ty && pairOk m.g w64 m.d && pairOk m.g w64 m.a && pairOk m.g w64 m.b &&
      fieldOk m.ty m.pos m.len) (fun w s =>
    int2Body m.g m.ty m.ty m.d.toNat m.a.toNat m.b.toNat m.msk (fun a b =>
      let n := tyWidth m.ty
      let p := m.pos.toNat
      let l := m.len.toNat
      let b := b % 2 ^ n
      (tyRead m.ty (b - natBits b p l * 2 ^ p + a % 2 ^ l * 2 ^ p), 0)) w s) s
/-- The number of one bits of a number below 2^n. -/
def popNat (v : Nat) : Nat → Nat
  | 0 => 0
  | n + 1 => v % 2 + popNat (v / 2) n
/-- The low n bits of a number, reversed. -/
def revNat (v : Nat) : Nat → Nat
  | 0 => 0
  | n + 1 => (v % 2) * 2 ^ n + revNat (v / 2) n
/-- POPC: the result is one register, written as N32 (R146). -/
def execPopc (m : Int1) (s : State) : Host.Outcome State Fault Refusal :=
  execG m.g (fun _ => wordTyOk m.ty && pairOk m.g (ty64 m.ty) m.a) (fun w s =>
    int1Body m.g m.ty .n32 m.d.toNat m.a.toNat m.msk (fun a => (popNat a (tyWidth m.ty), 0)) w s) s
/-- CLZ: likewise. -/
def execClz (m : Int1) (s : State) : Host.Outcome State Fault Refusal :=
  execG m.g (fun _ => wordTyOk m.ty && pairOk m.g (ty64 m.ty) m.a) (fun w s =>
    int1Body m.g m.ty .n32 m.d.toNat m.a.toNat m.msk
      (fun a => ((tyWidth m.ty - bitLen (a % 2 ^ tyWidth m.ty) : Nat), 0)) w s) s
/-- BREV. -/
def execBrev (m : Int1) (s : State) : Host.Outcome State Fault Refusal :=
  execG m.g (fun _ => wordTyOk m.ty && int1RegsOk m) (fun w s =>
    int1Body m.g m.ty m.ty m.d.toNat m.a.toNat m.msk (fun a => (tyRead m.ty (revNat a (tyWidth m.ty)), 0)) w s) s

/-! ### Addresses, compares and selection (R149 to R152) -/

/-- The address of LEA (R149). -/
def leaValue (m : LeaArgs) (base idx : Nat) : Nat :=
  intBits 64 (base + tyRead m.ty idx * (2 ^ m.sh.toNat : Nat) + natSigned 16 m.disp.toNat)
/-- LEA. -/
def execLea (m : LeaArgs) (s : State) : Host.Outcome State Fault Refusal :=
  let w64 := ty64 m.ty
  execG m.g (fun _ => wordTyOk m.ty && m.sh.toNat ≤ 4 && pairOk m.g true m.d && pairOk m.g true m.a && pairOk m.g w64 m.b)
    (fun w s =>
      if m.g then gform w m.d.toNat (fun g => (leaValue m (w.s g m.a.toNat).toNat (w.s g m.b.toNat).toNat, 0)) s
      else
        vecLanes w m.msk true m.d.toNat (fun g => w.srcTags g true m.a.toNat ++ w.srcTags g w64 m.b.toNat)
          (fun g i => (leaValue m (w.laneNat g true m.a.toNat i) (w.laneNat g w64 m.b.toNat i), 0)) s) s
/-- The condition of ICMP (R151). -/
def icondEval (c : ICond) (a b : Int) : Bool :=
  match c with
  | .eq => a == b
  | .ne => a != b
  | .lt => a < b
  | .le => a ≤ b
  | .gt => b < a
  | .ge => b ≤ a
/-- The mask that a compare writes to s[D] (R150). -/
def Who.cmpWord (w : Who) (mode : CmpMode) (msk : MaskField) (d : SReg) (g : Nat) (cond : Nat → Bool) : DWord :=
  let e := w.eff msk g
  let m := maskOf fun i => e.getLsbD i && cond i
  match mode with
  | .set => m
  | .keep => (w.s g d.toNat &&& ~~~e) ||| m
  | .and c => w.s g c.toNat &&& m
  | .or c => w.s g c.toNat ||| m
/-- The mask of a G form (R150). -/
def gcmpWord (c : Bool) : DWord := if c then BitVec.allOnes 64 else 0
/-- ICMP. -/
def execIcmp (m : ICmpArgs) (s : State) : Host.Outcome State Fault Refusal :=
  let w64 := ty64 m.ty
  execG m.g (fun _ => intTyOk m.ty && pairOk m.g w64 m.a && pairOk m.g w64 m.b) (fun w s =>
    let test (a b : Nat) : Bool := icondEval m.cond (tyRead m.ty a) (tyRead m.ty b)
    if m.g then gformW w m.d.toNat (fun g => gcmpWord (test (w.s g m.a.toNat).toNat (w.s g m.b.toNat).toNat)) s
    else .ok (s.setQual w m.msk m.d.toNat fun g => w.cmpWord m.mode m.msk m.d g fun i =>
      test (w.laneNat g w64 m.a.toNat i) (w.laneNat g w64 m.b.toNat i))) s
/-- SEL: its selection counts as a general source (R142). -/
def execSel (m : SelArgs) (s : State) : Host.Outcome State Fault Refusal :=
  let w64 := ty64 m.ty
  execG m.g (fun _ => wordTyOk m.ty && pairOk m.g w64 m.d && pairOk m.g w64 m.a && pairOk m.g w64 m.b) (fun w s =>
    if m.g then
      gform w m.d.toNat (fun g =>
        (outBits true m.ty (tyRead m.ty
          (if w.s g m.c.toNat != 0 then (w.s g m.a.toNat).toNat else (w.s g m.b.toNat).toNat)), 0)) s
    else
      vecLanes w m.msk w64 m.d.toNat (fun _ => [2]) (fun g i =>
        (w.laneNat g w64 (if (w.s g m.c.toNat).getLsbD i then m.a.toNat else m.b.toNat) i, 0)) s) s

end Sys2Proof.Machine
end

