-- ==== Sys2Proof/Machine/FltAlu.lean ====
section
/-! DEFINITION. Floating arithmetic, compares, special functions, conversions and packing (R153 to R164). A TY value that a row
excludes breaks an operand limit (R140). -/

namespace Sys2Proof.Machine
open Sys2Proof

/-! ### Shared forms -/

/-- TY 0x0 to 0x2 (R153). -/
def fltTyOk (t : FltTy) : Bool := t == .f32 || t == .f16 || t == .bf16
/-- A one-source form: random bits and code to code and flags (R63, R141). -/
def flt1Body (g : Bool) (rm : Round) (d a : Nat) (msk : MaskField) (f : Nat → Nat → Nat × FBits) (w : Who) (s : State) : Result :=
  if g then gform w d (fun gr => f (w.grnd gr rm) (w.s gr a).toNat) s
  else vecLanes w msk false d (fun gr => w.srcTags gr false a ++ w.rndTags gr rm)
    (fun gr i => f (w.rnd gr rm i) (w.laneNat gr false a i)) s
/-- A two-source form. -/
def flt2Body (g : Bool) (rm : Round) (d a b : Nat) (msk : MaskField) (f : Nat → Nat → Nat → Nat × FBits) (w : Who) (s : State) :
    Result :=
  if g then gform w d (fun gr => f (w.grnd gr rm) (w.s gr a).toNat (w.s gr b).toNat) s
  else vecLanes w msk false d (fun gr => w.srcTags gr false a ++ w.srcTags gr false b ++ w.rndTags gr rm)
    (fun gr i => f (w.rnd gr rm i) (w.laneNat gr false a i) (w.laneNat gr false b i)) s
/-- A sum of terms rounded once (R72, R154). -/
def flt2Sum (m : Flt2) (ts : FVal → FVal → List Term) (w : Who) (s : State) : Result :=
  flt2Body m.g m.rm m.d.toNat m.a.toNat m.b.toNat m.msk (fun rb a b =>
    (sumTerms m.rm (ts (fltDecode m.ty a) (fltDecode m.ty b))).write m.ty m.rm m.sat rb) w s
/-- A special function (R159 to R161). -/
def flt1Fn (m : Flt1) (f : FVal → FRes) (w : Who) (s : State) : Result :=
  flt1Body m.g m.rm m.d.toNat m.a.toNat m.msk (fun rb a => (f (fltDecode m.ty a)).write m.ty m.rm m.sat rb) w s

/-! ### Arithmetic (R154, R155) -/

/-- FADD. -/
def execFadd (m : Flt2) (s : State) : Host.Outcome State Fault Refusal :=
  execOn .execOnly false (fun _ => fltTyOk m.ty) (flt2Sum m fun a b => [.val a, .val b]) s
/-- FSUB: negated before R73. -/
def execFsub (m : Flt2) (s : State) : Host.Outcome State Fault Refusal :=
  execOn .execOnly false (fun _ => fltTyOk m.ty) (flt2Sum m fun a b => [.val a, .val b.neg]) s
/-- FMUL. -/
def execFmul (m : Flt2) (s : State) : Host.Outcome State Fault Refusal :=
  execOn .execOnly false (fun _ => fltTyOk m.ty) (flt2Sum m fun a b => [a.mul b]) s
/-- The two terms of FFMA (R154). -/
def fmaTerms (k : FmaKind) (a b c : FVal) : List Term :=
  match k with
  | .plain => [a.mul b, .val c]
  | .ms => [a.mul b, .val c.neg]
  | .nma => [(a.mul b).neg, .val c]
  | .nms => [(a.mul b).neg, .val c.neg]
/-- FFMA, FFMA.MS, FFMA.NMA and FFMA.NMS. -/
def execFfma (m : Flt3) (s : State) : Host.Outcome State Fault Refusal :=
  execOn .execOnly false (fun _ => fltTyOk m.ty) (fun w s =>
    let f (rb a b c : Nat) : Nat × FBits :=
      (sumTerms m.rm (fmaTerms m.kind (fltDecode m.ty a) (fltDecode m.ty b) (fltDecode m.ty c))).write m.ty m.rm m.sat rb
    if m.g then
      gform w m.d.toNat (fun g =>
        f (w.grnd g m.rm) (w.s g m.a.toNat).toNat (w.s g m.b.toNat).toNat (w.s g m.c.toNat).toNat) s
    else
      vecLanes w m.msk false m.d.toNat
        (fun g => w.srcTags g false m.a.toNat ++ w.srcTags g false m.b.toNat ++ w.srcTags g false m.c.toNat ++ w.rndTags g m.rm)
        (fun g i => f (w.rnd g m.rm i) (w.laneNat g false m.a.toNat i) (w.laneNat g false m.b.toNat i)
          (w.laneNat g false m.c.toNat i)) s) s
/-- The smaller or larger source (R155), as a code of the type. -/
def fltPick (t : FltTy) (mx : Bool) (a b : Nat) : Nat :=
  let x := fltDecode t a
  let y := fltDecode t b
  let n := 2 ^ (fmtOf t).width
  if x.isNan then (if y.isNan then fltNaN t else b % n)
  else if y.isNan then a % n
  else if (if mx then x.before y else y.before x) then b % n else a % n
/-- FMIN. -/
def execFmin (m : FMinArgs) (s : State) : Host.Outcome State Fault Refusal :=
  execOn .execOnly false (fun _ => fltTyOk m.ty)
    (flt2Body m.g .rne m.d.toNat m.a.toNat m.b.toNat m.msk fun _ a b => (fltPick m.ty false a b, 0)) s
/-- FMAX. -/
def execFmax (m : FMinArgs) (s : State) : Host.Outcome State Fault Refusal :=
  execOn .execOnly false (fun _ => fltTyOk m.ty)
    (flt2Body m.g .rne m.d.toNat m.a.toNat m.b.toNat m.msk fun _ a b => (fltPick m.ty true a b, 0)) s

/-! ### Compares and classes (R156, R157) -/

/-- FCMP. -/
def execFcmp (m : FCmpArgs) (s : State) : Host.Outcome State Fault Refusal :=
  execPlain (fun w s =>
    let test (a b : Nat) : Bool := FCond.eval m.cond (fltDecode m.ty a) (fltDecode m.ty b)
    if m.g then gformW w m.d.toNat (fun g => gcmpWord (test (w.s g m.a.toNat).toNat (w.s g m.b.toNat).toNat)) s
    else .ok (s.setQual w m.msk m.d.toNat fun g => w.cmpWord m.mode m.msk m.d g fun i =>
      test (w.laneNat g false m.a.toNat i) (w.laneNat g false m.b.toNat i))) s
/-- The class bit of a value (R157). -/
def fltClass (t : FltTy) (v : FVal) : Nat :=
  match v with
  | .nan => 2 ^ 8
  | .inf n => if n then 2 ^ 0 else 2 ^ 7
  | .fin n m _ =>
    if t == .e8m0 then 2 ^ 6
    else if m == 0 then (if n then 2 ^ 3 else 2 ^ 4)
    else if m < 2 ^ (fmtOf t).p then (if n then 2 ^ 2 else 2 ^ 5)
    else if n then 2 ^ 1 else 2 ^ 6
/-- FCLASS. -/
def execFclass (m : FClassArgs) (s : State) : Host.Outcome State Fault Refusal :=
  execPlain (flt1Body m.g .rne m.d.toNat m.a.toNat m.msk fun _ a => (fltClass m.ty (fltDecode m.ty a), 0)) s

/-! ### Rounding to integral values, scaling (R158) -/

/-- FRND of a code (R158). -/
def fltRound (t : FltTy) (rm : Round) (rb a : Nat) : Nat :=
  match fltDecode t a with
  | .nan => fltNaN t
  | .inf n => fltSign t n + fltInf t
  | .fin n m e =>
    let g := (Mag.mk m e false).onGrid 0
    if m == 0 || g.2.1 == 0 then a % 2 ^ (fmtOf t).width
    else
      let k := if roundUp rm n rb g.2.1 g.2.2 false (g.1 % 2 == 0) then g.1 + 1 else g.1
      if k == 0 then fltSign t n else (roundMag t .rne false 0 n ⟨k, 0, false⟩).1
/-- FRND. -/
def execFrnd (m : Flt1) (s : State) : Host.Outcome State Fault Refusal :=
  execOn .execOnly false (fun _ => fltTyOk m.ty)
    (flt1Body m.g m.rm m.d.toNat m.a.toNat m.msk fun rb a => (fltRound m.ty m.rm rb a, 0)) s
/-- An exponent beyond ±2,000 rounds as ±2,000 does in every format. -/
def clampExp (n : Int) : Int := if n < -2000 then -2000 else if 2000 < n then 2000 else n
/-- FSCL of a code (R158). -/
def fltScale (t : FltTy) (rm : Round) (sat : Bool) (rb a b : Nat) : Nat × FBits :=
  match fltDecode t a with
  | .nan => (fltNaN t, 0)
  | .inf n => (fltSign t n + fltInf t, 0)
  | .fin n m e =>
    if m == 0 then (fltSign t n, 0) else roundMag t rm sat rb n ⟨m, e + clampExp (natSigned 32 b), false⟩
/-- FSCL. -/
def execFscl (m : Flt2) (s : State) : Host.Outcome State Fault Refusal :=
  execOn .execOnly false (fun _ => fltTyOk m.ty)
    (flt2Body m.g m.rm m.d.toNat m.a.toNat m.b.toNat m.msk fun rb a b => fltScale m.ty m.rm m.sat rb a b) s

/-! ### Special functions (R159 to R161) -/

/-- FRCP. -/
def execFrcp (m : Flt1) (s : State) : Host.Outcome State Fault Refusal :=
  execOn .execOnly false (fun _ => fltTyOk m.ty) (flt1Fn m rcpRes) s
/-- FRSQ. -/
def execFrsq (m : Flt1) (s : State) : Host.Outcome State Fault Refusal :=
  execOn .execOnly false (fun _ => fltTyOk m.ty) (flt1Fn m rsqRes) s
/-- FSQRT. -/
def execFsqrt (m : Flt1) (s : State) : Host.Outcome State Fault Refusal :=
  execOn .execOnly false (fun _ => fltTyOk m.ty) (flt1Fn m sqrtRes) s
/-- FEXP2. -/
def execFexp2 (m : Flt1) (s : State) : Host.Outcome State Fault Refusal :=
  execOn .execOnly false (fun _ => fltTyOk m.ty) (flt1Fn m fexp2Res) s
/-- FLOG2. -/
def execFlog2 (m : Flt1) (s : State) : Host.Outcome State Fault Refusal :=
  execOn .execOnly false (fun _ => fltTyOk m.ty) (flt1Fn m flog2Res) s
/-- FTANH. -/
def execFtanh (m : Flt1) (s : State) : Host.Outcome State Fault Refusal :=
  execOn .execOnly false (fun _ => fltTyOk m.ty) (flt1Fn m ftanhRes) s

/-! ### Conversions and packing (R162 to R164) -/

/-- The pattern of a converted value in its destination (R141). -/
def numOut (g : Bool) (t : NumTy) (v : Int) : Nat :=
  match t with
  | .int k => outBits g k v
  | .flt _ => v.toNat
/-- CVT. -/
def execCvt (m : CvtArgs) (s : State) : Host.Outcome State Fault Refusal :=
  let d64 := num64 m.dty
  let s64 := num64 m.sty
  execOn .execOnly false (fun _ => pairOk m.g d64 m.d && pairOk m.g s64 m.a) (fun w s =>
    let f (rb a : Nat) : Nat × FBits :=
      let r := convert m.dty m.sty m.rm m.sat rb a
      (numOut m.g m.dty r.1, r.2)
    if m.g then gform w m.d.toNat (fun g => f (w.grnd g m.rm) (w.s g m.a.toNat).toNat) s
    else
      vecLanes w m.msk d64 m.d.toNat (fun g => w.srcTags g s64 m.a.toNat ++ w.rndTags g m.rm)
        (fun g i => f (w.rnd g m.rm i) (w.laneNat g s64 m.a.toNat i)) s) s
/-- The 32-bit type that PACKN and UNPKN convert from and to (R164). -/
def packSide (t : NumTy) : NumTy :=
  match t with
  | .int _ => .int .i32
  | .flt _ => .flt .f32
/-- PACKN. -/
def execPackn (m : PackArgs) (s : State) : Host.Outcome State Fault Refusal :=
  let n := packedCount m.ty
  let wd := numWidth m.ty
  execOn .execOnly false (fun _ => m.a.toNat + n ≤ 2048) (fun w s =>
    vecLanes w m.msk false m.d.toNat
      (fun g => (List.range n).flatMap (fun j => w.srcTags g false (m.a.toNat + j)) ++ w.rndTags g m.rm)
      (fun g i => (List.range n).foldl (fun acc j =>
        let r := convert m.ty (packSide m.ty) m.rm m.sat (w.rnd g m.rm i) (w.laneNat g false (m.a.toNat + j) i)
        (acc.1 + intBits wd r.1 * 2 ^ (wd * j), acc.2 ||| r.2)) (0, 0)) s) s
/-- UNPKN. -/
def execUnpkn (m : UnpackArgs) (s : State) : Host.Outcome State Fault Refusal :=
  let n := packedCount m.ty
  let wd := numWidth m.ty
  execOn .execOnly false (fun _ => m.d.toNat + n ≤ 2048) (fun w s =>
    vecMany w m.msk m.d.toNat n (fun g j => plainShape (w.srcTags g false m.a.toNat) fun i =>
      let e := packedElem wd j (w.laneNat g false m.a.toNat i)
      BitVec.ofNat 32 (numOut false (packSide m.ty) (convert (packSide m.ty) m.ty .rne false 0 e).1)) (fun _ _ => 0) s) s

end Sys2Proof.Machine
end

