-- ==== Sys2Proof/Machine/Tiles.lean ====
section
/-! DEFINITION. Accumulator tiles, the packed dot products, and the instructions of chapter 8 (R165 to R194). A tile instruction
reads its registers at issue and is queued on the datapath of its half (R174); it executes there in issue order, after the
operations on its tiles that R173 names. -/

namespace Sys2Proof.Machine
open Sys2Proof

/-! ### Elements (R168 to R170) -/

/-- An element with S = C = 0 and every flag clear. -/
def Elem.zero : Elem := { s := 0, c := 0, inx := false, ovf := false, nan := false, pinf := false, ninf := false }
/-- v of R168. -/
def Elem.value (e : Elem) : Int := (e.s + e.c).toInt
/-- A contribution: an exact sum (mantissa, exponent) and the special flags in their places of R194. -/
abbrev Contribution := Int × Int × Nat
/-- The special flag of a term. -/
def Term.flag : Term → Nat
  | .invalid => 4
  | .val .nan => 4
  | .val (.inf n) => if n then 16 else 8
  | .val (.fin _ _ _) => 0
/-- The contribution of a list of terms. -/
def contribOf (ts : List Term) : Contribution :=
  let x := exactSum (ts.map Term.fin)
  (x.1, x.2, ts.foldl (fun f t => f ||| t.flag) 0)
/-- floor(m × 2^e / 2^k), and whether it lost something. -/
def floorAt (m e k : Int) : Int × Bool :=
  if k ≤ e then (m * (2 ^ (e - k).toNat : Nat), false)
  else
    let d : Nat := 2 ^ (k - e).toNat
    (m / d, m % d != 0)
/-- Add an integer into (S, C) by the carry-save step of R169. -/
def Elem.add (e : Elem) (u : Int) : Elem :=
  let w := BitVec.ofInt 96 u
  { e with s := e.s ^^^ e.c ^^^ w, c := ((e.s &&& e.c) ||| (e.s &&& w) ||| (e.c &&& w)) <<< 1 }
/-- OR special flags into an element. -/
def Elem.orFlags (e : Elem) (f : Nat) : Elem :=
  { e with nan := e.nan || natBits f 2 1 == 1, pinf := e.pinf || natBits f 3 1 == 1, ninf := e.ninf || natBits f 4 1 == 1 }
/-- contribute of R169. -/
def Elem.contribute (e : Elem) (anchor : Int) (c : Contribution) : Elem :=
  let u := floorAt c.1 c.2.1 (anchor - 64)
  let e := e.orFlags c.2.2
  let e := { e with inx := e.inx || u.2, ovf := e.ovf || 2 ^ 80 ≤ u.1.natAbs }
  e.add u.1
/-- The class of an element (R170): NaN, an infinity, overflow, or finite. -/
inductive ElemClass
  | nan
  | inf (neg : Bool)
  | overflow
  | fin (v : Int)
  deriving DecidableEq, Repr
/-- R170. -/
def Elem.cls (e : Elem) : ElemClass :=
  if e.nan || (e.pinf && e.ninf) then .nan
  else if e.pinf then .inf false
  else if e.ninf then .inf true
  else if e.ovf || 2 ^ 87 ≤ e.value.natAbs then .overflow
  else .fin e.value
/-- The flags byte of R194. -/
def Elem.flags (e : Elem) : Nat :=
  e.inx.toNat + 2 * e.ovf.toNat + 4 * e.nan.toNat + 8 * e.pinf.toNat + 16 * e.ninf.toNat
/-- A finite value as an exact real (R168). -/
def elemVal (anchor v : Int) : FVal := .fin (v < 0) v.natAbs (anchor - 64)

/-! ### Tiles -/

/-- Update `n` elements from key `k` on, in one pass. -/
def elemsMap (f : Nat → Elem → Elem) : Nat → Nat → Cells Elem → Cells Elem
  | 0, _, l => l
  | n + 1, k, [] =>
    let v := f k Elem.zero
    if v = Elem.zero then elemsMap f n (k + 1) [] else (k, v) :: elemsMap f n (k + 1) []
  | n + 1, k, (j, w) :: t =>
    if j = k then
      let v := f k w
      if v = Elem.zero then elemsMap f n (k + 1) t else (k, v) :: elemsMap f n (k + 1) t
    else
      let v := f k Elem.zero
      if v = Elem.zero then elemsMap f n (k + 1) ((j, w) :: t) else (k, v) :: elemsMap f n (k + 1) ((j, w) :: t)
/-- Element (m, n). -/
def Tile.at (t : Tile) (m n : Nat) : Elem := cellGet Elem.zero t.elems (64 * m + n)
/-- Replace element (m, n). -/
def Tile.put (t : Tile) (m n : Nat) (e : Elem) : Tile := { t with elems := cellPut Elem.zero t.elems (64 * m + n) e }
/-- Update every element. -/
def Tile.map (t : Tile) (f : Nat → Nat → Elem → Elem) : Tile :=
  { t with elems := elemsMap (fun k e => f (k / 64) (k % 64) e) 4096 0 t.elems }
/-- Tile `t` of a team; a zero tile when there is none. -/
def Team.tile (t : Team) (a : Nat) : Tile := t.tiles.getD a { anchor := 0, steps := 0, err := false, elems := [] }
/-- Replace tile `a`. -/
def Team.putTile (t : Team) (a : Nat) (x : Tile) : Team := { t with tiles := t.tiles.set a x }
/-- The half whose datapath serves a tile (R172). -/
def Team.tileHalf (t : Team) (a : Nat) : Nat := if a < t.tiles0 then 0 else 1
/-- ACLR (R185). -/
def Tile.clear (anchor : Int) : Tile := { anchor := anchor, steps := 0, err := false, elems := [] }
/-- ASHIFT (R185). -/
def Tile.shift (t : Tile) (n : Int) : Tile :=
  let f (e : Elem) : Elem :=
    let r := floorAt e.value 0 n
    { e with inx := e.inx || r.2, ovf := e.ovf || 2 ^ 87 ≤ r.1.natAbs, s := BitVec.ofInt 96 r.1, c := 0 }
  { t.map (fun _ _ e => f e) with anchor := t.anchor + n }
/-- AADD (R188). -/
def Tile.addTile (d a : Tile) : Tile :=
  d.map fun m n e =>
    let x := a.at m n
    let u := floorAt x.value (a.anchor - d.anchor) 0
    let e := { e with inx := e.inx || x.inx || u.2, ovf := e.ovf || x.ovf || 2 ^ 87 ≤ x.value.natAbs || 2 ^ 87 ≤ u.1.natAbs,
                      nan := e.nan || x.nan, pinf := e.pinf || x.pinf, ninf := e.ninf || x.ninf }
    e.add u.1
/-- The product of a term and a value. -/
def Term.mul (t : Term) (v : FVal) : Term :=
  match t with
  | .invalid => .invalid
  | .val x => x.mul v
/-- SCACC (R189). -/
def Tile.scale (d a : Tile) (fa fb : FltTy) (rows cols : List Word) : Tile :=
  d.map fun m n e =>
    let x := a.at m n
    let sa := fltDecode fa (rows.getD m 0).toNat
    let sb := fltDecode fb (cols.getD n 0).toNat
    if x.cls == .nan || sa.isNan || sb.isNan then { e with nan := true }
    else
      let e' := { e with inx := e.inx || x.inx }
      match x.cls with
      | .nan => e
      | .overflow => { e with ovf := true }
      | .inf neg => e'.contribute d.anchor (contribOf [((FVal.inf neg).mul sa).mul sb])
      | .fin v => e'.contribute d.anchor (contribOf [((elemVal a.anchor v).mul sa).mul sb])
/-- ARSLVI (R191). -/
def Tile.canon (t : Tile) : Tile :=
  t.map fun _ _ e =>
    let v := e.value
    let nan := e.cls == .nan
    { e with s := BitVec.ofInt 96 v, c := 0, ovf := e.ovf || 2 ^ 87 ≤ v.natAbs, nan := e.nan || nan,
             pinf := e.pinf && !nan, ninf := e.ninf && !nan }
/-- One resolved element: its 32-bit lane and FSTAT bits (R190). -/
def resolveElem (ty : NumTy) (rm : Round) (sat : Bool) (anchor : Int) (e : Elem) : Nat × FBits :=
  let out (v : FVal) (fl : FBits) : Nat × FBits :=
    let r := v.toNum ty rm sat 0
    (numOut false ty r.1, r.2 ||| fl)
  match e.cls with
  | .nan => (match ty with | .int _ => 0 | .flt t => fltNaN t, fNV)
  | .overflow => (match ty with | .int _ => 0 | .flt t => fltNaN t, fNV ||| fOF)
  | .inf neg => out (.inf neg) 0
  | .fin v => out (elemVal anchor v) (fIf e.inx fIX)
/-- The condition of ACMP on one element (R192). -/
def compareElem (c : FCond) (anchor : Int) (e : Elem) (thr : Word) : Bool :=
  let v := match e.cls with
    | .nan => FVal.nan
    | .overflow => FVal.nan
    | .inf neg => FVal.inf neg
    | .fin v => elemVal anchor v
  FCond.eval c v (fltDecode .f32 thr.toNat)
/-- The status word of a tile (R193). -/
def Tile.status (t : Tile) : DWord :=
  let fl := t.elems.foldl (fun f e => f ||| e.2.flags) 0
  BitVec.ofNat 64 (intBits 10 t.anchor + 2 ^ 16 * fl + (if t.err then 2 ^ 24 else 0) + 2 ^ 32 * t.steps)
/-- The 25 bytes of an element (R194). -/
def Elem.bytes (e : Elem) : List Byte := natLe 12 e.s.toNat ++ natLe 12 e.c.toNat ++ [BitVec.ofNat 8 e.flags]
/-- An element from its 25 bytes; reserved bits are ignored (R194). -/
def Elem.ofBytes (b : List Byte) : Elem :=
  let f := leNat (b.drop 24)
  { s := BitVec.ofNat 96 (leNat (b.take 12)), c := BitVec.ofNat 96 (leNat ((b.drop 12).take 12)), inx := natBits f 0 1 == 1,
    ovf := natBits f 1 1 == 1, nan := natBits f 2 1 == 1, pinf := natBits f 3 1 == 1, ninf := natBits f 4 1 == 1 }
/-- A row as ASAVE writes it. -/
def Tile.rowBytes (t : Tile) (m : Nat) : List Byte := laneList.flatMap fun n => (t.at m n).bytes
/-- A row as ALOAD reads it. -/
def Tile.putRow (t : Tile) (m : Nat) (b : List Byte) : Tile :=
  laneList.foldl (fun t n => t.put m n (Elem.ofBytes ((b.drop (25 * n)).take 25))) t

/-! ### Queueing on the datapath (R173, R174) -/

/-- Tiles that a queued command reads. -/
def TileCmd.reads : TileCmd → List Nat
  | .clear _ _ => []
  | .shift d _ => [d]
  | .contrib d _ => [d]
  | .add d a => [d, a]
  | .move _ a => [a]
  | .scale d a _ _ _ _ => [d, a]
  | .resolve _ m _ => [m.a.toNat]
  | .canon d => [d]
  | .compare _ m _ => [m.a.toNat]
  | .stat _ m => (match m with | .t _ a _ => [a.toNat] | .r _ a _ _ => [a.toNat])
  | .save _ a _ _ _ _ => [a]
  | .load _ a _ _ _ _ => [a]
/-- Tiles that a queued command writes. -/
def TileCmd.writesTile : TileCmd → List Nat
  | .clear d _ => [d]
  | .shift d _ => [d]
  | .contrib d _ => [d]
  | .add d _ => [d]
  | .move d _ => [d]
  | .scale d _ _ _ _ _ => [d]
  | .canon d => [d]
  | .load _ a _ _ _ _ => [a]
  | .resolve .. => []
  | .compare .. => []
  | .stat .. => []
  | .save .. => []
/-- Tiles that an outstanding operation still has to read. -/
def OpKind.tileReads : OpKind → List Nat
  | .tile c _ => c.reads
  | .matrix m => [m.tile]
  | .engine e =>
    (match e.kind with
     | .redm _ _ _ _ (.acc c) _ => [c.toNat]
     | _ => [])
  | _ => []
/-- The earlier operations on the tiles (R173). -/
def State.tileDeps (s : State) (tid : Nat) (reads writes : List Nat) : List Nat :=
  (s.ops.filter fun o => o.team == tid &&
    (o.writes.any (fun r => match r with | .tile t => reads.contains t || writes.contains t | _ => false) ||
      o.kind.tileReads.any writes.contains)).map fun o => o.id
/-- An outstanding operation writes the tile (R173). -/
def State.tileBusy (s : State) (tid a : Nat) : Bool := s.pendingWrite tid (.tile a)
/-- Queue a command on the datapath of the half of its tile; a command that writes a tile, and ASAVE, pin the region (R175). What the
command accesses in memory as a thread's relaxed loads or stores is ordered as R251 to R253 say (R194). -/
def State.queueTile (s : State) (w : Who) (c : TileCmd) (home : Nat) (flag : Option Nat) (regs : List RegRef) : State :=
  let o := w.op s (.tile c (w.team.tileHalf home))
  let pins := !c.writesTile.isEmpty || (match c with | .save .. => true | _ => false)
  let s := if pins then s.pin w else s
  s.addOp { o with id := s.nextOp, flag := flag, writes := c.writesTile.map RegRef.tile ++ regs,
                   scope := .team, depLvl := if w.determ then 4 else 1,
                   deps := s.tileDeps w.team.id c.reads c.writesTile ++
                     (match (OpKind.tile c 0).accs with
                      | [] => []
                      | l => s.orderDeps w.team.id (w.thr.map fun x => x.group) w.frag.m l none false ++ s.detDeps w.team) }
/-- The issuing group of R184, with no effect when no group qualifies. -/
def onIssuing (msk : MaskField) (f : Nat → Who → State → Result) (w : Who) (s : State) : Result :=
  match w.qual msk with
  | [] => .ok s
  | g :: _ => f g w s
/-- The team holds the tile (R172). -/
def Who.holds (w : Who) (a : AReg) : Bool := a.toNat < w.team.kernel.accTiles
/-- NROWS and ROW of R182. -/
def rowSpanOk (row : BitVec 6) (n : BitVec 7) : Bool := row.toNat + n.toNat ≤ 64

/-! ### The instructions -/

/-- ACLR (R185). -/
def execAclr (d : AReg) (anchor : BitVec 10) (msk : MaskField) (s : State) : Host.Outcome State Fault Refusal :=
  execOn .execOnly false (fun w => w.holds d)
    (onIssuing msk fun _ w s => .ok (s.queueTile w (.clear d.toNat anchor.toInt) d.toNat none [])) s
/-- ASHIFT (R185): the range fault is precise, so it waits at issue for the writers of its tile (R173). -/
def execAshift (d : AReg) (n : BitVec 10) (msk : MaskField) (s : State) : Host.Outcome State Fault Refusal :=
  execOn .execOnly false (fun w => w.holds d)
    (onIssuing msk fun _ w s =>
      if s.tileBusy w.team.id d.toNat then .wait s
      else
        let a := (w.team.tile d.toNat).anchor + n.toInt
        if a < -512 || 511 < a then .trap 0x09 (BitVec.ofNat 64 d.toNat)
        else .ok (s.queueTile w (.shift d.toNat n.toInt) d.toNat none [])) s
/-- AADD (R188). -/
def execAadd (d a : AReg) (msk : MaskField) (s : State) : Host.Outcome State Fault Refusal :=
  execOn .execOnly false (fun w => w.holds d && w.holds a)
    (onIssuing msk fun _ w s => .ok (s.queueTile w (.add d.toNat a.toNat) d.toNat none [])) s
/-- AMOV (R188). -/
def execAmov (d a : AReg) (msk : MaskField) (s : State) : Host.Outcome State Fault Refusal :=
  execOn .execOnly false (fun w => w.holds d && w.holds a)
    (onIssuing msk fun _ w s => .ok (s.queueTile w (.move d.toNat a.toNat) d.toNat none [])) s
/-- SCACC (R189): the scales are read in all lanes at issue. -/
def execScacc (m : ScaccArgs) (s : State) : Host.Outcome State Fault Refusal :=
  execOn .execOnly false (fun w => w.holds m.d && w.holds m.a)
    (onIssuing m.msk fun g w s =>
      .ok (s.queueTile w (.scale m.d.toNat m.a.toNat m.fa m.fb (laneList.map (w.v g m.b.toNat).lane)
        (laneList.map (w.v g m.c.toNat).lane)) m.d.toNat none [])) s
/-- ARSLVI (R191). -/
def execArslvi (d : AReg) (msk : MaskField) (s : State) : Host.Outcome State Fault Refusal :=
  execOn .execOnly false (fun w => w.holds d)
    (onIssuing msk fun _ w s => .ok (s.queueTile w (.canon d.toNat) d.toNat none [])) s
/-- The registers r to r + n − 1 of a group. -/
def vRefs (g r n : Nat) : List RegRef := (List.range n).map fun k => .v g (r + k)
/-- A general write to one of the registers raises the shape fault (R123). -/
def Who.generalBad (w : Who) (g r n : Nat) : Bool :=
  (List.range n).any fun k => r + k != 0 && (w.group g).genmax ≤ r + k
/-- ARSLV (R190). -/
def execArslv (m : ArslvArgs) (s : State) : Host.Outcome State Fault Refusal :=
  let n := m.nrows.toNat
  execOn .execOnly false (fun w => w.holds m.a && rowSpanOk m.row m.nrows && m.d.toNat + n ≤ 2048)
    (onIssuing m.msk fun g w s =>
      if w.generalBad g m.d.toNat n then .trap 0x06 (BitVec.ofNat 64 g)
      else .ok (s.queueTile w (.resolve g m w.regioned) m.a.toNat none (vRefs g m.d.toNat n))) s
/-- ACMP (R192): the thresholds are read in all lanes at issue. -/
def execAcmp (m : AcmpArgs) (s : State) : Host.Outcome State Fault Refusal :=
  let n := m.nrows.toNat
  execOn .execOnly false (fun w => w.holds m.a && rowSpanOk m.row m.nrows && m.d.toNat + n ≤ 256)
    (onIssuing m.msk fun g w s =>
      .ok (s.queueTile w (.compare g m (laneList.map (w.v g m.b.toNat).lane)) m.a.toNat none
        ((List.range n).map fun k => .s g (m.d.toNat + k)))) s
/-- ASTAT.T and ASTAT.R (R193). -/
def execAstat (m : AstatArgs) (s : State) : Host.Outcome State Fault Refusal :=
  match m with
  | .t d a msk =>
    execOn .execOnly false (fun w => w.holds a)
      (onIssuing msk fun g w s => .ok (s.queueTile w (.stat g m) a.toNat none [.s g d.toNat])) s
  | .r d a _ msk =>
    execOn .execOnly false (fun w => w.holds a)
      (onIssuing msk fun g w s =>
        if w.generalBad g d.toNat 1 then .trap 0x06 (BitVec.ofNat 64 g)
        else .ok (s.queueTile w (.stat g m) a.toNat none [.v g d.toNat])) s
/-- The physical runs of the rows of ASAVE or ALOAD as they translate at issue: they order the operation with the issuer's other accesses
(R251); each row is translated and checked again when it moves (R194). -/
def State.rowRuns (s : State) (ctx : Nat) (store : Bool) (addr : DWord) (n : Nat) : List (Nat × Nat) :=
  (List.range n).flatMap fun r => (s.range ctx (if store then .store else .load) (addr.toNat + 1600 * r) 1600).known
/-- ASAVE (R194). -/
def execAsave (m : AmemArgs) (s : State) : Host.Outcome State Fault Refusal :=
  execOn .execOnly false (fun w => w.holds m.acc && rowSpanOk m.row m.nrows)
    (onIssuing m.msk fun g w s =>
      .ok (s.queueTile w (.save g m.acc.toNat (w.s g m.b.toNat) m.row.toNat m.nrows.toNat
        (s.rowRuns w.team.ctx true (w.s g m.b.toNat) m.nrows.toNat)) m.acc.toNat (w.flag m.lf) [])) s
/-- ALOAD (R194). -/
def execAload (m : AmemArgs) (s : State) : Host.Outcome State Fault Refusal :=
  execOn .execOnly false (fun w => w.holds m.acc && rowSpanOk m.row m.nrows)
    (onIssuing m.msk fun g w s =>
      .ok (s.queueTile w (.load g m.acc.toNat (w.s g m.b.toNat) m.row.toNat m.nrows.toNat
        (s.rowRuns w.team.ctx false (w.s g m.b.toNat) m.nrows.toNat)) m.acc.toNat (w.flag m.lf) [])) s
/-- AROW (R187): one contribution per active lane of every qualifying group. -/
def execArow (m : ArowArgs) (s : State) : Host.Outcome State Fault Refusal :=
  execOn .execOnly false (fun w => w.holds m.d && (w.qual m.msk).all fun g => m.row.toNat + g ≤ 63) (fun w s =>
    let items := (w.qual m.msk).flatMap fun g => (maskLanes (w.eff m.msk g)).map fun i =>
      let v := ((w.v g m.a.toNat).lane i).toNat
      let t : Term := match m.ty with
        | .flt t => .val (fltDecode t v)
        | .int t => let x := tyRead t v; .val (.fin (x < 0) x.natAbs 0)
      (m.row.toNat + g, i, contribOf [t])
    if items.isEmpty then .ok s else .ok (s.queueTile w (.contrib m.d.toNat items) m.d.toNat none [])) s

/-! ### Packed dot products (R165 to R167) -/

/-- An element of a packed operand as an exact value. -/
def packedVal (t : NumTy) (j v : Nat) : FVal :=
  let e := packedElem (numWidth t) j v
  match t with
  | .flt k => fltDecode k e
  | .int k => let x := tyRead k e; .fin (x < 0) x.natAbs 0
/-- The format of B (R165). -/
def dotB (m : DotArgs) : NumTy := if m.partner then (m.ty.partner).getD m.ty else m.ty
/-- The product terms of one lane (R166). -/
def dotTerms (m : DotArgs) (a b : Nat) : List Term :=
  (List.range (packedCount m.ty)).map fun j => (packedVal m.ty j a).mul (packedVal (dotB m) j b)
/-- The limits of R165 and R167: an element type of the opcode, the tile, the rows of the present groups. -/
def dotLimits (op : Nat) (m : DotArgs) (w : Who) : Bool :=
  (dotTys op).contains m.ty &&
    (match m.dst with
     | .vec .. => true
     | .acc d row => w.holds d && w.present.all fun g => row.toNat + g ≤ 63)
/-- One lane of a vector-destination form (R166). -/
def dotLane (m : DotArgs) (rm : Round) (sat : Bool) (rb a b c : Nat) : Nat × FBits :=
  match m.ty with
  | .flt _ => (sumTerms rm (dotTerms m a b ++ [.val (fltDecode .f32 c)])).write .f32 rm sat rb
  | .int _ =>
    let p := (exactSum ((dotTerms m a b).map Term.fin)).1
    let r := tyFit .i32 sat (p + natSigned 32 c)
    (intBits 32 r.1, r.2)
/-- The body of the packed dot products. -/
def dotBody (m : DotArgs) (w : Who) (s : State) : Result :=
  match m.dst with
  | .vec d c rm sat =>
    vecLanes w m.msk false d.toNat
      (fun g => w.srcTags g false m.a.toNat ++ w.srcTags g false m.b.toNat ++ w.srcTags g false c.toNat ++ w.rndTags g rm)
      (fun g i => dotLane m rm sat (w.rnd g rm i) (w.laneNat g false m.a.toNat i) (w.laneNat g false m.b.toNat i)
        (w.laneNat g false c.toNat i)) s
  | .acc d row =>
    let items := (w.qual m.msk).flatMap fun g => (maskLanes (w.eff m.msk g)).map fun i =>
      (row.toNat + g, i, contribOf (dotTerms m (w.laneNat g false m.a.toNat i) (w.laneNat g false m.b.toNat i)))
    if items.isEmpty then .ok s else .ok (s.queueTile w (.contrib d.toNat items) d.toNat none [])
/-- DOTQ. -/
def execDotq (m : DotArgs) (s : State) : Host.Outcome State Fault Refusal :=
  execOn .execOnly false (dotLimits 0x73 m) (dotBody m) s
/-- DOTX. -/
def execDotx (m : DotArgs) (s : State) : Host.Outcome State Fault Refusal :=
  execOn .execOnly false (dotLimits 0x74 m) (dotBody m) s
/-- DOTB. -/
def execDotb (m : DotArgs) (s : State) : Host.Outcome State Fault Refusal :=
  execOn .execOnly false (dotLimits 0x75 m) (dotBody m) s
/-- DOTH. -/
def execDoth (m : DotArgs) (s : State) : Host.Outcome State Fault Refusal :=
  execOn .execOnly false (dotLimits 0x76 m) (dotBody m) s

/-! ### The matrix array (R176 to R186) -/

/-- Matrix operations in the queue of a half of a core, issued and not ended (R180). -/
def State.matrixQueue (s : State) (core half : Nat) : List Op :=
  s.ops.filter fun o => o.core == core && (match o.kind with | .matrix m => !m.ended && m.halves.contains half | _ => false)
/-- The halves that a form runs on (R176). -/
def Who.matrixHalves (w : Who) (m32 : Option Bool) : List Nat :=
  match m32 with
  | none => [0, 1]
  | some rowh => if w.team.kernel.mhalves == 2 then [rowh.toNat] else w.team.halves.take 1
/-- The operand limits of MMA and MMLOOP (R176, R178, R182). -/
def mmaLimits (m : MmaArgs) (count inc : Nat) (w : Who) : Bool :=
  w.holds m.d && m.a.toNat % 2 == 0 && m.a.toNat + (count - 1) * inc + 1 ≤ 2047 &&
    (w.team.kernel.mhalves == 2 || (w.team.kernel.mhalves == 1 && m.m32.isSome)) &&
    (match w.qual m.msk with
     | [] => true
     | g :: _ => g / 4 * 4 + 3 < w.team.kernel.groups)
/-- Issue a matrix operation (R180, R186): it stalls while a queue of its halves is full. -/
def mmaBody (m : MmaArgs) (count inc : Nat) (w : Who) (s : State) : Result :=
  onIssuing m.msk (fun g w s =>
    let hs := w.matrixHalves m.m32
    if hs.any fun h => 5 ≤ (s.matrixQueue w.team.core h).length then .wait s
    else
      let s := s.pin w
      let x : MatrixOp := { group := g, tile := m.d.toNat, base := m.a.toNat, queue := m.b.toNat, count := count, inc := inc,
                            rowh := m.m32.map Bool.toNat, halves := hs, ty := m.ty, partner := m.partner, done := 0,
                            ended := false }
      .ok (s.addOp { w.op s (.matrix x) with
        flag := w.flag m.lf, writes := [.tile m.d.toNat], deps := s.tileDeps w.team.id [m.d.toNat] [m.d.toNat] })) w s
/-- MMA: MMLOOP with count 1 and inc 0 (R186). -/
def execMma (m : MmaArgs) (s : State) : Host.Outcome State Fault Refusal :=
  execOn .execOnly false (mmaLimits m 1 0) (mmaBody m 1 0) s
/-- MMLOOP (R186). -/
def execMmloop (m : MmaArgs) (count : BitVec 12) (inc : BitVec 6) (s : State) : Host.Outcome State Fault Refusal :=
  execOn .execOnly false (mmaLimits m (count.toNat + 1) (2 * inc.toNat)) (mmaBody m (count.toNat + 1) (2 * inc.toNat)) s

end Sys2Proof.Machine
end

