-- ==== Sys2Proof/Machine/Timetable.lean ====
section
/-! DEFINITION. Timetables and the sampling table (R345 to R350): entries as they stand in a kernel image, their windows, the
residency of their ranges, and the counters of sampled granules. -/

namespace Sys2Proof.Machine
open Sys2Proof

/-- Bytes at a virtual address, when every page passes the checks of a load. -/
def State.vbytes (s : State) (c va n : Nat) : Option (List Byte) :=
  match s.range c .load va n with
  | .runs l => some (Memory.runBytes s.mem l)
  | _ => none
/-- A little-endian field of `n` bytes at offset `o`. -/
def bytesAt (b : List Byte) (o n : Nat) : Nat := leNat ((b.drop o).take n)
/-- A timetable entry (R345). -/
structure TEntry where
  addr : Nat
  len : Nat
  stride : Nat
  marker : Nat
  until_ : Nat
  action : Nat
  tier : Nat
  must : Bool
  bad : Bool
  deriving DecidableEq, Repr
/-- Read an entry from its 32 bytes; `bad` says that it is malformed (R345). -/
def TEntry.of (b : List Byte) : TEntry :=
  let addr := bytesAt b 0 8
  let len := bytesAt b 8 4
  let action := bytesAt b 0x14 1
  let tier := bytesAt b 0x15 1
  let fl := bytesAt b 0x16 1
  { addr := addr, len := len, stride := bytesAt b 0x0C 4, marker := bytesAt b 0x10 2, until_ := bytesAt b 0x12 2,
    action := action, tier := tier, must := fl % 2 == 1,
    bad := addr % 32 != 0 || len % 32 != 0 || len == 0 || bytesAt b 0x12 2 < bytesAt b 0x10 2 || 2 < action || 2 < tier ||
      (fl % 2 == 1 && action == 1) || fl / 2 != 0 || bytesAt b 0x17 9 != 0 }
/-- The virtual address of a kernel's timetable. -/
def Kernel.ttBase (k : Kernel) : Nat := k.image.toNat + k.timetable
/-- COUNT and LEAD of a team's timetable (R345). -/
def State.ttHead (s : State) (t : Team) : Nat × Nat :=
  if t.kernel.timetable == 0 then (0, 4)
  else match s.vbytes t.ctx t.kernel.ttBase 16 with
    | none => (0, 4)
    | some b =>
      let n := bytesAt b 0 4
      (if 65535 < n then 0 else n, if bytesAt b 4 1 == 0 then 4 else bytesAt b 4 1)
/-- Entry k of a team's timetable. -/
def State.ttEntry (s : State) (t : Team) (k : Nat) : Option TEntry :=
  if k < (s.ttHead t).1 then (s.vbytes t.ctx (t.kernel.ttBase + 16 + 32 * k) 32).map TEntry.of else none
/-- Every entry, with its number. -/
def State.ttEntries (s : State) (t : Team) : List (Nat × TEntry) :=
  (List.range (s.ttHead t).1).filterMap fun k => (s.ttEntry t k).map fun e => (k, e)
/-- The first address of an entry's range for team `n` (R345). -/
def TEntry.base (e : TEntry) (n : Nat) : Nat := (e.addr + 32 * e.stride * n) % 2 ^ 64
/-- Armed at a marker position, none before the first MARK (R346). -/
def TEntry.armed (e : TEntry) (lead : Nat) (c : Option Nat) : Bool :=
  match c with
  | none => e.marker < lead
  | some c => c + 1 ≤ e.marker && e.marker ≤ c + lead
/-- In window (R346). -/
def TEntry.inWindow (e : TEntry) (c : Option Nat) : Bool :=
  match c with
  | none => false
  | some c => e.marker ≤ c && c ≤ e.until_
/-- A fetch or pin. -/
def TEntry.brings (e : TEntry) : Bool := e.action == 0 || e.action == 2
/-- Required at a position (R346); a malformed entry too, which is never resident (R345). -/
def TEntry.required (e : TEntry) (c : Option Nat) : Bool := e.inWindow c && e.must && e.brings
/-- The sectors of an entry's range for team `n`, first and last. -/
def TEntry.span (e : TEntry) (n : Nat) : Nat × Nat := (e.base n / 32, e.base n / 32 + e.len / 32 - 1)
/-- The lease of a copy has not run out (R344). -/
def State.copyValid (s : State) (c : TierCopy) : Bool := match c.rts with | none => true | some v => !tsPast v s.pts
/-- The sectors of which a context holds valid copies in a tier. -/
def State.heldIn (s : State) (ctx tier : Nat) : List (Nat × Nat) :=
  (s.tiers.copies.filter fun c => c.ctx == ctx && c.tier == tier && s.copyValid c).map fun c => (c.first, c.last)
/-- The stretches of an entry's range that have no valid copy in its tier (R351). -/
def State.lacks (s : State) (t : Team) (e : TEntry) : List (Nat × Nat) := outside (s.heldIn t.ctx e.tier) [e.span t.linear]
/-- Resident: every sector of the range has a copy, and no lease among them has run out (R344, R351). -/
def State.resident (s : State) (t : Team) (e : TEntry) : Bool := !e.bad && (s.lacks t e).isEmpty
/-- Some entry in window for the team covers an address (R350, R352). -/
def State.windowCovers (s : State) (t : Team) (va : Nat) : Bool :=
  (s.ttEntries t).any fun e => e.2.inWindow t.marker && e.2.base t.linear ≤ va && va < e.2.base t.linear + e.2.len

/-! ### Sampling (R350) -/

/-- Contexts active on the package: those with a resident team (notes/assumptions/86.md). -/
def State.activeCtxs (s : State) : List Nat :=
  (s.teams.filter Team.resident).foldl (fun l t => if l.contains t.ctx then l else l ++ [t.ctx]) []
/-- The first counter of lowest count (notes/assumptions/86.md). -/
def lowestCounter : List Counter → Option Counter
  | [] => none
  | x :: t =>
    match lowestCounter t with
    | none => some x
    | some y => if y.count < x.count then some y else some x
/-- Counters of a context. -/
def ownCounters (l : List Counter) (ctx : Nat) : List Counter := l.filter fun c => c.ctx == ctx
/-- The counter that makes room for another of a context: its own lowest once it has its share; with the table full, the lowest of a
context that is no longer active or has more than its share (R350). -/
def State.counterOut (s : State) (ctx : Nat) : Option Counter :=
  let l := s.tiers.counters
  let share := Config.sampleGranules / max 1 s.activeCtxs.length
  if share ≤ (ownCounters l ctx).length then lowestCounter (ownCounters l ctx)
  else if l.length < Config.sampleGranules then none
  else lowestCounter (l.filter fun c => !s.activeCtxs.contains c.ctx || share < (ownCounters l c.ctx).length)
/-- Add 1 to the counter of a granule, saturating at 255 (R350). -/
def State.sampleAdd (s : State) (ctx granule home : Nat) : State :=
  let l := s.tiers.counters
  let l' :=
    if l.any fun c => c.ctx == ctx && c.granule == granule then
      l.map fun c => if c.ctx == ctx && c.granule == granule then { c with count := min 255 (c.count + 1) } else c
    else
      (match s.counterOut ctx with
       | none => l
       | some x => l.filter fun c => !(c.ctx == x.ctx && c.granule == x.granule)) ++
        [{ ctx := ctx, granule := granule, count := 1, home := home }]
  { s with tiers := { s.tiers with counters := l' } }
/-- One group pass of a LD, ST or ATOM that addresses HBM, POOL or TRAY in some lane, its lowest active lane's address `va` in space `sp`
(R350): every 4,096th of a core is sampled. -/
def State.notePass (s : State) (t : Team) (va sp : Nat) : State :=
  let n := cellGet 0 s.tiers.passes t.core + 1
  let s := { s with tiers := { s.tiers with passes := cellPut 0 s.tiers.passes t.core (n % 4096) } }
  if n % 4096 != 0 || s.windowCovers t va then s else s.sampleAdd t.ctx (va / 65536) sp

end Sys2Proof.Machine
end

