-- ==== Sys2Proof/Machine/LoadStore.lean ====
section
/-! DEFINITION. Loads, stores, atomics, fences, prefetch and waiting on a word (R216 to R219, R241, R242, R246, R251 to R263, R267
to R281), and YIELDC (R294). An access is checked and issued here; it performs in an event of Machine/EvMemory.lean. -/

namespace Sys2Proof.Machine
open Sys2Proof

/-! ### Widths and addresses (R267 to R269) -/

/-- Bytes moved (R269). -/
def memBytes : MemTy → Nat
  | .ty t => tyWidth t / 8
  | .b24 => 3
/-- Alignment (R269). -/
def memAlign : MemTy → Nat
  | .b24 => 1
  | t => memBytes t
/-- v registers of a value of `n` bytes. -/
def memRegs (n : Nat) : Nat := if n ≤ 4 then 1 else n / 4
/-- The register column of R269. -/
def memRegOk (g : Bool) (ty : MemTy) (r : BitVec 11) : Bool :=
  match ty with
  | .ty .b128 => if g then r.toNat % 2 == 0 else r.toNat % 4 == 0
  | .ty t => pairOk g (ty64 t) r
  | .b24 => true
/-- An access before its checks: group, lane, the lanes whose threads make it (R248), virtual address, one access for the whole group
(R268). -/
structure Want where
  g : Nat
  lane : Nat
  who : Mask
  va : DWord
  uni : Bool
  deriving DecidableEq, Repr
/-- The address of a lane of a vector form (R267). -/
def Who.laneVa (w : Who) (g : Nat) (a : VReg11) (c : Option VReg11) (off : BitVec 17) (i : Nat) : DWord :=
  w.s g 3 + ((w.v g a.toNat).lane i).setWidth 64 +
    (match c with | none => 0 | some c => ((w.v g c.toNat).lane i).signExtend 64) + off.signExtend 64
/-- The address of a G form (R267). -/
def Who.groupVa (w : Who) (g : Nat) (a : VReg11) (c : Option VReg11) (off : BitVec 17) : DWord :=
  w.s g a.toNat + (match c with | none => 0 | some c => w.s g c.toNat) + off.signExtend 64
/-- The accesses of an instruction, in team lane order (R267, R268). A G form belongs to the lowest lane that the fragment holds of
the group (R216); one access of a whole group carries the highest active lane (R268). -/
def Who.wants (w : Who) (gf merge : Bool) (msk : MaskField) (a : VReg11) (c : Option VReg11) (off : BitVec 17) : List Want :=
  (w.qual msk).flatMap fun g =>
    if gf then [⟨g, (lowestLane (maskAt w.frag.m g)).getD 0, 0, w.groupVa g a c off, true⟩]
    else
      let ls := maskLanes (w.eff msk g)
      let uni := merge && (w.v g a.toNat).isUniform && (match c with | none => true | some c => (w.v g c.toNat).isUniform)
      if uni then [⟨g, ls.getLastD 0, w.eff msk g, w.laneVa g a c off 0, true⟩]
      else ls.map fun i => ⟨g, i, laneBit i, w.laneVa g a c off i, false⟩
/-- The access with its runs. -/
def Want.acc (x : Want) (segs : List (Nat × Nat)) (val cmp : Nat) (fwd : List (Nat × Byte)) : LaneAcc :=
  { g := x.g, lane := x.lane, who := x.who, va := x.va, segs := segs, val := val, cmp := cmp, got := none, fwd := fwd }

/-! ### Checks (R241, R242, R261) -/

/-- What the checks of one access give: its runs, a fault, or a wait on MIG. -/
inductive Checked
  | ok (segs : List (Nat × Nat))
  | fault (cause : Nat) (va : DWord)
  | mig (va : DWord)
  deriving DecidableEq, Repr
/-- One naturally aligned access of `n` bytes, with the range-lock check of R261. -/
def State.checkOne (s : State) (c : Nat) (k : AccKind) (n al : Nat) (va : DWord) : Checked :=
  match s.check c k al va.toNat with
  | .fault cause => .fault cause va
  | .mig => .mig va
  | .ok key _ => if s.lockConflict (k != .load) (key, n) then .fault 0x23 va else .ok [(key, n)]
/-- The first fault of a list, else its first wait, else all the runs. -/
def joinChecked : List Checked → Checked
  | [] => .ok []
  | .fault c va :: _ => .fault c va
  | .mig va :: t =>
    match joinChecked t with
    | .fault c v => .fault c v
    | _ => .mig va
  | .ok l :: t =>
    match joinChecked t with
    | .ok m => .ok (l ++ m)
    | x => x
/-- One access; .B24 is three accesses of one byte (R269). -/
def State.checkAcc (s : State) (c : Nat) (k : AccKind) (ty : MemTy) (va : DWord) : Checked :=
  match ty with
  | .b24 => joinChecked ((List.range 3).map fun i => s.checkOne c k 1 1 (va + BitVec.ofNat 64 i))
  | t => s.checkOne c k (memBytes t) (memAlign t) va
/-- Every access of an instruction checked before any is made (R242). -/
inductive AllChecked
  | ok (l : List (Want × List (Nat × Nat)))
  | fault (cause : Nat) (va : DWord)
  | mig (va : DWord)
  deriving DecidableEq, Repr
/-- R242. -/
def State.checkAll (s : State) (c : Nat) (k : AccKind) (ty : MemTy) : List Want → AllChecked
  | [] => .ok []
  | x :: t =>
    match s.checkAcc c k ty x.va with
    | .fault cause va => .fault cause va
    | .mig va =>
      match s.checkAll c k ty t with
      | .fault cause v => .fault cause v
      | _ => .mig va
    | .ok segs =>
      match s.checkAll c k ty t with
      | .ok l => .ok ((x, segs) :: l)
      | r => r
/-- Wait until the next PTE record that covers the address (R246). -/
def State.waitMig (s : State) (w : Who) (va : DWord) : State := s.onFrag w fun f => { f with wait := .mig va }
/-- Continue when every access passes. -/
def State.withAccess (s : State) (w : Who) (k : AccKind) (ty : MemTy) (l : List Want)
    (f : List (Want × List (Nat × Nat)) → Result) : Result :=
  match s.checkAll w.team.ctx k ty l with
  | .fault cause va => .trap cause va
  | .mig va => .wait (s.waitMig w va)
  | .ok l => f l
/-- Count the group passes of an instruction for sampling (R350). -/
def State.notePasses (s : State) (w : Who) (gs : List Nat) (l : List (Want × List (Nat × Nat))) : State :=
  gs.foldl (fun s g =>
    let mine := l.filter fun x => x.1.g == g
    let counts (sp : Nat) : Bool := sp == spHBM || sp == spPOOL || sp == spTRAY
    match mine with
    | x :: _ =>
      if mine.any fun y => y.2.any fun r => counts (keySpace r.1) then
        s.notePass w.team x.1.va.toNat (match x.2 with | r :: _ => keySpace r.1 | [] => spSRAM)
      else s
    | [] => s) s
/-- Record the paths of an access (R263). -/
def State.notePaths (s : State) (w : Who) (runs : List (Nat × Nat)) (bit : Nat) : State :=
  s.onFrag w fun f => { f with paths := usePaths runs bit f.paths }

/-! ### The region store buffer (R218) -/

/-- The bytes that a fragment's buffer holds for runs, the youngest last (R218). -/
def bufForward (buf : List BufRun) (runs : List (Nat × Nat)) : List (Nat × Byte) :=
  buf.flatMap fun b => b.bytes.filterMap fun x =>
    let k := 32 * b.sector + x.off
    if runs.any fun r => r.1 ≤ k && k < r.1 + r.2 then some (k, x.val) else none
/-- The half-core whose entries a group uses (R112, R218). -/
def Team.bufHalf (t : Team) (g : Nat) : Nat := if (t.group g).slot < 32 then 0 else 1
/-- Put one byte of an instruction's stores into its runs: into the last run of its sector when that is one of its half, else into a new
run, so that of two bytes for one place the later stands later (R272). -/
def runPut (new : BufRun) (x : BufByte) : List BufRun → List BufRun
  | [] => [{ new with bytes := [x] }]
  | b :: l =>
    if b.half == new.half && b.sector == new.sector && !(l.any fun c => c.sector == new.sector) then
      { b with bytes := b.bytes ++ [x] } :: l
    else b :: runPut new x l
/-- The runs that one ST adds to the buffer (R218): its bytes in team lane order. -/
def Who.bufRuns (w : Who) (gf : Bool) (col : Nat) (scope : Scope) (lanes : List LaneAcc) : List BufRun :=
  lanes.foldl (fun l x => (runKeys x.segs).zipIdx.foldl (fun l k =>
    runPut { half := w.team.bufHalf x.g, sector := k.1 / 32, col := col, scope := scope, pc := w.iss.pc, gf := gf, bytes := [] }
      { off := k.1 % 32, val := BitVec.ofNat 8 (x.val / 256 ^ k.2), lane := 64 * x.g + x.lane, va := x.va } l) l) []

/-! ### LD (R271) -/

/-- The data of a lane's register operand, as a number of `n` bytes. -/
def Who.dataNat (w : Who) (gf : Bool) (g n : Nat) (r : BitVec 11) (lane : Nat) : Nat :=
  if gf then ((w.s g r.toNat).toNat + (if n == 16 then 2 ^ 64 * (w.s g (r.toNat + 1)).toNat else 0)) % 256 ^ n
  else ((List.range (memRegs n)).foldl (fun v k => v + ((w.v g (r.toNat + k)).lane lane).toNat * 2 ^ (32 * k)) 0) % 256 ^ n
/-- Storage that a load or ATOM of `n` bytes will write (R32). -/
def Who.destRefs (w : Who) (gf : Bool) (gs : List Nat) (n : Nat) (d : BitVec 11) : List RegRef :=
  let k := if gf then (if n == 16 then 2 else 1) else memRegs n
  gs.flatMap fun g => (List.range k).filterMap fun i =>
    if d.toNat + i == 0 then none
    else match w.thr with
      | some x => some (.ts x.group (d.toNat + i))
      | none => some (if gf then .s g (d.toNat + i) else .v g (d.toNat + i))
/-- How each group's destination is written. -/
def Who.grpAccs (w : Who) (msk : MaskField) (uni : Nat → Bool) : List GrpAcc :=
  (w.qual msk).map fun g => { g := g, eff := w.eff msk g, full := w.fullWrite msk g, uni := uni g }
/-- The body of LD. -/
def ldBody (m : LdArgs) (w : Who) (s : State) : Result :=
  let n := memBytes m.ty
  s.withAccess w .load m.ty (w.wants m.g true m.msk m.a (some m.c) m.off) fun l =>
    let gs := w.grpAccs m.msk fun g => l.any fun x => x.1.g == g && x.1.uni
    match gs.find? fun x => !m.g && !(x.uni && x.full) && w.generalBad x.g m.d.toNat (memRegs n) with
    | some x => .trap 0x06 (BitVec.ofNat 64 x.g)
    | none =>
      if l.isEmpty then .ok s
      else
        let runs := l.flatMap fun x => x.2
        let buf := if w.regioned then w.frag.region.buf else []
        let lanes : List LaneAcc := l.map fun x => x.1.acc x.2 0 0 (bufForward buf x.2)
        let s := (s.notePasses w (gs.map fun x => x.g) l).notePaths w runs 8
        .ok (s.addOp { w.op s (.load m.g m.d.toNat m.ty gs lanes) with
          flag := w.flag m.lf, writes := w.destRefs m.g (gs.map fun x => x.g) n m.d, scope := m.scope, ord := m.ord,
          deps := s.orderDeps w.team.id w.thrId w.frag.m (lanes.map LaneAcc.acc) none (m.ord == .sc),
          depLvl := if m.ord == .sc then 4 else 1 })
/-- LD. -/
def execLd (m : LdArgs) (s : State) : Host.Outcome State Fault Refusal :=
  execOn (if m.g then .both else .execOnly) false (fun _ => memRegOk m.g m.ty m.d) (ldBody m) s

/-! ### ST (R272) -/

/-- Issue stores that go to memory directly, a release with its markers (R252, R263). -/
def State.storeDirect (s : State) (w : Who) (m : StArgs) (lanes : List LaneAcc) : State :=
  let runs := laneRuns lanes
  let rel := ordReleases m.ord
  let s := if rel then s.flushCore w.team.core else s
  let marks := if rel && scopeWide m.scope then markerPorts m.km w.frag.paths else []
  let s := if rel && scopeWide m.scope then s.onFrag w fun f => { f with paths := afterMarkers m.km f.paths } else s
  let s := s.notePaths w runs m.col.toNat
  let lvl := if m.ord == .sc then 4 else scopeLvl m.scope
  s.addOp { w.op s (.store lanes m.col.toNat) with
    flag := w.flag m.lf, scope := m.scope, ord := m.ord, markers := marks,
    deps := s.orderDeps w.team.id w.thrId w.frag.m (lanes.map LaneAcc.acc) (if rel then some (m.km, lvl) else none) (m.ord == .sc) ++
      s.detDeps w.team,
    depLvl := if w.determ then 4 else if rel then lvl else 1 }
/-- Buffer stores, or pin the region when an entry is missing (R218). In a deterministic round the fragment stops before such a store, and
makes it at its commit (R226; notes/assumptions/83.md). -/
def State.storeBuffered (s : State) (w : Who) (m : StArgs) (lanes : List LaneAcc) : Result :=
  let buf := w.frag.region.buf ++ w.bufRuns m.g m.col.toNat m.scope lanes
  let fits := (List.range 2).all fun h =>
    s.bufUsed w.team.core h + bufCount buf h ≤ Config.bufPerHalf + bufCount w.frag.region.buf h
  if fits then .ok (s.onFrag w fun f => { f with region := { f.region with buf := buf } })
  else if s.roundHeld w then .wait (s.onFrag w fun f => { f with wait := .round })
  else .ok ((s.pin w).storeDirect w m lanes)
/-- The body of ST. -/
def stBody (m : StArgs) (w : Who) (s : State) : Result :=
  let n := memBytes m.ty
  s.withAccess w .store m.ty (w.wants m.g true m.msk m.a (some m.c) m.off) fun l =>
    if l.isEmpty then .ok s
    else
      let lanes : List LaneAcc := l.map fun x => x.1.acc x.2 (w.dataNat m.g x.1.g n m.b x.1.lane) 0 []
      let s := s.notePasses w (w.qual m.msk) l
      if w.regioned && m.ord == .rlx && (!w.frag.region.pinned || s.roundHeld w) then s.storeBuffered w m lanes
      else .ok (s.storeDirect w m lanes)
/-- ST. -/
def execSt (m : StArgs) (s : State) : Host.Outcome State Fault Refusal :=
  execOn .execOnly (m.ord != .rlx) (fun _ => memRegOk m.g m.ty m.b) (stBody m) s

/-! ### ATOM (R273 to R277) -/

/-- The register of the compare value. -/
def cmpReg : AtomOp → Option VReg11
  | .cas c => some c
  | _ => none
/-- The body of ATOM. -/
def atomBody (m : AtomArgs) (w : Who) (s : State) : Result :=
  let n := tyWidth m.ty / 8
  s.withAccess w .atomic (.ty m.ty) (w.wants m.g false m.msk m.a none m.off) fun l =>
    let gs := w.grpAccs m.msk fun _ => m.g
    match gs.find? fun x => !m.g && m.d != 0 && w.generalBad x.g m.d.toNat (memRegs n) with
    | some x => .trap 0x06 (BitVec.ofNat 64 x.g)
    | none =>
      if l.isEmpty then .ok s
      else
        let lanes : List LaneAcc := l.map fun x => x.1.acc x.2 (w.dataNat m.g x.1.g n m.b x.1.lane)
          (match cmpReg m.op with | none => 0 | some c => w.dataNat m.g x.1.g n c x.1.lane) []
        let runs := laneRuns lanes
        let rel := ordReleases m.ord
        let lvl := if m.ord == .sc then 4 else scopeLvl m.scope
        let s := s.notePasses w (gs.map fun x => x.g) l
        let s := if rel then s.flushCore w.team.core else s
        let marks := if rel && scopeWide m.scope then markerPorts 0xFF w.frag.paths else []
        let s := if rel && scopeWide m.scope then s.onFrag w fun f => { f with paths := afterMarkers 0xFF f.paths } else s
        let s := s.notePaths w runs 8
        let o := { w.op s (.atom m.g m.op.code.toNat (tySigned m.ty) m.ty m.d.toNat gs lanes false) with
          flag := w.flag m.lf, writes := if m.d == 0 then [] else w.destRefs m.g (gs.map fun x => x.g) n m.d, scope := m.scope,
          ord := m.ord, markers := marks,
          deps := s.orderDeps w.team.id w.thrId w.frag.m (lanes.map LaneAcc.acc) (if rel then some (0xFF, lvl) else none)
            (m.ord == .sc) ++ s.detDeps w.team,
          depLvl := if w.determ then 4 else if rel then lvl else 1 }
        let s := s.addOp o
        .ok (if m.ord == .rlx then s else s.onFrag w fun f => { f with hold := f.hold ++ [o.id] })
/-- ATOM. -/
def execAtom (m : AtomArgs) (s : State) : Host.Outcome State Fault Refusal :=
  let ok (r : VReg11) : Bool := memRegOk m.g (.ty m.ty) r
  execOn (if m.g then .both else .execOnly) true
    (fun _ => ok m.d && ok m.b && (match cmpReg m.op with | none => true | some c => ok c)) (atomBody m) s

/-! ### FENCE and PREF (R278, R279) -/

/-- The accesses on the left of a fence (R253): a fence that orders earlier stores carries along what its groups see of others (R257). -/
def State.fenceDeps (s : State) (w : Who) (ord : Ord) (km : BitVec 8) (lvl : Nat) : List Nat :=
  ((s.ops.filter fun o => o.mine w.team.id w.thrId w.frag.m &&
    ((ord != .rlx && o.kind.reads) ||
      (ord != .acq && (match o.kind.storeCol with | none => false | some c => km.getLsbD c)) ||
      (ord == .sc && o.ord == .sc))).map fun o => o.id) ++
  (if ordReleases ord then s.carried w.team.id w.present lvl else [])
/-- FENCE: the fragment is not ready until the fence completes. -/
def execFence (scope : Scope) (ord : Ord) (km : BitVec 8) (s : State) : Host.Outcome State Fault Refusal :=
  execOn .both true (fun _ => true) (fun w s =>
    if ord == .rlx && km == 0 then .ok s
    else
      let s := s.flushCore w.team.core
      let lvl := if ord == .sc then 4 else scopeLvl scope
      let ids := s.fenceDeps w ord km lvl
      let marks := if scopeWide scope then markerPorts km w.frag.paths else []
      let s := if scopeWide scope then s.onFrag w fun f => { f with paths := afterMarkers km f.paths } else s
      if marks.isEmpty then
        .ok (if ids.isEmpty then s else s.onFrag w fun f => { f with wait := .ops ids lvl })
      else
        let o := { w.op s .fence with scope := scope, ord := ord, deps := ids, depLvl := lvl, markers := marks }
        .ok ((s.addOp o).onFrag w fun f => { f with wait := .ops [o.id] 4 })) s
/-- One address of a PREF: it is dropped without report where R279 says so; a POOL or TRAY sector takes a lease copy. -/
def State.prefetch (s : State) (w : Who) (va : DWord) : State :=
  match s.check w.team.ctx .load 1 va.toNat with
  | .ok key l =>
    if natBits l.e 8 1 == 1 || l.space == spENS || l.space == spHOST || s.lockConflict true (key, 1) then s
    else if keyPooled key then (s.flushRuns [(key, 1)]).leaseRead w.team.ctx true (keySector key)
    else s
  | _ => s
/-- PREF. -/
def execPref (m : PrefArgs) (s : State) : Host.Outcome State Fault Refusal :=
  execOn .execOnly false (fun _ => true) (fun w s =>
    .ok ((w.wants m.g true m.msk m.a (some m.c) m.off).foldl (fun s x => s.prefetch w x.va) s)) s

/-! ### CWAIT (R280, R281) -/

/-- The condition of CWAIT on words of `n` bytes. -/
def waitHolds (c : WCond) (n x y : Nat) : Bool :=
  match c with
  | .eq => x == y
  | .ne => x != y
  | .ge => natSigned (8 * n) y ≤ natSigned (8 * n) x
  | .lt => natSigned (8 * n) x < natSigned (8 * n) y
  | .geu => y ≤ x
  | .ltu => x < y
/-- The memory that the loads of a team see: inside a round of deterministic mode, memory as the round began (R226). -/
def State.seenMem (s : State) (launch : Nat) : Memory :=
  match (s.launchAt launch).bind fun l => l.roundMem with
  | none => s.mem
  | some m => m
/-- Read a word for a poll (R280): lines go home, a POOL or TRAY sector without a valid copy is read at its home, whose packets are
charged; the stores on their way that the group sees, and the fragment's own buffered bytes, lie over it. -/
def State.pollRead (s : State) (w : Who) (g : Nat) (runs : List (Nat × Nat)) : State × Nat :=
  let buf := if w.regioned then w.frag.region.buf else []
  let s := s.chargeRuns w.team.ctx (some w.team.id) runs
  if w.determ && s.inRound w.team then
    (s, leNat (overlay runs (Memory.runBytes (s.seenMem w.team.launch) runs) (bufForward buf runs)))
  else
    let s := (pooledSectors runs).foldl (fun s x => if (s.copyOf x).isSome then s else s.chargeRead w.team.ctx (32 * x) 32) s
    let r := s.engineRead w.team.ctx true runs
    (r.1, leNat (overlay runs r.2 (r.1.shadow w.team.id g ++ bufForward buf runs)))
/-- The fragment waits for its next poll. -/
def State.waitPoll (s : State) (w : Who) (c : DWord) (y : Bool) : State :=
  s.onFrag w fun f => { f with wait := .cwait c y false }
/-- CWAIT: it polls when it issues; each later poll issues it again with the comparand read first (CWAIT_POLL). Each poll makes the checks of
a relaxed load (R241, R261). The spec leaves the order of a CWAIT with the accesses around it to R251: the model makes the poll after the
issuer's earlier overlapping accesses, and lets nothing of the issuer pass it (notes/assumptions/81.md). -/
def execCwait (m : CwaitArgs) (s : State) : Host.Outcome State Fault Refusal :=
  execOn .both false (fun _ => true) (fun w s =>
    let g := w.lowest
    let n := if m.w64 then 8 else 4
    let c : DWord := match w.frag.wait with
      | .cwait c _ _ => c
      | _ => BitVec.ofNat 64 ((w.s g m.d.toNat).toNat % 256 ^ n)
    let va := w.s g m.a.toNat
    match s.checkOne w.team.ctx .load n n va with
    | .fault cause va => .trap cause va
    | .mig _ => .wait (s.waitPoll w c m.y)
    | .ok runs =>
      let deps := s.orderDeps w.team.id w.thrId w.frag.m [(g, 0, runs)] none false
      if !(deps.all fun i => (s.opAt i).all fun o => o.performed 1) then .wait (s.waitPoll w c m.y)
      else
        let r := s.pollRead w g runs
        if waitHolds m.cond n r.2 c.toNat then
          .ok ((r.1.setS w g m.d.toNat (BitVec.ofNat 64 r.2)).onFrag w fun f => { f with wait := .ready })
        else .wait (r.1.waitPoll w c m.y)) s

/-! ### YIELDC (R294) -/

/-- YIELDC: the fragment parks until nothing is outstanding, then continues at the target. -/
def yieldcBody (t : Target) (busy : Who → State → Bool) (park : Wait) (w : Who) (s : State) : Result :=
  s.withTargets w [w.target t] fun s =>
    if busy w s then .wait (s.onFrag w fun f => { f with wait := park })
    else .jump ((s.goTo w (w.target t)).onFrag w fun f => { f with wait := .ready })
/-- YIELDC.R. -/
def execYieldcR (a : VReg11) (t : Target) (s : State) : Host.Outcome State Fault Refusal :=
  execOn .execOnly false (fun _ => evenPair true a) (yieldcBody t (fun w s => s.copyPending w a.toNat) (.parkR a.toNat)) s
/-- YIELDC.F. -/
def execYieldcF (flags : BitVec 12) (t : Target) (s : State) : Host.Outcome State Fault Refusal :=
  execOn .execOnly false (fun _ => true) (yieldcBody t (fun w s => s.flagsBusy w flags) (.parkF flags)) s

end Sys2Proof.Machine
end

