-- ==== Sys2Proof/Machine/Copy.lean ====
section
/-! DEFINITION. Copy engines and completion registers (R282 to R293, R295): issuing CPL, CPBOX, CPMC and CPST, moving an item,
landing in a station, and the final word. -/

namespace Sys2Proof.Machine
open Sys2Proof

/-! ### Engine operations -/

/-- An item with nothing known. -/
def Item.none : Item :=
  { src := .runs [], dst := .runs [], sva := 0, dva := 0, len := 0, g := 0, lane := 0, cause := 0, va := 0, done := false, dropped := false,
    engine := 0, taken := false, raddr := 0, peer := 0, val := 0, pend := 0, stage := .idle, data := [], elems := [] }
/-- An item that has failed with a cause at an address (R295). -/
def Item.failed (i : Item) (cause : Nat) (va : DWord) : Item := { i with cause := cause, va := va, done := true }
/-- An item from one virtual range to another (R243): its first failing check fails it at issue. -/
def State.copyItem (s : State) (w : Who) (al src dst n : Nat) : Item :=
  ({ Item.none with len := n, engine := w.team.core, sva := src, dva := dst, src := s.rangeOn w.team.ctx .load al src n,
                    dst := s.rangeOn w.team.ctx .store al dst n } : Item).judge
/-- The first item that has failed: its cause and address. -/
def firstFail (l : List Item) : Option (Nat × DWord) := (l.find? fun i => i.cause != 0).map fun i => (i.cause, i.va)
/-- The ranges beside those of the items that an operation was translated for. -/
def EngKind.extra : EngKind → List Rng
  | .cpbox (some m) _ => [m.2]
  | .rsort _ _ _ offs => [offs.2]
  | .put _ (some c) _ => [c.range]
  | _ => []
/-- Physical runs that an operation has been translated for, its destinations. -/
def EngOp.dstRuns (e : EngOp) : List (Nat × Nat) := (e.items.flatMap fun i => i.dst.known) ++ e.kind.extra.flatMap Rng.known
/-- All of them. -/
def EngOp.allRuns (e : EngOp) : List (Nat × Nat) := (e.items.flatMap fun i => i.src.known) ++ e.dstRuns
/-- Operations that a core's engine holds (R282): the copies issued, whatever the number of their groups, RSORTs (R358), and one for each
group of a COLL (R355). -/
def State.engineLoad (s : State) (core : Nat) : Nat :=
  let mine := s.ops.filter fun o => o.core == core
  (mine.filterMap fun o => match o.kind with
    | .engine e => (match e.kind with
      | .cpl => some o.inst
      | .cpbox .. => some o.inst
      | .cpmc .. => some o.inst
      | _ => none)
    | _ => none).eraseDups.length +
  mine.foldl (fun n o => match o.kind with
    | .engine e => (match e.kind with
      | .rsort .. => n + 1
      | .coll .. => n + ((e.items.map fun i => i.g).eraseDups).length
      | _ => n)
    | _ => n) 0
/-- Storage of a completion pair (R285). -/
def pairRefs (g d : Nat) : List RegRef := if d == 0 then [] else [.v g d, .v g (d + 1)]
/-- Bytes as the posted word carries them (R285). -/
def postedWord (n : Nat) : DWord := BitVec.ofNat 64 n
/-- The operation of an engine instruction on a group: its items move once the issuer's overlapping stores have come home and its acquires
have performed (R262); a release also waits for what R252 names, with the markers of R263. -/
def State.engineOp (s : State) (w : Who) (e : EngOp) (scope : Scope) (rel lf : Bool) (writes : List RegRef) : Op :=
  { w.op s (.engine e) with
    flag := w.flag lf, writes := writes, scope := scope, fail := firstFail e.items,
    ord := if rel then .rel else .rlx, markers := if rel then markerPorts 0xFF w.frag.paths else [],
    deps := s.storeDeps w.team.id w.thrId w.frag.m e.allRuns ++
      s.orderDeps w.team.id w.thrId w.frag.m [] (if rel then some (0xFF, scopeLvl scope) else none) false ++ s.detDeps w.team ++
      (match e.kind with | .redm _ _ _ _ (.acc a) _ => s.tileDeps w.team.id [a.toNat] [] | _ => []) }
/-- One group's share of an engine instruction: what it will issue, and the registers that its final word writes. -/
structure Plan where
  e : EngOp
  writes : List RegRef
  deriving DecidableEq, Repr
/-- The operation that a plan issues, with its range-lock entries (R287). -/
def State.planOp (s : State) (w : Who) (scope : Scope) (rel lf : Bool) (p : Plan) : Op :=
  let o := s.engineOp w p.e scope rel lf p.writes
  { o with locks := s.locksOf o }
/-- The paths of the issuer after its engine operations: their writes count as stores of their colour (R263, R289). -/
def pathsAfter (l : List Plan) (p : Cells (BitVec 9)) : Cells (BitVec 9) := l.foldl (fun p x => usePaths x.e.dstRuns x.e.col p) p
/-- Issue the operations of an instruction: the fragment stalls while an engine or the range-lock table lacks room (R282, R287). The
posted words are written, and an operation without items completes at once with BYTES 0. -/
def State.issuePlans (s : State) (w : Who) (slots : Nat) (scope : Scope) (rel lf : Bool) (post : State → Plan → State)
    (l : List Plan) : Result :=
  if slots != 0 && Config.engineOps < s.engineLoad w.team.core + slots then .wait s
  else if Config.rangeLocks < s.locksUsed + l.foldl (fun n p => n + (s.planOp w scope rel lf p).locks.length) 0 then .wait s
  else
    let s := if rel && !l.isEmpty then s.flushCore w.team.core else s
    let inst := s.nextOp
    let s := l.foldl (fun s p =>
      if p.e.items.isEmpty then s.putPair w.team.id p.e.group p.e.d (finalWord 0 0 0)
      else (post s p).addOp { (post s p).planOp w scope rel lf p with inst := inst }) s
    .ok (if l.isEmpty then s else s.onFrag w fun f => { f with
      paths := pathsAfter l (if rel then afterMarkers 0xFF f.paths else f.paths) })
/-- The posted word of a one-word completion register. -/
def Who.postPair (w : Who) (s : State) (p : Plan) : State := s.putPair w.team.id p.e.group p.e.d (postedWord p.e.posted)
/-- A plan from its items. -/
def planOf (kind : EngKind) (core g d posted col : Nat) (items : List Item) : Plan :=
  { e := { kind := kind, d := d, group := g, posted := posted, items := items, engine := core, col := col }, writes := pairRefs g d }

/-! ### CPL (R289) -/

/-- The lanes of CPL as items. -/
def State.cplItems (s : State) (w : Who) (m : CplArgs) : List Item :=
  let n := tyWidth m.ty / 8
  (w.qual m.msk).flatMap fun g => (maskLanes (w.eff m.msk g)).map fun i =>
    { s.copyItem w n (w.laneVa g m.a none m.off i).toNat (w.laneVa g m.b (some m.c) 0 i).toNat n with g := g, lane := i }
/-- Write the words of CPL or COLL items into their lanes (R285): the result is general, other lanes keep theirs. -/
def State.putLaneWords (s : State) (tid d : Nat) (items : List Item) (word : Item → DWord) : State :=
  if d == 0 then s
  else
    ((items.map fun i => i.g).eraseDups).foldl (fun s g =>
      let mine := items.filter fun i => i.g == g
      let reg (x : Group) (k : Nat) : VReg := VReg.ofLanes fun i =>
        match mine.find? fun j => j.lane == i with
        | some j => (word j).extractLsb' (32 * k) 32
        | none => (x.vget (d + k)).lane i
      match s.teamAt tid with
      | none => s
      | some t =>
        let x := s.lateGroup t g
        s.putRegs tid g [(d, reg x 0), (d + 1, reg x 1)]) s
/-- CPL. -/
def execCpl (m : CplArgs) (s : State) : Host.Outcome State Fault Refusal :=
  execOn .execOnly true (fun _ => evenPair true m.d) (fun w s =>
    let gs := w.qual m.msk
    match gs.find? fun g => m.d != 0 && w.generalBad g m.d.toNat 2 with
    | some g => .trap 0x06 (BitVec.ofNat 64 g)
    | none =>
      if gs.isEmpty then .ok s
      else
        let items := s.cplItems w m
        let p := { planOf .cpl w.team.core 0 m.d.toNat (items.foldl (fun n i => n + i.len) 0) m.col.toNat items with
                   writes := gs.flatMap fun g => pairRefs g m.d.toNat }
        s.issuePlans w 1 m.scope false m.lf
          (fun s p => s.putLaneWords w.team.id m.d.toNat p.e.items fun i => postedWord i.len) [p]) s

/-! ### CPBOX (R290) -/

/-- A box descriptor. -/
structure Box where
  src : Nat
  dst : Nat
  e0 : Nat
  e1 : Nat
  e2 : Nat
  e3 : Nat
  ss : List Int
  ds : List Int
  map : Nat
  last : Nat
  deriving DecidableEq, Repr
/-- Read the descriptor of a group. -/
def Who.box (w : Who) (g : Nat) (a : SReg) : Box :=
  let r (k : Nat) : Nat := (w.s g (a.toNat + k)).toNat
  let one (n : Nat) : Nat := if n == 0 then 1 else n
  { src := r 0, dst := r 1, e0 := natBits (r 2) 0 16, e1 := one (natBits (r 2) 16 16), e2 := one (natBits (r 2) 32 16),
    e3 := one (natBits (r 2) 48 16),
    ss := [natSigned 32 (natBits (r 3) 0 32), natSigned 32 (natBits (r 3) 32 32), natSigned 32 (natBits (r 4) 0 32)],
    ds := [natSigned 32 (natBits (r 4) 32 32), natSigned 32 (natBits (r 5) 0 32), natSigned 32 (natBits (r 5) 32 32)],
    map := r 6, last := r 7 }
/-- The operand limits of a descriptor (R290). -/
def Box.ok (b : Box) (w : Nat) : Bool :=
  b.e0 != 0 && b.last == 0 && b.e0 * b.e1 * b.e2 * b.e3 < 2 ^ 40 && b.e0 % w == 0 && b.src % w == 0 && b.dst % w == 0 &&
    (b.ss ++ b.ds).all fun x => x % w == 0
/-- Rows of a box. -/
def Box.rows (b : Box) : Nat := b.e1 * b.e2 * b.e3
/-- The address of row k on one side (R290). -/
def Box.rowVa (b : Box) (base : Nat) (st : List Int) (k : Nat) : Nat :=
  intBits 64 (base + (k % b.e1 : Nat) * st.getD 0 0 + (k / b.e1 % b.e2 : Nat) * st.getD 1 0 + (k / b.e1 / b.e2 : Nat) * st.getD 2 0)
/-- The plan of one group's box: the failure map is a destination range of its own (R290). -/
def State.boxPlan (s : State) (w : Who) (d g col : Nat) (b : Box) : Plan :=
  let n := (b.rows + 7) / 8
  planOf (.cpbox (if b.map == 0 then none else some (b.map, s.range w.team.ctx .store b.map n)) b.rows) w.team.core g d (b.e0 * b.rows) col
    ((List.range b.rows).map fun k => s.copyItem w 1 (b.rowVa b.src b.ss k) (b.rowVa b.dst b.ds k) b.e0)
/-- CPBOX. -/
def execCpbox (m : CpboxArgs) (s : State) : Host.Outcome State Fault Refusal :=
  execOn .execOnly true
    (fun w => evenPair true m.d && m.a.toNat + 7 ≤ 255 && (w.qual m.msk).all fun g => (w.box g m.a).ok (tyWidth m.ty / 8))
    (fun w s => s.issuePlans w (min 1 (w.qual m.msk).length) m.scope false m.lf w.postPair
      ((w.qual m.msk).map fun g => s.boxPlan w m.d.toNat g m.col.toNat (w.box g m.a))) s

/-! ### CPMC and CPST (R291, R292) -/

/-- The fields of a target word (R292). -/
structure McTarget where
  cores : Nat
  grp : Nat
  roff : Nat
  n : Nat
  high : Nat
  deriving DecidableEq, Repr
/-- Read a target word. -/
def McTarget.of (v : DWord) : McTarget :=
  { cores := natBits v.toNat 0 12, grp := natBits v.toNat 12 4, roff := natBits v.toNat 16 11, n := natBits v.toNat 27 11,
    high := natBits v.toNat 38 26 }
/-- Cluster core positions of a team. -/
def Team.positions (t : Team) : Nat := if t.kernel.cluster then t.kernel.cluW * t.kernel.cluH else 1
/-- The operand limits of a target word (R292). -/
def McTarget.ok (x : McTarget) (t : Team) : Bool :=
  x.cores < 2 ^ t.positions && x.grp < t.kernel.groups && x.n != 0 && x.high == 0
/-- The peer of a team on cluster core position c (R292). -/
def State.peerOn (s : State) (t : Team) (c : Nat) : Nat :=
  if !t.kernel.cluster then t.id
  else
    let n := c * t.kernel.cluTpc + t.number % t.kernel.cluTpc
    match s.teams.find? fun x => x.launch == t.launch && x.cluster == t.cluster && x.number == n with
    | some x => x.id
    | none => 2 ^ 64
/-- Piece `k` of a multicast's source: 4 KiB at most (R282). A source that is not a multiple of 16 fails every piece (R241). -/
def State.mcPiece (s : State) (w : Who) (src total k : Nat) : Item :=
  let n := min 4096 (total - 4096 * k)
  let va := (src + 4096 * k) % 2 ^ 64
  ({ Item.none with len := n, engine := w.team.core, raddr := 4096 * k, sva := va,
                    src := if src % 16 != 0 then .bad 0x22 src else s.range w.team.ctx .load va n } : Item).judge
/-- The plan of one group's multicast: the pieces of the source, then a landing for each position. -/
def State.mcPlan (s : State) (w : Who) (d g : Nat) (src : Nat) (x : McTarget) : Plan :=
  let total := 256 * x.n
  let pieces := (total + 4095) / 4096
  let cs := (List.range 12).filter fun c => natBits x.cores c 1 == 1
  let landing (c : Nat) : Item := { Item.none with len := total, lane := c, peer := s.peerOn w.team c, engine := w.team.core }
  planOf (.cpmc x.grp x.roff x.n pieces) w.team.core g d (total * cs.length) 0
    (if cs.isEmpty then [] else (List.range pieces).map (s.mcPiece w src total) ++ cs.map landing)
/-- CPMC acts once for each present group, whatever its mask (R79). -/
def execCpmc (m : CpmcArgs) (s : State) : Host.Outcome State Fault Refusal :=
  execOn .execOnly true
    (fun w => evenPair true m.d && w.present.all fun g => (McTarget.of (w.s g m.b.toNat)).ok w.team)
    (fun w s => s.issuePlans w 1 .clu false m.lf w.postPair
      (w.present.map fun g => s.mcPlan w m.d.toNat g (w.s g m.a.toNat).toNat (McTarget.of (w.s g m.b.toNat)))) s
/-- The operand limits of CPST in a group (R291). -/
def Who.cpstOk (w : Who) (m : CpstArgs) (g : Nat) : Bool :=
  let n := m.n.toNat
  let l := m.b.toNat
  if n == 0 then m.d == 0 && m.a == 0 && m.b == 0
  else
    let v := (w.s g m.a.toNat).toNat
    let eb := natBits v 0 40
    let out (r : Nat) : Bool := r < l || l + n ≤ r
    natBits v 40 24 == 0 && 1 ≤ l && l + n ≤ (w.group g).genmax && 1 ≤ eb && eb ≤ 256 * n &&
      (m.d == 0 || (out m.d.toNat && out (m.d.toNat + 1))) && (w.team.group g).station.isNone
/-- Open or close the station of one group. -/
def State.cpstOne (s : State) (w : Who) (m : CpstArgs) (g : Nat) : State :=
  if m.n.toNat == 0 then s.closeStation w.team.id g
  else
    let eb := natBits (w.s g m.a.toNat).toNat 0 40
    let o := { w.op s (.station g) with
      flag := w.flag m.lf, writes := vRefs g m.b.toNat m.n.toNat ++ pairRefs g m.d.toNat, scope := .clu }
    let st : Station := { base := m.b.toNat, n := m.n.toNat, eb := eb, landed := 0, d := m.d.toNat, op := o.id }
    ((s.putPair w.team.id g m.d.toNat (postedWord eb)).addOp o).onGroup w.team.id g fun x => { x with station := some st }
/-- CPST. -/
def execCpst (m : CpstArgs) (s : State) : Host.Outcome State Fault Refusal :=
  execOn .execOnly true (fun w => evenPair true m.d && w.present.all fun g => w.cpstOk m g)
    (fun w s => .ok (w.present.foldl (fun s g => s.cpstOne w m g) s)) s

/-! ### RLKQ (R293) -/

/-- The answer for a range, or the address of the migrating page that it waits for (R246). -/
def State.lockQuery (s : State) (c va n : Nat) : Except Nat Nat :=
  if n == 0 || 2 ^ 32 < n then .ok 0
  else match s.range c .load va n with
    | .bad .. => .ok 4
    | .mig _ _ page => .error (page.getD va)
    | .runs l =>
      let hit (dst : Bool) : Bool := l.any fun r => s.ops.any fun o => o.locks.any fun l =>
        l.2.2 == dst && l.1 ≤ (runSectors r).2 && (runSectors r).1 ≤ l.2.1
      .ok ((hit true).toNat + 2 * (hit false).toNat)
/-- RLKQ. -/
def execRlkq (d a b : SReg) (s : State) : Host.Outcome State Fault Refusal :=
  execPlain (fun w s =>
    let q (g : Nat) : Except Nat Nat := s.lockQuery w.team.ctx (w.s g a.toNat).toNat (w.s g b.toNat).toNat
    match w.present.findSome? fun g => match q g with | .error va => some va | .ok _ => none with
    | some va => .wait (s.waitMig w (BitVec.ofNat 64 va))
    | none => gformW w d.toNat (fun g => BitVec.ofNat 64 (match q g with | .ok n => n | .error _ => 0)) s) s

/-! ### Moving an item (R282, R295) -/

/-- Replace item `k` of an engine operation; the operation keeps its first failure. -/
def State.putItem (s : State) (o : Op) (e : EngOp) (k : Nat) (i : Item) : State :=
  s.putOp { o with
    fail := (match o.fail with | some f => some f | none => if i.cause != 0 then some (i.cause, i.va) else none),
    kind := .engine { e with items := e.items.set k i } }
/-- Charge an item's bytes to the engine that carries it (R373, R374). -/
def State.chargeItem (s : State) (o : Op) (i : Item) : State :=
  (((s.charge o.ctx (some o.team) 10 (coreDie i.engine) i.len).chargeRuns o.ctx (some o.team) i.src.known).chargeRuns o.ctx
    (some o.team) i.dst.known)
/-- The address of the first run whose path cannot be used (R305, R306). -/
def State.firstClosed (s : State) (c va : Nat) : List (Nat × Nat) → Option Nat
  | [] => none
  | r :: t => if keyPooled r.1 && !s.portOpen c (keyNode r.1) then some va else s.firstClosed c (va + r.2) t
/-- Consecutive sectors of an ascending list as runs. -/
def sectorRuns : List Nat → List (Nat × Nat)
  | [] => []
  | x :: t =>
    match sectorRuns t with
    | [] => [(32 * x, 32)]
    | r :: l => if r.1 == 32 * (x + 1) then (32 * x, r.2 + 32) :: l else (32 * x, 32) :: r :: l
/-- The POOL and TRAY sectors of a source whose bytes are asked of their homes: all of them for GET, else those without a valid lease copy
(R310, R319). -/
def State.asks (s : State) (keep : Bool) (runs : List (Nat × Nat)) : List Nat :=
  sortNat ((pooledSectors runs).eraseDups.filter fun x => !(keep && (s.copyOf x).isSome))
/-- Record that the item waits for `n` answers. -/
def Item.await (i : Item) (stage : ItemStage) (n : Nat) : Item := { i with stage := stage, pend := n, taken := true }
/-- Bring an item's source to hand: its bytes, or nothing while it is asked for in packets, or when a path is closed (R304, R305, R310). -/
def State.source (s : State) (o : Op) (e : EngOp) (k : Nat) (i : Item) (keep : Bool) (runs : List (Nat × Nat)) :
    State × Option (List Byte) :=
  match i.stage with
  | .writing => (s, none)
  | .reading => (s, some (overlay runs (s.viewBytes runs) i.data))
  | .idle =>
    match s.firstClosed o.ctx i.sva runs with
    | some va => (s.putItem o e k (i.failed 0x21 (BitVec.ofNat 64 va)), none)
    | none =>
      let s := s.flushRuns runs
      let ps := (sectorRuns (s.asks keep runs)).flatMap fun r => packetRuns r.1 r.2
      if ps.isEmpty then (s, some (s.viewBytes runs))
      else ((ps.foldl (fun s p => s.postTo o p.1 k (.read p.2)) s).putItem o e k (i.await .reading ps.length), none)
/-- Bytes cut along runs. -/
def cutBytes : List (Nat × Nat) → List Byte → List (Nat × List Byte)
  | [], _ => []
  | r :: t, b => (r.1, b.take r.2) :: cutBytes t (b.drop r.2)
/-- Write an item's bytes: those within the package at once, those of POOL and TRAY in packets, whose acknowledgements complete it (R286,
R304, R319). -/
def State.deliver (s : State) (o : Op) (e : EngOp) (k : Nat) (i : Item) (runs : List (Nat × Nat)) (bytes : List Byte) : State :=
  match s.firstClosed o.ctx i.dva runs with
  | some va => s.putItem o e k (i.failed 0x21 (BitVec.ofNat 64 va))
  | none =>
    let parts := cutBytes runs bytes
    let s := (parts.filter fun p => !keyPooled p.1).foldl (fun s p => s.engineWrite [(p.1, p.2.length)] p.2) (s.flushRuns runs)
    let ps := (parts.filter fun p => keyPooled p.1).flatMap fun p => (packetRuns p.1 p.2.length).map fun r => (r.1, (p.2.drop (r.1 - p.1)).take r.2)
    let s := s.chargeItem o i
    if ps.isEmpty then s.putItem o e k { i with done := true }
    else (ps.foldl (fun s p => s.postTo o p.1 k (.write p.2)) s).putItem o e k (i.await .writing ps.length)
/-- Move an item from memory to memory; it waits while a leaf migrates (R246). `keep` leaves lease copies of what it reads (R319). -/
def State.moveItem (s : State) (o : Op) (e : EngOp) (k : Nat) (i : Item) (keep : Bool) : State :=
  match i.src, i.dst with
  | .runs a, .runs b =>
    (match s.source o e k i keep a with
     | (s, none) => s
     | (s, some bytes) => s.deliver o e k i b bytes)
  | _, _ => s
/-- Read a piece of a multicast's source. -/
def State.readPiece (s : State) (o : Op) (e : EngOp) (k : Nat) (i : Item) : State :=
  match i.src with
  | .runs a =>
    (match s.source o e k i true a with
     | (s, none) => s
     | (s, some bytes) => (s.chargeItem o i).putItem o e k { i with done := true, val := leNat bytes })
  | _ => s

/-! ### CPMC_LANDING (R292) -/

/-- The landing is dropped (R292). -/
def landingDrops (t : Option Team) (grp roff n : Nat) : Bool :=
  match t with
  | none => true
  | some t =>
    match (t.group grp).station with
    | none => true
    | some st => st.n < roff + n || st.eb < st.landed + 256 * n
/-- The registers of a landing: byte 256k + 4i to lane i of register k. -/
def landingRegs (base : Nat) (bytes : List Byte) (n : Nat) : List (Nat × VReg) :=
  (List.range n).map fun k => (base + k, VReg.ofLanes fun i => BitVec.ofNat 32 (bytesAt bytes (256 * k + 4 * i) 4))
/-- Write a landing into its station, which closes when its bytes reach EB (R291). -/
def State.land (s : State) (tid grp roff n : Nat) (bytes : List Byte) : State :=
  match (s.teamAt tid).bind fun t => (t.group grp).station with
  | none => s
  | some st =>
    let s := s.putRegs tid grp (landingRegs (st.base + roff) bytes n)
    let s := s.onGroup tid grp fun x => { x with station := some { st with landed := st.landed + 256 * n } }
    if st.eb ≤ st.landed + 256 * n then s.closeStation tid grp else s
/-- CPMC_LANDING. -/
def execCpmcLanding (id pos : Nat) (s : State) : Host.Outcome State Fault Refusal :=
  match s.opAt id with
  | none => .next s
  | some o =>
    match o.kind with
    | .engine e =>
      match e.kind with
      | .cpmc grp roff n pieces =>
        let ps := e.items.take pieces
        match ((e.items.drop pieces).findIdx? fun i => i.lane == pos && !i.done) with
        | none => .next s
        | some j =>
          let k := pieces + j
          let i := e.items.getD k Item.none
          if !ps.all (fun i => i.done) then .next s
          else
            match firstFail ps with
            | some f => .next (s.putItem o e k (i.failed f.1 f.2))
            | none =>
              if landingDrops (s.teamAt i.peer) grp roff n then
                .next (s.putItem o e k { i with done := true, dropped := true })
              else
                let bytes := ps.flatMap fun p => natLe p.len p.val
                .next ((s.land i.peer grp roff n bytes).putItem o e k { i with done := true })
      | _ => .next s
    | _ => .next s

/-! ### COPY_FINAL_WORD (R285, R286, R295) -/

/-- Bytes that items delivered. -/
def itemBytes (l : List Item) : Nat := l.foldl (fun n i => if i.cause == 0 && !i.dropped then n + i.len else n) 0
/-- The word of one lane's item. -/
def laneWord (i : Item) : DWord := finalWord i.cause 0 (if i.cause == 0 then i.len else 0)
/-- The bytes of a failure map (R290). -/
def failureMap (items : List Item) (rows : Nat) : List Byte :=
  (List.range ((rows + 7) / 8)).map fun j => BitVec.ofNat 8 ((List.range 8).foldl (fun n b =>
    n + (if (items.getD (8 * j + b) Item.none).cause != 0 then 2 ^ b else 0)) 0)
/-- Write the failure map, if there is one; a map that cannot be written is a failure of the operation. It waits while its leaf migrates
(R246), or while a home would hold it (R311). -/
def State.writeMap (s : State) (o : Op) (map : Option (Nat × Rng)) (items : List Item) (rows : Nat) : Option (State × Option (Nat × DWord)) :=
  match map with
  | none => some (s, o.fail)
  | some r =>
    match r.2 with
    | .mig .. => none
    | .bad c va => some (s, match o.fail with | some f => some f | none => some (c, BitVec.ofNat 64 va))
    | .runs l => if s.writeHeld l then none else some (s.engineWrite l (failureMap items rows), o.fail)
/-- End an engine operation: its final word, and one imprecise fault if it failed (R295). -/
def State.finishEngine (s : State) (o : Op) (e : EngOp) (drop bytes : Nat) (fail : Option (Nat × DWord)) : State :=
  let s := s.putPair o.team e.group e.d (finalWord (match fail with | none => 0 | some f => f.1) drop bytes)
  let s := s.endOp o.id
  match fail with
  | none => s
  | some f => s.imprecise o f.1 f.2
/-- The final word of the copies of this chapter. -/
def State.copyFinal (s : State) (o : Op) (e : EngOp) : State :=
  match e.kind with
  | .cpl =>
    let s := (s.putLaneWords o.team e.d e.items laneWord).endOp o.id
    (match o.fail with | none => s | some f => s.imprecise o f.1 f.2)
  | .cpbox map rows =>
    (match s.writeMap o map e.items rows with
     | none => s
     | some r => r.1.finishEngine o e 0 (itemBytes e.items) r.2)
  | .cpmc _ _ _ pieces =>
    let ls := e.items.drop pieces
    s.finishEngine o e (ls.foldl (fun n i => if i.dropped then n + 2 ^ i.lane else n) 0) (itemBytes ls) o.fail
  | _ => s

/-! ### WORK_STEAL (R283) -/

/-- The items of CPL and COLL are the lanes of one work item for each group (R282, R355). -/
def EngKind.byGroup : EngKind → Bool
  | .cpl => true
  | .coll .. => true
  | _ => false
/-- The item is work of an engine; the landings of CPMC are none of their own (R282). -/
def EngKind.work : EngKind → Nat → Bool
  | .cpmc _ _ _ pieces, k => k < pieces
  | _, _ => true
/-- The items of an operation that engine `n` has still to take, with their numbers. -/
def EngOp.untaken (e : EngOp) (n : Nat) : List (Item × Nat) :=
  e.items.zipIdx.filter fun x => !x.1.done && !x.1.taken && x.1.engine == n && e.kind.work x.2
/-- Work items of an engine that nobody has taken and that are not done (R283). -/
def State.untaken (s : State) (engine : Nat) : Nat :=
  s.ops.foldl (fun n o => match o.kind with
    | .engine e =>
      let l := e.untaken engine
      n + (if e.kind.byGroup then ((l.map fun x => x.1.g).eraseDups).length else l.length)
    | _ => n) 0
/-- The engine of a list with the most untaken items, the lowest among equals (notes/assumptions/85.md). -/
def State.busiest (s : State) : List Nat → Option Nat
  | [] => none
  | x :: t =>
    match s.busiest t with
    | none => if s.untaken x == 0 then none else some x
    | some y => if s.untaken y ≤ s.untaken x && s.untaken x != 0 then some x else some y
/-- WORK_STEAL: an engine with no item takes the oldest untaken work item of the busiest engine of its die. -/
def execWorkSteal (engine : Nat) (s : State) : Host.Outcome State Fault Refusal :=
  if s.untaken engine != 0 then .next s
  else
    match s.busiest ((List.range 48).map fun k => engine / 48 * 48 + k) with
    | none => .next s
    | some v =>
      match s.ops.find? fun o => match o.kind with | .engine e => !(e.untaken v).isEmpty | _ => false with
      | none => .next s
      | some o =>
        match o.kind with
        | .engine e =>
          (match e.untaken v with
           | [] => .next s
           | (i, k) :: _ =>
             let mine := (e.untaken v).map fun x => x.2
             let take (x : Item × Nat) : Item :=
               if mine.contains x.2 && (x.2 == k || (e.kind.byGroup && x.1.g == i.g)) then { x.1 with engine := engine, taken := true } else x.1
             .next (s.putOp { o with kind := .engine { e with items := e.items.zipIdx.map take } }))
        | _ => .next s

end Sys2Proof.Machine
end

