-- ==== Sys2Proof/Machine/Fabric.lean ====
section
/-! DEFINITION. The fabric instructions (R317 to R322): issuing PUT, PUTSIG, GET, REDM, REDR and TSRD, moving their items, and the
phases of PUTSIG. -/

namespace Sys2Proof.Machine
open Sys2Proof

/-! ### PUT, PUTSIG and GET (R318, R319) -/

/-- A transfer descriptor. -/
structure Transfer where
  laddr : Nat
  raddr : Nat
  len : Nat
  pkg : Nat
  remote : Bool
  high : Nat
  caddr : Nat
  deriving DecidableEq, Repr
/-- Read the descriptor of a group. -/
def Who.transfer (w : Who) (g : Nat) (a : SReg) : Transfer :=
  let r (k : Nat) : Nat := (w.s g (a.toNat + k)).toNat
  { laddr := r 0, raddr := r 1, len := natBits (r 2) 0 32, pkg := natBits (r 2) 32 6, remote := natBits (r 2) 38 1 == 1,
    high := natBits (r 2) 39 25, caddr := r 3 }
/-- The operand limits of a descriptor (R318): `cw` is the counter width of PUTSIG. -/
def Transfer.ok (x : Transfer) (s : State) (cw : Option Nat) : Bool :=
  x.len % 32 == 0 && x.laddr % 32 == 0 && x.raddr % 32 == 0 && x.high == 0 &&
    (match cw with | none => x.caddr == 0 | some n => x.caddr % n == 0) &&
    (!x.remote || (x.pkg != s.pkgNo && x.pkg < s.host.pkgs && natBits x.raddr 51 1 == 0 && natBits x.caddr 51 1 == 0))
/-- One 4 KiB item of a transfer (R319): with REMOTE = 0 the remote side must lie in POOL or TRAY (R318). -/
def State.transferItem (s : State) (w : Who) (put : Bool) (x : Transfer) (k : Nat) : Item :=
  let n := min 4096 (x.len - 4096 * k)
  let la := (x.laddr + 4096 * k) % 2 ^ 64
  let ra := (x.raddr + 4096 * k) % 2 ^ 64
  let c := w.team.ctx
  let here := s.range c (if put then .load else .store) la n
  let there := if x.remote then .runs [] else (s.range c (if put then .store else .load) ra n).pooled ra
  ({ Item.none with len := n, engine := w.team.core, raddr := ra, peer := x.pkg, sva := (if put then la else ra),
                    dva := (if put then ra else la), src := (if put then here else there),
                    dst := (if put then there else here) } : Item).judge
/-- The items of a transfer. -/
def State.transferItems (s : State) (w : Who) (put : Bool) (x : Transfer) : List Item :=
  (List.range ((x.len + 4095) / 4096)).map fun k => s.transferItem w put x k
/-- The package a transfer goes to, none for POOL and TRAY. -/
def Transfer.target (x : Transfer) : Option Nat := if x.remote then some x.pkg else none
/-- The plan of a group's transfer. -/
def State.transferPlan (s : State) (w : Who) (put : Bool) (kind : EngKind) (d g col : Nat) (x : Transfer) : Plan :=
  planOf kind w.team.core g d x.len col (s.transferItems w put x)
/-- PUT. -/
def execPut (m : PutArgs) (s : State) : Host.Outcome State Fault Refusal :=
  execOn .execOnly true
    (fun w => evenPair true m.d && m.a.toNat + 3 ≤ 255 && (w.qual m.msk).all fun g => (w.transfer g m.a).ok s none)
    (fun w s => s.issuePlans w 0 (if m.sys then .sys else .pod) m.rel m.lf w.postPair
      ((w.qual m.msk).map fun g =>
        let x := w.transfer g m.a
        s.transferPlan w true (.put x.target none 0) m.d.toNat g m.col.toNat x)) s
/-- The counter of a PUTSIG (R318): at the remote package it is translated there. -/
def State.sigCounter (s : State) (w : Who) (x : Transfer) (n : Nat) (add : Nat) : SigCounter :=
  { range := if x.remote then .runs [] else (s.rangeOn w.team.ctx .atomic n x.caddr n).pooled x.caddr,
    raddr := x.caddr, w := n, add := add % 256 ^ n }
/-- PUTSIG. -/
def execPutsig (m : PutArgs) (w64 : Bool) (b : SReg) (s : State) : Host.Outcome State Fault Refusal :=
  let n := if w64 then 8 else 4
  execOn .execOnly true
    (fun w => evenPair true m.d && m.a.toNat + 3 ≤ 255 && (w.qual m.msk).all fun g => (w.transfer g m.a).ok s (some n))
    (fun w s => s.issuePlans w 0 (if m.sys then .sys else .pod) m.rel m.lf w.postPair
      ((w.qual m.msk).map fun g =>
        let x := w.transfer g m.a
        s.transferPlan w true (.put x.target (some (s.sigCounter w x n (w.s g b.toNat).toNat)) 0) m.d.toNat g m.col.toNat x)) s
/-- GET. -/
def execGet (m : PutArgs) (s : State) : Host.Outcome State Fault Refusal :=
  execOn .execOnly true
    (fun w => evenPair true m.d && m.a.toNat + 3 ≤ 255 && (w.qual m.msk).all fun g => (w.transfer g m.a).ok s none)
    (fun w s => s.issuePlans w 0 (if m.sys then .sys else .pod) false m.lf w.postPair
      ((w.qual m.msk).map fun g =>
        let x := w.transfer g m.a
        s.transferPlan w false (.get x.target) m.d.toNat g 0 x)) s

/-! ### Moving transfers (R303, R304, R319) -/

/-- The packets of an item to another package: at most 256 bytes each, within 4 KiB blocks of the remote address (R301). -/
def itemPackets (i : Item) : List (Nat × Nat) := packetRuns i.raddr i.len
/-- The address of the first packet of an item whose route cannot be used (R305, R306). -/
def State.routeClosed (s : State) (c pkg : Nat) (ps : List (Nat × Nat)) : Option Nat :=
  (ps.find? fun p => !s.portOpen c (s.routeNode pkg p.1)).map fun p => p.1
/-- Move an item of PUT: to POOL and TRAY by the paths of the nodes, to a package by its routes. -/
def State.movePut (s : State) (o : Op) (e : EngOp) (remote : Option Nat) (k : Nat) (i : Item) : State :=
  match remote with
  | none => s.moveItem o e k i true
  | some pkg =>
    match i.src with
    | .runs a =>
      let ps := itemPackets i
      (match s.routeClosed o.ctx pkg ps with
       | some va => s.putItem o e k (i.failed 0x21 (BitVec.ofNat 64 va))
       | none =>
         match s.source o e k i true a with
         | (s, none) => s
         | (s, some bytes) =>
           let s := ps.foldl (fun s p => s.postRoute o pkg p.1 k (.write ((bytes.drop (p.1 - i.raddr)).take p.2))) (s.chargeItem o i)
           s.putItem o e k (i.await .writing ps.length))
    | _ => s
/-- Move an item of GET: each read gives the home's value, and no lease copy stays (R319). The bytes that a package sends are kept under
their remote addresses until all have come. -/
def State.moveGet (s : State) (o : Op) (e : EngOp) (remote : Option Nat) (k : Nat) (i : Item) : State :=
  match remote with
  | none => s.moveItem o e k i false
  | some pkg =>
    match i.dst with
    | .runs b =>
      (match i.stage with
       | .writing => s
       | .reading => s.deliver o e k i b (overlay [(i.raddr, i.len)] (List.replicate i.len 0) i.data)
       | .idle =>
         let ps := itemPackets i
         match s.routeClosed o.ctx pkg ps with
         | some va => s.putItem o e k (i.failed 0x21 (BitVec.ofNat 64 va))
         | none => (ps.foldl (fun s p => s.postRoute o pkg p.1 k (.read p.2)) s).putItem o e k (i.await .reading ps.length))
    | _ => s
/-- Ports of the paths and routes that a PUT's data used (R319). -/
def State.putPorts (s : State) (remote : Option Nat) (items : List Item) : List Nat :=
  (items.filter fun i => i.cause == 0).foldl (fun l i =>
    let ps := match remote with
      | some pkg => (itemPackets i).map fun (p : Nat × Nat) => s.routeNode pkg p.1
      | none => pooledNodes i.dst.known
    ps.foldl (fun l p => if l.contains p then l else l ++ [p]) l) []
/-- Send the increment of a PUTSIG (R319): by the counter's own path or route. A counter that cannot be reached fails. -/
def State.sendIncrement (s : State) (o : Op) (e : EngOp) (remote : Option Nat) (c : SigCounter) : State :=
  let ops := [(0, 0, false, c.w, c.add, 0)]
  let stop (cause : Nat) : State :=
    s.putOp { o with kind := .engine { e with kind := .put remote (some c) 3 },
                     fail := match o.fail with | some f => some f | none => some (cause, BitVec.ofNat 64 c.raddr) }
  match remote with
  | some pkg =>
    if !s.portOpen o.ctx (s.routeNode pkg c.raddr) then stop 0x21
    else
      (s.postRoute o pkg c.raddr 0 (.atomic ops)).putOp { o with kind := .engine { e with kind := .put remote (some c) 2 } }
  | none =>
    match c.range with
    | .bad cause _ => stop cause
    | .mig .. => s
    | .runs [] => stop 0x21
    | .runs (r :: _) =>
      if !s.portOpen o.ctx (keyNode r.1) then stop 0x21
      else
        (s.postTo o r.1 0 (.atomic ops)).putOp { o with kind := .engine { e with kind := .put remote (some c) 2 } }
/-- PUTSIG goes on: markers once every item is accounted for, the increment once every marker is acknowledged (R319). -/
def State.putAdvance (s : State) (id : Nat) : State :=
  match s.opAt id with
  | none => s
  | some o =>
    match o.kind with
    | .engine e =>
      match e.kind with
      | .put remote (some c) 0 =>
        if !e.items.all (fun i => i.done) || !o.markers.isEmpty || !s.depsDone o then s
        else
          let o := { o with markers := s.putPorts remote e.items, kind := .engine { e with kind := .put remote (some c) 1 } }
          if o.markers.isEmpty then (s.putOp o).sendIncrement o { e with kind := .put remote (some c) 1 } remote c else s.putOp o
      | .put remote (some c) 1 => if o.markers.isEmpty then s.sendIncrement o e remote c else s
      | _ => s
    | _ => s

/-! ### REDM and REDR (R320, R321) -/

/-- The claim of a slot that this package has applied for a context (R362). -/
def State.claimOf (s : State) (ctx node slot : Nat) : Option SlotClaim :=
  s.claims.find? fun c => c.node == node && c.slot == slot && c.ctx == ctx
/-- Bytes of a source element of REDM (R320). -/
def redmWidth : RedmSrc → Nat
  | .f32 => 4 | .bf16 => 2 | .i32 => 4 | .acc _ => 16
/-- Bytes of a destination element of REDR (R321). -/
def redrWidth : RedrTy → Nat
  | .f32 => 4 | .bf16 => 2 | .i32 => 4
/-- An operation that fails at once (R320, R321): BYTES 0, FAIL, an imprecise fault. -/
def State.failAtOnce (s : State) (w : Who) (d g cause : Nat) (va : DWord) : State :=
  (s.putPair w.team.id g d (finalWord cause 0 0)).imprecise (w.op s .fence) cause va
/-- The operand limits of a REDM descriptor (R320). -/
def Who.redmOk (w : Who) (m : RedmArgs) (g : Nat) : Bool :=
  let r (k : Nat) : Nat := (w.s g (m.a.toNat + k)).toNat
  (match m.src with
   | .acc c => w.holds c && r 0 == 0
   | _ => r 0 % 32 == 0) && natBits (r 1) 27 37 == 0 && natBits (r 2) 13 51 == 0
/-- The plan of one group's contribution, none when the package has applied no claim of the slot for the context (R320). -/
def State.redmPlan (s : State) (w : Who) (m : RedmArgs) (g : Nat) : Option Plan :=
  let r (k : Nat) : Nat := (w.s g (m.a.toNat + k)).toNat
  let slot := natBits (r 1) 0 12
  let node := natBits (r 1) 12 5
  let count := natBits (r 2) 0 13
  (s.claimOf w.team.ctx node slot).map fun c =>
    let n := count * redmWidth m.src
    let src := match m.src with | .acc _ => Rng.runs [] | _ => s.range w.team.ctx .load (r 0) n
    planOf (.redm node slot (natBits (r 1) 17 10) c.recNo m.src count) w.team.core g m.d.toNat n 0
      [({ Item.none with len := n, engine := w.team.core, peer := node, raddr := r 0, sva := r 0, src := src } : Item).judge]
/-- Issue the reductions that have a claim; the others fail at once with cause 0x21 (R320, R321; notes/assumptions/67.md). -/
def State.issueReds (s : State) (w : Who) (a : SReg) (d : VReg11) (gs : List Nat) (sys rel lf : Bool) (plan : Nat → Option Plan) : Result :=
  match s.issuePlans w 0 (if sys then .sys else .pod) rel lf w.postPair (gs.filterMap plan) with
  | .ok s' => .ok ((gs.filter fun g => (plan g).isNone).foldl (fun s g => s.failAtOnce w d.toNat g 0x21 (w.s g a.toNat)) s')
  | r => r
/-- REDM. -/
def execRedm (m : RedmArgs) (s : State) : Host.Outcome State Fault Refusal :=
  execOn .execOnly true
    (fun w => evenPair true m.d && m.a.toNat + 2 ≤ 255 && (w.qual m.msk).all fun g => w.redmOk m g)
    (fun w s => s.issueReds w m.a m.d (w.qual m.msk) m.sys m.rel m.lf (s.redmPlan w m)) s
/-- RM of a REDR descriptor (R42). -/
def roundOf (n : Nat) : Round := if n == 0 then .rne else if n == 1 then .rz else if n == 2 then .rup else if n == 3 then .rdn else .rna
/-- The operand limits of a REDR descriptor (R321). -/
def Who.redrOk (w : Who) (m : RedrArgs) (g : Nat) : Bool :=
  let r (k : Nat) : Nat := (w.s g (m.a.toNat + k)).toNat
  r 0 % 32 == 0 && natBits (r 1) 17 47 == 0 && natBits (r 2) 0 3 ≤ 4 && natBits (r 2) 4 60 == 0
/-- The plan of one group's REDR, none when the package has applied no claim. -/
def State.redrPlan (s : State) (w : Who) (m : RedrArgs) (g : Nat) : Option Plan :=
  let r (k : Nat) : Nat := (w.s g (m.a.toNat + k)).toNat
  let slot := natBits (r 1) 0 12
  let node := natBits (r 1) 12 5
  (s.claimOf w.team.ctx node slot).map fun c =>
    let n := c.elems * redrWidth m.ty
    planOf (.redr node slot c.recNo c.rankMode c.anchor c.elems m.ty (roundOf (natBits (r 2) 0 3)) (natBits (r 2) 3 1 == 1))
      w.team.core g m.d.toNat n 0
      [({ Item.none with len := n, engine := w.team.core, peer := node, raddr := r 0, dva := r 0, dst := s.range w.team.ctx .store (r 0) n } : Item).judge]
/-- REDR. -/
def execRedr (m : RedrArgs) (s : State) : Host.Outcome State Fault Refusal :=
  execOn .execOnly true
    (fun w => evenPair true m.d && m.a.toNat + 2 ≤ 255 && (w.qual m.msk).all fun g => w.redrOk m g)
    (fun w s => s.issueReds w m.a m.d (w.qual m.msk) m.sys false m.lf (s.redrPlan w m)) s
/-- A key at a node, to which slot packets go. -/
def nodeKey (n : Nat) : Nat := flatKey spPOOL (n * 2 ^ 42)
/-- A value as a contribution element: mantissa, exponent, flags, with [5] marking −0 (R315, R320). -/
def elemOf (v : FVal) : Int × Int × Nat :=
  match v with
  | .nan => (0, 0, 4)
  | .inf n => (0, 0, if n then 16 else 8)
  | .fin n m e => (if n then -(m : Int) else (m : Int), e, if n && m == 0 then 32 else 0)
/-- The elements that REDM contributes from memory bytes. -/
def redmElems (src : RedmSrc) (count : Nat) (bytes : List Byte) : List (Int × Int × Nat) :=
  (List.range count).map fun k =>
    match src with
    | .f32 => elemOf (fltDecode .f32 (bytesAt bytes (4 * k) 4))
    | .bf16 => elemOf (fltDecode .bf16 (bytesAt bytes (2 * k) 2))
    | _ => (natSigned 32 (bytesAt bytes (4 * k) 4), 0, 0)
/-- The elements that REDM contributes from a tile (R320). -/
def tileElems (t : Tile) (count : Nat) : List (Int × Int × Nat) :=
  (List.range count).map fun k =>
    let e := t.at (k / 64) (k % 64)
    match e.cls with
    | .nan => (0, 0, 4)
    | .inf n => (0, 0, if n then 16 else 8)
    | .overflow => (0, 0, 2)
    | .fin v => (v, t.anchor - 64, e.inx.toNat)
/-- Elements cut into packets of 8 data flits at most, `w` bytes for each: the number of the first, and the elements (R301). -/
def elemPackets {α : Type} (w : Nat) (l : List α) : List (Nat × List α) :=
  let n := max 1 (256 / max 1 w)
  (List.range (max 1 ((l.length + n - 1) / n))).map fun k => (n * k, (l.drop (n * k)).take n)
/-- Send REDM's contribution. -/
def State.sendRedm (s : State) (o : Op) (e : EngOp) (k : Nat) (i : Item) (node slot rank recNo : Nat) (src : RedmSrc)
    (l : List (Int × Int × Nat)) : State :=
  if !s.portOpen o.ctx node then s.putItem o e k (i.failed 0x21 (BitVec.ofNat 64 i.raddr))
  else
    let acc := match src with | .acc _ => true | _ => false
    let ps := elemPackets (redmWidth src) l
    let s := ps.foldl (fun s p => s.postTo o (nodeKey node) k (.contrib slot rank acc (redmWidth src) p.1 l.length p.2 recNo)) s
    s.putItem o e k (i.await .writing ps.length)
/-- Carry out REDM: its elements are read from memory, or from the tile once the writes of R173 are done. -/
def State.moveRedm (s : State) (o : Op) (e : EngOp) (k : Nat) (i : Item) (node slot rank recNo : Nat) (src : RedmSrc)
    (count : Nat) : State :=
  match src with
  | .acc a =>
    match s.teamAt o.team with
    | none => s.putItem o e k (i.failed 0x21 0)
    | some t => s.sendRedm o e k i node slot rank recNo src (tileElems (t.tile a.toNat) count)
  | _ =>
    match i.src with
    | .runs a =>
      (match s.source o e k i true a with
       | (s, none) => s
       | (s, some bytes) => (s.chargeItem o i).sendRedm o e k i node slot rank recNo src (redmElems src count bytes))
    | _ => s
/-- The destination type of REDR as a numeric type. -/
def redrNum : RedrTy → NumTy
  | .f32 => .flt .f32 | .bf16 => .flt .bf16 | .i32 => .int .i32
/-- One element that REDR writes: its pattern and FSTAT bits (R314, R315, R321). -/
def redrElem (rankMode : Bool) (anchor : Int) (ty : RedrTy) (rm : Round) (sat : Bool) (x : Nat × Nat) : Nat × FBits :=
  if rankMode then
    let r := convert (redrNum ty) (.flt .f32) rm sat 0 x.1
    (intBits (8 * redrWidth ty) r.1,
      r.2 ||| fIf (natBits x.2 0 1 == 1) fIX ||| fIf (natBits x.2 1 1 == 1) fOF ||| fIf (natBits x.2 2 1 == 1) fNV)
  else
    let e : Elem := { (Elem.zero.orFlags x.2) with s := BitVec.ofNat 96 x.1, inx := natBits x.2 0 1 == 1, ovf := natBits x.2 1 1 == 1 }
    let r := resolveElem (redrNum ty) rm sat anchor e
    (r.1 % 256 ^ redrWidth ty, r.2)
/-- The elements of a slot that a request has brought, converted (R321). -/
def Item.redVals (i : Item) (rankMode : Bool) (anchor : Int) (elems : Nat) (ty : RedrTy) (rm : Round) (sat : Bool) : List (Nat × FBits) :=
  (List.range elems).map fun k => redrElem rankMode anchor ty rm sat (cellGet (0, 0) i.elems k)
/-- Carry out REDR (R321): it asks for the slot, and writes its elements once they have come. -/
def State.moveRedr (s : State) (o : Op) (e : EngOp) (k : Nat) (i : Item) (node slot recNo : Nat) (rankMode : Bool) (anchor : Int)
    (elems : Nat) (ty : RedrTy) (rm : Round) (sat : Bool) : State :=
  match i.dst with
  | .runs b =>
    (match i.stage with
     | .writing => s
     | .reading => s.deliver o e k i b ((i.redVals rankMode anchor elems ty rm sat).flatMap fun v => natLe (redrWidth ty) v.1)
     | .idle =>
       if !s.portOpen o.ctx node then s.putItem o e k (i.failed 0x21 (BitVec.ofNat 64 i.raddr))
       else (s.postTo o (nodeKey node) k (.redRead slot recNo)).putItem o e k (i.await .reading 1))
  | _ => s
/-- The FSTAT bits of a REDR at its completion (R75, R321): in a regioned kernel into P(g) of the fragments that hold its lanes (R217), of a
saved team into its image, else into the committed word. -/
def State.raiseRed (s : State) (o : Op) (g : Nat) (bits : FBits) : State :=
  let open_ (f : Fragment) : Bool := f.mode == .normal && (maskAt f.m g &&& maskAt o.lanes g) != 0
  match s.teamAt o.team with
  | none => s
  | some t =>
    if bits == 0 then s
    else if t.kernel.regioned && !t.imaged && t.frags.any open_ then
      s.putTeam { t with frags := t.frags.map fun f => if open_ f then
        { f with region := { f.region with pend := f.region.pend.set g (f.region.pend.getD g 0 ||| bits) } } else f }
    else s.onLate o.team g fun x => { x with fstat := x.fstat ||| bits }

/-! ### TSRD (R322) -/

/-- A read that R227 makes 0 in deterministic mode: DETREAD is set. -/
def State.setDetRead (s : State) (w : Who) : State := s.onTeam w.team.id fun t => { t with detRead := true }
/-- The checks of TSRD.H in every group: keys, or what stops it. -/
def State.tsrdKeys (s : State) (w : Who) (a : SReg) : List Nat → Except (Option (Nat × DWord) × DWord) (List (Nat × Nat))
  | [] => .ok []
  | g :: t =>
    let va := w.s g a.toNat
    match s.check w.team.ctx .load 1 va.toNat with
    | .fault c => .error (some (c, va), va)
    | .mig => .error (none, va)
    | .ok key _ =>
      if !keyPooled key then .error (some (0x21, va), va)
      else match State.tsrdKeys s w a t with
        | .ok l => .ok ((g, key) :: l)
        | .error e => .error e
/-- TSRD.H: it queries the home; the result comes with the reply. -/
def execTsrdH (lf : Bool) (d a : SReg) (msk : MaskField) (s : State) : Host.Outcome State Fault Refusal :=
  execOn .execOnly true (fun _ => true) (fun w s =>
    match s.tsrdKeys w a (w.qual msk) with
    | .error (some f, _) => .trap f.1 f.2
    | .error (none, va) => .wait (s.waitMig w va)
    | .ok l =>
      if w.determ then .ok ((if l.isEmpty then s else s.setDetRead w).setQual w msk d.toNat fun _ => 0)
      else if !s.pathTurn s.nextOp w.team.id w.thrId w.frag.m (l.map fun x => (x.2, 1)) then .wait s
      else
        .ok (l.foldl (fun s x =>
          let o := { w.op s (.tsrd x.1 d.toNat x.2 (w.s x.1 a.toNat)) with
            flag := w.flag lf, writes := if d == 0 then [] else [.s x.1 d.toNat], scope := .pod, pend := 1, sent := true }
          (s.addOp o).postTo o x.2 0 .tsQuery) s)) s
/-- TSRD.P: pts. -/
def execTsrdP (_lf : Bool) (d : SReg) (msk : MaskField) (s : State) : Host.Outcome State Fault Refusal :=
  execOn .execOnly true (fun _ => true) (fun w s =>
    if (w.qual msk).isEmpty then .ok s
    else if w.determ then .ok ((s.setDetRead w).setQual w msk d.toNat fun _ => 0)
    else .ok (s.setQual w msk d.toNat fun _ => s.pts.setWidth 64)) s

end Sys2Proof.Machine
end

