-- ==== Sys2Proof/Machine/Collect.lean ====
section
/-! DEFINITION. Collective operations and the radix-sort unit (R353 to R358). -/

namespace Sys2Proof.Machine
open Sys2Proof

/-! ### COLL (R353 to R356) -/

/-- The operation of COLL as an atomic of R273 applies it: codes 16 and above. -/
def collCode : CollOp → Nat
  | .put => 16 | .add => 17 | .min => 18 | .max => 19
/-- The lanes of COLL as items (R354). A misaligned address fails at issue (R241); a peer outside the pod is cause 0x21 (R356). A lane for
this package is translated at issue, as the peer's tables would (R243, R318). -/
def State.collItems (s : State) (w : Who) (m : CollArgs) : List Item :=
  let n := tyWidth m.ty / 8
  (w.qual m.msk).flatMap fun g => (maskLanes (w.eff m.msk g)).map fun i =>
    let va := w.laneVa g m.a none m.off i
    let peer := natBits (w.laneNat g false m.c.toNat i) 0 6
    let dst := if va.toNat % n != 0 then .bad 0x22 va.toNat
      else if s.host.pkgs ≤ peer then .bad 0x21 va.toNat
      else if peer == s.pkgNo then (s.range w.team.ctx .atomic va.toNat n).inPackage va.toNat
      else .runs []
    ({ Item.none with len := n, engine := w.team.core, g := g, lane := i, raddr := va.toNat, dva := va.toNat, dst := dst,
                      peer := peer, val := w.laneNat g (n == 8) m.b.toNat i } : Item).judge
/-- COLL: the shape fault of its completion pair comes before anything else (R353). -/
def execColl (m : CollArgs) (s : State) : Host.Outcome State Fault Refusal :=
  let n := tyWidth m.ty / 8
  execOn .execOnly true (fun _ => evenPair true m.d && evenPair (n == 8) m.b) (fun w s =>
    let gs := w.qual m.msk
    match gs.find? fun g => m.d != 0 && w.generalBad g m.d.toNat 2 with
    | some g => .trap 0x06 (BitVec.ofNat 64 g)
    | none =>
      if gs.isEmpty then .ok s
      else
        let items := s.collItems w m
        let kind := EngKind.coll m.op (m.ty == .i32 || m.ty == .i64) n
        let p := { planOf kind w.team.core 0 m.d.toNat (n * items.length) m.col.toNat items with
                   writes := gs.flatMap fun g => pairRefs g m.d.toNat }
        s.issuePlans w gs.length (if m.sys then .sys else .pod) m.rel m.lf
          (fun s p => s.putLaneWords w.team.id m.d.toNat p.e.items fun i => postedWord i.len) [p]) s
/-- One lane applied at the issuing package (R354): none while its leaf migrates. -/
def State.collLocal (s : State) (o : Op) (code : Nat) (signed : Bool) (i : Item) : Option (State × Item) :=
  match i.dst with
  | .runs (r :: _) =>
    some (((s.flushRuns [(r.1, i.len)]).homeAtomic o.ctx r.1 i.len code signed i.val 0).1, { i with done := true })
  | _ => none
/-- Up to 16 elements at a time (R355). -/
def sixteens {α : Type} : Nat → List α → List (List α)
  | 0, _ => []
  | fuel + 1, l => if l.isEmpty then [] else l.take 16 :: sixteens fuel (l.drop 16)
/-- The packets of a group's lanes for other packages: item numbers sorted by peer and 4 KiB block, in ascending lane order, 16 at most in a
packet (R355). The packets of one route so leave in ascending address order (R304). -/
def collBatches (l : List (Nat × Item)) : List (List (Nat × Item)) :=
  let keys := sortNat (l.map fun x => x.2.peer * 2 ^ 52 + x.2.raddr / 4096).eraseDups
  keys.flatMap fun k => sixteens l.length (l.filter fun x => x.2.peer * 2 ^ 52 + x.2.raddr / 4096 == k)
/-- Send one packet of a COLL; its lanes carry the number of its first item, plus one, until the reply comes. -/
def State.collSend (s : State) (o : Op) (e : EngOp) (code : Nat) (signed : Bool) (b : List (Nat × Item)) : State × EngOp :=
  match b with
  | [] => (s, e)
  | (k, i) :: _ =>
    let block := i.raddr / 4096 * 4096
    if !s.portOpen o.ctx (s.routeNode i.peer block) then
      (s, { e with items := b.foldl (fun l x => l.set x.1 (x.2.failed 0x21 (BitVec.ofNat 64 x.2.raddr))) e.items })
    else
      let ops := b.map fun x => (x.2.raddr - block, code, signed, x.2.len, x.2.val, 0)
      (s.postRoute o i.peer block k (.atomic ops),
        { e with items := b.foldl (fun l x => l.set x.1 { x.2 with taken := true, pend := k + 1 }) e.items })
/-- Charge the lanes of a COLL that have completed (R373, R374). -/
def State.chargeColl (s : State) (o : Op) (before after : List Item) : State :=
  (before.zip after).foldl (fun s x => if x.2.done && !x.1.done then s.charge o.ctx (some o.team) 10 (coreDie x.2.engine) x.2.len else s) s
/-- Carry the group of item `k` of a COLL: lanes of this package are applied in ascending lane order, the others are sent. -/
def State.moveColl (s : State) (o : Op) (e : EngOp) (k : Nat) (op : CollOp) (signed : Bool) : State :=
  let g := (e.items.getD k Item.none).g
  let mine := (e.items.zipIdx.map fun x => (x.2, x.1)).filter fun x => x.2.g == g && !x.2.done && x.2.pend == 0
  let here := mine.filter fun x => x.2.peer == s.pkgNo
  let there := mine.filter fun x => x.2.peer != s.pkgNo
  let r := here.foldl (fun (acc : State × EngOp) x =>
    match acc.1.collLocal o (collCode op) signed x.2 with
    | none => acc
    | some y => (y.1, { acc.2 with items := acc.2.items.set x.1 y.2 })) (s, e)
  let r := (collBatches there).foldl (fun (acc : State × EngOp) b => acc.1.collSend o acc.2 (collCode op) signed b) r
  (r.1.chargeColl o e.items r.2.items).putOp { o with fail := (match o.fail with | some f => some f | none => firstFail r.2.items), kind := .engine r.2 }
/-- The reply of a COLL packet: its lanes are done, or failed with the cause of the peer (R356). -/
def collReply (items : List Item) (k cause : Nat) : List Item :=
  items.map fun i =>
    if i.pend != k + 1 || i.done then i
    else if cause == 0 then { i with done := true, pend := 0 }
    else { i.failed cause (BitVec.ofNat 64 i.raddr) with pend := 0 }

/-! ### RSORT (R357, R358) -/

/-- A sort descriptor. -/
structure SortDesc where
  keys : Nat
  perm : Nat
  offs : Nat
  n : Nat
  e : Nat
  high : Nat
  deriving DecidableEq, Repr
/-- Read the descriptor of a group. -/
def Who.sortDesc (w : Who) (g : Nat) (a : SReg) : SortDesc :=
  let r (k : Nat) : Nat := (w.s g (a.toNat + k)).toNat
  { keys := r 0, perm := r 1, offs := r 2, n := natBits (r 3) 0 32, e := natBits (r 3) 32 16, high := natBits (r 3) 48 16 }
/-- Two ranges have a byte in common. -/
def rangesMeet (a n b m : Nat) : Bool := a < b + m && b < a + n
/-- The operand limits of a descriptor (R357). -/
def SortDesc.ok (x : SortDesc) (w : Nat) : Bool :=
  x.keys % 32 == 0 && x.perm % 32 == 0 && x.offs % 32 == 0 && 1 ≤ x.n && x.n ≤ 2 ^ 24 && 1 ≤ x.e && x.e ≤ 4096 && x.high == 0 &&
    !rangesMeet x.keys (w * x.n) x.perm (4 * x.n) && !rangesMeet x.keys (w * x.n) x.offs (4 * (x.e + 1)) &&
    !rangesMeet x.perm (4 * x.n) x.offs (4 * (x.e + 1))
/-- The plan of one group's sort: KEYS a source, PERM and OFFS destinations; a failure of any of them fails the item (R358). -/
def State.sortPlan (s : State) (w : Who) (n16 : Bool) (d g : Nat) (x : SortDesc) : Plan :=
  let c := w.team.ctx
  let offs := s.range c .store x.offs (4 * (x.e + 1))
  let perm := match offs with | .bad cause va => .bad cause va | _ => s.range c .store x.perm (4 * x.n)
  let i := ({ Item.none with len := 4 * x.n + 4 * (x.e + 1), engine := w.team.core, sva := x.keys, dva := x.perm,
                             src := s.range c .load x.keys ((if n16 then 2 else 4) * x.n), dst := perm } : Item).judge
  planOf (.rsort n16 x.n x.e (x.offs, if i.cause != 0 then .runs [] else offs)) w.team.core g d i.len 0 [i]
/-- RSORT. -/
def execRsort (m : RsortArgs) (s : State) : Host.Outcome State Fault Refusal :=
  execOn .execOnly true
    (fun w => evenPair true m.d && m.a.toNat + 3 ≤ 255 &&
      (w.qual m.msk).all fun g => (w.sortDesc g m.a).ok (if m.n16 then 2 else 4))
    (fun w s => s.issuePlans w (w.qual m.msk).length m.scope false m.lf w.postPair
      ((w.qual m.msk).map fun g => s.sortPlan w m.n16 m.d.toNat g (w.sortDesc g m.a))) s
/-- The keys k(t) of R358. -/
def sortKeys (w n e : Nat) (bytes : List Byte) : List Nat := (List.range n).map fun t => min (bytesAt bytes (w * t) w) e
/-- PERM: the tokens in order of key, ascending among equals (R358). -/
def sortPerm (ks : List Nat) (e : Nat) : List Nat :=
  (List.range (e + 1)).flatMap fun k => (ks.zipIdx.filter fun x => x.1 == k).map fun x => x.2
/-- OFFS: how many keys lie below each (R358). -/
def sortOffs (ks : List Nat) (e : Nat) : List Nat := (List.range (e + 1)).map fun k => (ks.filter fun x => x < k).length
/-- Carry out a sort. -/
def State.moveSort (s : State) (o : Op) (e : EngOp) (k : Nat) (i : Item) (n16 : Bool) (n ex : Nat) (offs : Rng) : State :=
  match i.src, i.dst, offs with
  | _, _, .bad c va => s.putItem o e k (i.failed c (BitVec.ofNat 64 va))
  | .runs a, .runs b, .runs c =>
    (match s.source o e k i true a with
     | (s, none) => s
     | (s, some bytes) =>
       let ks := sortKeys (if n16 then 2 else 4) n ex bytes
       s.deliver o e k i (b ++ c) ((sortPerm ks ex).flatMap (natLe 4) ++ (sortOffs ks ex).flatMap (natLe 4)))
  | _, _, _ => s

end Sys2Proof.Machine
end

