-- ==== Sys2Proof/Machine/Queues.lean ====
section
/-! DEFINITION. Operand queues and their streams (R198 to R212). -/

namespace Sys2Proof.Machine
open Sys2Proof

/-! ### Shared operations -/

/-- Update queue `q` of a group. -/
def State.onQueue (s : State) (tid g q : Nat) (f : Queue → Queue) : State := s.onGroup tid g fun x => x.onQueue q f
/-- The outstanding streams of a queue, oldest first. -/
def State.streamsOf (s : State) (tid g q : Nat) : List Op :=
  s.ops.filter fun o => o.team == tid &&
    (match o.kind with | .stream st => st.group == g && st.queue == q | _ => false)
/-- The group has a running access thread (R200). -/
def Team.threadRuns (t : Team) (g : Nat) : Bool :=
  match t.threadAt g with
  | none => false
  | some x => x.running
/-- No record or room can ever arrive (R200). -/
def State.queueHopeless (s : State) (t : Team) (g q : Nat) (consumer : Bool) : Bool :=
  !t.threadRuns g && !(s.streamsOf t.id g q).any fun o => match o.kind with | .stream st => st.store != consumer | _ => false
/-- An earlier matrix operation has still to pop records of the queue (R199). -/
def State.matrixPops (s : State) (tid g q : Nat) : Bool :=
  s.ops.any fun o => o.team == tid && (match o.kind with | .matrix m => !m.ended && m.group == g && m.queue == q | _ => false)
/-- What a team holds of each half-core: records of its queues (R198). -/
def Team.recordsIn (t : Team) (h : Nat) : Nat :=
  t.groups.foldl (fun n x => x.queues.foldl (fun n q => n + (if h == 0 then q.rec0 else q.depth - q.rec0)) n) 0
/-- Queue records of half-core h that are free for a partition (R198). -/
def State.freeRecordsIn (s : State) (ctx core h : Nat) : Nat :=
  s.freeIn ctx core h Config.recordsPerHalf (fun t => t.recordsIn h) (fun x => x.records)
/-- Free queue records of a partition on a core. -/
def State.freeRecords (s : State) (ctx core : Nat) : Nat := s.freeRecordsIn ctx core 0 + s.freeRecordsIn ctx core 1
/-- The imprecise fault and the tile state of a matrix operation that ends early (R181). -/
def State.matrixEnd (s : State) (o : Op) (m : MatrixOp) (reason : Nat) : State :=
  let s := s.putOp { o with kind := .matrix { m with ended := true } }
  let s := s.onTeam o.team fun t => t.putTile m.tile { t.tile m.tile with err := true, steps := m.done }
  s.imprecise o 0x28 (BitVec.ofNat 64 (m.tile + 2 ^ 8 * reason + (if reason == 0x02 then 0 else 2 ^ 16 * m.queue)))
/-- A matrix operation is at the head of the queue of each of its halves, nothing it waits for is outstanding, and no earlier operation has
still to pop its queue (R180, R199). -/
def State.matrixDue (s : State) (o : Op) (m : MatrixOp) : Bool :=
  s.depsDone o && (m.halves.all fun h => (s.matrixQueue o.core h).head?.map (fun x => x.id) == some o.id) &&
    !(s.ops.any fun p => p.id < o.id && p.team == o.team &&
      (match p.kind with | .matrix x => !x.ended && x.group == m.group && x.queue == m.queue | _ => false))

/-! ### QDEF, QSTAT, QDRAIN (R208, R210, R211) -/

/-- QDEF on one group (R208): storage comes from half 0 first (R112, R198), and goes back to half 1 first (notes/assumptions/82.md). -/
def State.qdefOne (s : State) (w : Who) (d : SReg) (q : QReg) (depth : Nat) (store : Bool) (g : Nat) : State :=
  match s.teamAt w.team.id with
  | none => s
  | some t =>
    let x := (t.group g).queue q.toNat
    let free := s.freeRecords t.ctx t.core
    if !x.recs.isEmpty || !(s.streamsOf t.id g q.toNat).isEmpty || free < depth - x.depth then s.setS w g d.toNat 0
    else
      let more := min (depth - x.depth) (s.freeRecordsIn t.ctx t.core 0)
      let less1 := min (x.depth - depth) (x.depth - x.rec0)
      let less0 := x.depth - depth - less1
      let s := s.onQueue t.id g q.toNat fun _ =>
        { depth := depth, rec0 := x.rec0 + more - less0, store := store, fault := false, recs := [] }
      let s := if depth < x.depth then s.newScrub { Scrub.empty t.ctx t.core with records := ⟨less0, less1⟩ } else s
      s.setS w g d.toNat 1
/-- QDEF. -/
def execQdef (d : SReg) (q : QReg) (depth : BitVec 5) (store : Bool) (s : State) : Host.Outcome State Fault Refusal :=
  execOn .both true (fun _ => true) (fun w s =>
    .ok (w.present.foldl (fun s g => s.qdefOne w d q (64 * depth.toNat) store g) s)) s
/-- The status word of a queue (R210). -/
def State.queueStatus (s : State) (w : Who) (q g : Nat) : DWord :=
  let x := (w.group g).queue q
  BitVec.ofNat 64 (x.depth / 64 + (if x.store then 2 ^ 8 else 0) + (if x.fault then 2 ^ 9 else 0) +
    2 ^ 16 * (s.streamsOf w.team.id g q).length + 2 ^ 32 * x.recs.length)
/-- QSTAT. -/
def execQstat (d : SReg) (q : QReg) (s : State) : Host.Outcome State Fault Refusal :=
  execG true (fun _ => true) (fun w s => gformW w d.toNat (fun g => s.queueStatus w q.toNat g) s) s
/-- QDRAIN.DISC on one group (R211): the QLD streams are cancelled, the records discarded, FAULT cleared; a matrix operation due on
the queue ends early. -/
def State.qdrainOne (s : State) (tid q g : Nat) : State :=
  let s := { s with ops := s.ops.filter fun o => !(o.team == tid &&
    (match o.kind with | .stream st => st.group == g && st.queue == q && !st.store | _ => false)) }
  let s := s.onQueue tid g q fun x => { x with recs := [], fault := false }
  s.ops.foldl (fun s o => match o.kind with
    | .matrix m => if o.team == tid && m.group == g && m.queue == q && !m.ended && s.matrixDue o m then s.matrixEnd o m 0x01 else s
    | _ => s) s
/-- QDRAIN.DISC. -/
def execQdrainDisc (q : QReg) (s : State) : Host.Outcome State Fault Refusal :=
  execOn .both true (fun _ => true) (fun w s =>
    .ok (w.present.foldl (fun s g => s.qdrainOne w.team.id q.toNat g) s)) s
/-- QDRAIN.FLUSH (R211). -/
def execQdrainFlush (q : QReg) (s : State) : Host.Outcome State Fault Refusal :=
  execOn .both true (fun _ => true) (fun w s =>
    let busy (g : Nat) : Bool := !((w.team.group g).queue q.toNat).recs.isEmpty || !(s.streamsOf w.team.id g q.toNat).isEmpty
    if w.present.any busy then .wait s
    else .ok (w.present.foldl (fun s g => s.onQueue w.team.id g q.toNat fun x => { x with fault := false }) s)) s

/-! ### QPOP and QPUSH (R200, R209) -/

/-- What a group's queue answers a consumer or producer. -/
inductive QueueAnswer | ready | wait | fault (cause : Nat)
  deriving DecidableEq, Repr
/-- R199, R200: the wrong direction faults; 8 records or room for 8 is ready; a hopeless wait faults. -/
def State.queueAnswer (s : State) (t : Team) (g q : Nat) (consumer : Bool) : QueueAnswer :=
  let x := (t.group g).queue q
  if x.depth != 0 && x.store == consumer then .fault 0x13
  else if consumer && s.matrixPops t.id g q then .wait
  else if x.depth != 0 && (if consumer then 8 ≤ x.recs.length else x.recs.length + 8 ≤ x.depth) then .ready
  else if s.queueHopeless t g q consumer then .fault (if consumer then 0x10 else 0x11)
  else .wait
/-- The answer for every group that makes a pass: a fault first, then a wait (R209). -/
def State.queueAnswers (s : State) (t : Team) (gs : List Nat) (q : Nat) (consumer : Bool) : QueueAnswer :=
  let l := gs.map fun g => s.queueAnswer t g q consumer
  match l.find? fun a => match a with | .fault _ => true | _ => false with
  | some a => a
  | none => if l.contains .wait then .wait else .ready
/-- Lane i of a popped block of eight records (R209). -/
def recLane (rs : List QRec) (i : Nat) : Word :=
  match rs[i / 8]? with
  | none => 0
  | some r => r.data.extractLsb' (32 * (i % 8)) 32
/-- Record j of the lanes of a register (R209). -/
def laneRec (v : VReg) (j : Nat) : Rec32 :=
  BitVec.ofNat 256 ((List.range 8).foldl (fun n k => n + (v.lane (8 * j + k)).toNat * 2 ^ (32 * k)) 0)
/-- QPOP. -/
def execQpop (d : VReg11) (q : QReg) (msk : MaskField) (s : State) : Host.Outcome State Fault Refusal :=
  execPlain (fun w s =>
    let gs := w.qual msk
    match gs.find? fun g => w.generalBad g d.toNat 1 with
    | some g => .trap 0x06 (BitVec.ofNat 64 g)
    | none =>
      match s.queueAnswers w.team gs q.toNat true with
      | .fault c => .trap c (BitVec.ofNat 64 q.toNat)
      | .wait => .wait s
      | .ready =>
        let s := if gs.isEmpty then s else s.pin w
        let out (g : Nat) : VWrite :=
          let rs := ((w.team.group g).queue q.toNat).recs.take 8
          ⟨g, d.toNat, w.merge msk g d.toNat (VReg.ofLanes (recLane rs))⟩
        let s := s.putV w (gs.map out)
        .ok (gs.foldl (fun s g => s.onQueue w.team.id g q.toNat fun x => { x with recs := x.recs.drop 8 }) s)) s
/-- QPUSH: all 64 lanes whatever the mask. -/
def execQpush (q : QReg) (a : VReg11) (msk : MaskField) (s : State) : Host.Outcome State Fault Refusal :=
  execPlain (fun w s =>
    let gs := w.qual msk
    match s.queueAnswers w.team gs q.toNat false with
    | .fault c => .trap c (BitVec.ofNat 64 q.toNat)
    | .wait => .wait s
    | .ready =>
      let s := if gs.isEmpty then s else s.pin w
      .ok (gs.foldl (fun s g => s.onQueue w.team.id g q.toNat fun x =>
        { x with recs := x.recs ++ (List.range 8).map fun j => ({ src := none, data := laneRec (w.v g a.toNat) j } : QRec) }) s)) s

/-! ### QLD and QST (R201 to R203, R212) -/

/-- The address of record k (R201). -/
def StreamOp.addr (st : StreamOp) (k : Nat) : Nat :=
  intBits 64 (st.base.toNat + (k % st.n1 : Nat) * st.st1.toInt + (k / st.n1 : Nat) * st.st2.toInt)
/-- Bytes of a record (R202). -/
def StreamOp.width (st : StreamOp) : Nat := if st.w24 then 24 else 32
/-- The access kind of a stream. -/
def StreamOp.kind (st : StreamOp) : AccKind := if st.store then .store else .load
/-- One record translated (R203, R243). -/
def State.streamItem (s : State) (ctx : Nat) (st : StreamOp) (k : Nat) : Rng := s.rangeOn ctx st.kind 8 (st.addr k) st.width
/-- The records from k on, up to the first that fails. -/
def State.streamItems (s : State) (ctx : Nat) (st : StreamOp) : Nat → Nat → List Rng × Option DWord
  | 0, _ => ([], none)
  | fuel + 1, k =>
    match s.streamItem ctx st k with
    | .bad .. => ([], some (BitVec.ofNat 64 (st.addr k)))
    | r =>
      let t := s.streamItems ctx st fuel (k + 1)
      (r :: t.1, t.2)
/-- The stream that an instruction describes (R201). -/
def Who.stream (w : Who) (m : StreamArgs) (store : Bool) (g : Nat) : StreamOp :=
  let b := w.s g m.b.toNat
  let c := w.s g m.c.toNat
  let n := (c.extractLsb' 0 32).toNat
  let n1 := (c.extractLsb' 32 16).toNat
  { group := g, queue := m.q.toNat, store := store, base := w.s g m.a.toNat + m.off.signExtend 64, st1 := b.extractLsb' 0 32,
    st2 := b.extractLsb' 32 32, n := n, n1 := if n1 == 0 then n else n1, w24 := m.w24, col := m.col.toNat, next := 0,
    items := [], bad := none }
/-- The operation of a stream: its accesses are those of its access thread (R202), in the order of R251 to R254; a release waits for all of
its earlier accesses. -/
def State.streamOp (s : State) (w : Who) (m : StreamArgs) (st : StreamOp) (bad : Option DWord) : Op :=
  let o := { w.op s (.stream st) with
    flag := w.flag m.lf, scope := m.scope, ord := if m.ordered then (if st.store then .rel else .acq) else .rlx }
  let rel := if st.store && m.ordered then some (0xFF, scopeLvl m.scope) else none
  { o with
    kind := .stream { st with bad := bad },
    deps := s.orderDeps w.team.id w.thrId w.frag.m o.kind.accs rel false,
    depLvl := if rel.isSome then max 1 (scopeLvl m.scope) else 1,
    locks := s.locksOf o }
/-- QLD and QST: the descriptor fault, the direction, the limit of four streams, translation and range locks at issue, and the order
of ACQ and REL (R202). -/
def streamBody (m : StreamArgs) (store : Bool) (w : Who) (s : State) : Result :=
  let g := w.lowest
  let st := w.stream m store g
  let x := (w.team.group g).queue m.q.toNat
  if (w.s g m.c.toNat).extractLsb' 48 16 != 0 || 2 ^ 24 < st.n then .trap 0x14 (BitVec.ofNat 64 m.q.toNat)
  else if x.depth != 0 && x.store != store then .trap 0x13 (BitVec.ofNat 64 m.q.toNat)
  else if 4 ≤ (s.streamsOf w.team.id g m.q.toNat).length then .wait s
  else if st.n == 0 then .ok s
  else
    let r := s.streamItems w.team.ctx st st.n 0
    let o := s.streamOp w m { st with items := r.1 } r.2
    if Config.rangeLocks < s.locksUsed + o.locks.length then .wait s
    else .ok (s.addOp o)
/-- QLD. -/
def execQld (m : StreamArgs) (s : State) : Host.Outcome State Fault Refusal :=
  execOn .threadOnly false (fun _ => true) (streamBody m false) s
/-- QST. -/
def execQst (m : StreamArgs) (s : State) : Host.Outcome State Fault Refusal :=
  execOn .threadOnly false (fun _ => true) (streamBody m true) s

end Sys2Proof.Machine
end

