-- ==== Sys2Proof/Machine/EvSched.lean ====
section
/-! DEFINITION. The events of the issue selector, the split table, barriers, resources, pre-emption and faults (R19, R82, R91, R93,
R94, R116, R126, R127, R195, R220 to R229). An event whose condition does not hold leaves the machine as it is. -/

namespace Sys2Proof.Machine
open Sys2Proof

/-! ### Held faults (R196, R228) -/

/-- The fragment that holds the lowest lane of a list of masks. -/
def lowestFrag : List Fragment → Option Fragment
  | [] => none
  | f :: l =>
    match lowestFrag l with
    | none => some f
    | some x => if lowestTeamLane x.m < lowestTeamLane f.m then some x else some f
/-- The fragment that a held fault goes to (R196, R228). -/
def Team.receiver (t : Team) (h : HeldFault) : Option Fragment :=
  match h.thread with
  | none => match t.fragAt h.frag with
    | some f => some f
    | none => lowestFrag t.frags
  | some g =>
    match lowestLane (~~~(t.group g).exited) with
    | none => lowestFrag t.frags
    | some i => match t.frags.find? fun f => (maskAt f.m g).getLsbD i with
      | some f => some f
      | none => lowestFrag t.frags
/-- The fault may be delivered: its fragment runs its own code (R228) and stands at an instruction boundary. -/
def Team.deliverable (t : Team) (h : HeldFault) : Option Fragment :=
  match t.receiver h with
  | none => none
  | some f => match f.mode with
    | .normal => some f
    | _ => none
/-- The first held fault that may be delivered, with its receiver. -/
def Team.nextFault (t : Team) : List HeldFault → Option (HeldFault × Fragment)
  | [] => none
  | h :: l =>
    match t.deliverable h with
    | some f => some (h, f)
    | none => t.nextFault l
/-- A held fault is delivered to the fragment at its next instruction boundary, so it issues nothing before (R228). -/
def Team.faultDue (t : Team) (f : Fragment) : Bool :=
  t.resident &&
  (t.nextFault t.held).any fun p => p.2.id == f.id

/-! ### Who may issue (R93, R195) -/

/-- The fragment can be saved where it stands once it has been rolled back (R224): a regioned one whose region is not pinned; another at a
safe point, or in a wait that counts as one at a barrier (R246, R281, R294, R338). A pre-emption withdraws a blocked REGGROW (R127). -/
def Team.saveable (t : Team) (f : Fragment) : Bool :=
  match f.mode with
  | .normal =>
    if t.kernel.regioned then !f.region.pinned
    else f.safe || (match f.wait with
      | .frame _ => true
      | .barrier _ _ => true
      | .cwait _ y _ => y
      | .parkR _ => true
      | .parkF _ => true
      | .grow _ _ _ => true
      | .mig _ => true
      | .seq _ => true
      | _ => false)
  | .parked .. => true
  | _ => false
/-- A fragment of a team that is being pre-empted stops as soon as it can be saved (R224); a saved one never issues. -/
def Team.mayRun (t : Team) (f : Fragment) : Bool :=
  match f.mode with
  | .parked .. => false
  | _ => match t.phase with
    | .running => true
    | .stopping => !t.saveable f
    | .saving => true
    | .saved => false
    | .reserved => false
/-- A fragment of a deterministic launch runs inside a round up to its quantum, and between rounds only at its commit (R226). -/
def State.roundAllows (s : State) (t : Team) (f : Fragment) : Bool :=
  !t.kernel.determ ||
  match s.launchAt t.launch with
  | none => true
  | some l =>
    match l.roundMem with
    | some _ => f.inRound < t.kernel.quantum && f.wait != .round
    | none => s.forced.head? == some (t.id, f.id) && f.roundGo
/-- A fragment is a candidate for issue (R93): ready, no fault is due to it first, and its watchdog count is within its limit (R225,
R228). -/
def State.candidate (s : State) (t : Team) (f : Fragment) : Bool :=
  f.entry.isSome && t.mayRun f && (!t.faultDue f || s.detHold t) && f.wdog ≤ f.limit && s.roundAllows t f && s.waitOver (t.whoOf f none) && s.slotFree (t.whoOf f none)
/-- The candidates of a core. -/
def State.candidates (s : State) (core : Nat) : List (Team × Fragment) :=
  (s.onCore core).flatMap fun t => (t.frags.filter fun f => s.candidate t f).map fun f => (t, f)
/-- The effective class (R93). -/
def Fragment.effClass (f : Fragment) : Nat := if 8192 ≤ f.age then 3 else f.cls
/-- The order of R93: class, then age, then the lowest entry. -/
def Fragment.before (a b : Fragment) : Bool :=
  a.effClass > b.effClass || (a.effClass == b.effClass &&
    (a.age > b.age || (a.age == b.age && a.entry.getD 0 < b.entry.getD 0)))
/-- The candidate that the selector chooses. -/
def bestOf : List (Team × Fragment) → Option (Team × Fragment)
  | [] => none
  | x :: l =>
    match bestOf l with
    | none => some x
    | some y => if y.2.before x.2 then some y else some x
/-- The wait of a fragment that issues: the instruction reads the outcome of those that it decides itself. -/
def Wait.atIssue (w : Wait) : Wait :=
  match w with
  | .granted ok => .granted ok
  | .cwait c y go => .cwait c y go
  | .seq n => .seq n
  | _ => .ready
/-- Ages after an issue (R93): the chosen fragment's is 0, every other candidate's grows by its team's weight. -/
def agesAfter (cs : List (Team × Fragment)) (tid fid : Nat) (s : State) : State :=
  cs.foldl (fun s c => s.onTeam c.1.id fun t => { t with frags := t.frags.map fun f =>
    if f.id == c.2.id then
      (if c.1.id == tid && f.id == fid then { f with age := 0, wait := f.wait.atIssue }
       else { f with age := min 65535 (f.age + t.kernel.weight) })
    else f }) s
/-- ISSUE_SELECT: the chosen fragment enters the issue latch, and the next step executes its slot or pair. The spec does not say whether a
selection that only brings an arrival (R85) counts as issuing: in the model it consumes the selection, and the fragment's age becomes 0
(notes/assumptions/77.md). -/
def execIssueSelect (core : Nat) (s : State) : Host.Outcome State Fault Refusal :=
  let cs := s.candidates core
  match bestOf cs with
  | none => .next s
  | some (t, f) => .next { agesAfter cs t.id f.id s with issue := some (t.whoOf f none).iss }
/-- The team's access threads may still issue: it runs, or it is being pre-empted and a fragment or a matrix operation still needs
what they bring (R175, R224). -/
def State.sliceRuns (s : State) (t : Team) : Bool :=
  match t.phase with
  | .running => true
  | .stopping => (t.frags.any fun f => !t.saveable f) ||
      s.ops.any fun o => o.team == t.id && (match o.kind with | .matrix _ => true | _ => false)
  | .saving => false
  | .saved => false
  | .reserved => false
/-- An access thread is ready. -/
def State.threadReady (s : State) (t : Team) (x : Thread) : Bool :=
  x.running && s.sliceRuns t && x.frag.wdog ≤ x.frag.limit && s.waitOver (t.whoOf x.frag (some x)) && s.slotFree (t.whoOf x.frag (some x))
/-- The ready thread that issued longest ago, then of the lower group slot (R195). -/
def oldestThread : List (Team × Thread) → Option (Team × Thread)
  | [] => none
  | x :: l =>
    match oldestThread l with
    | none => some x
    | some y =>
      let slot (p : Team × Thread) : Nat := (p.1.group p.2.group).slot
      if y.2.lastIssue < x.2.lastIssue || (y.2.lastIssue == x.2.lastIssue && slot y < slot x) then some y else some x
/-- ACCESS_ISSUE. -/
def execAccessIssue (core : Nat) (s : State) : Host.Outcome State Fault Refusal :=
  let ready := (s.onCore core).flatMap fun t => (t.threads.filter fun x => s.threadReady t x).map fun x => (t, x)
  match oldestThread ready with
  | none => .next s
  | some (t, x) =>
    .next { (s.onTeam t.id fun t => t.putThread { x with lastIssue := s.stepNo, frag := { x.frag with wait := x.frag.wait.atIssue } }) with
      issue := some (t.whoOf x.frag (some x)).iss }

/-! ### The split table (R82) -/

/-- A spilled fragment that is ready. -/
def State.spilledReady (s : State) (t : Team) (f : Fragment) : Bool := f.entry.isNone && s.waitOver (t.whoOf f none)
/-- The fragment of highest age in a list, the first among equals (notes/assumptions/89.md). -/
def highestAge : List Fragment → Option Fragment
  | [] => none
  | f :: t =>
    match highestAge t with
    | none => some f
    | some x => if f.age < x.age then some x else some f
/-- Load a spilled fragment into an entry: its record is read back (R82, R83); nothing happens while the page of the record is migrating
(R246). A record that cannot be read is a fault of the team (R81), which goes on with the fragment as it was. -/
def State.refill (s : State) (t : Team) (f : Fragment) (e : Nat) : State :=
  match s.readSpill t f.id (t.fragSlot f.m) with
  | none => s
  | some s' => s'.onTeam t.id fun t => { t with frags := t.frags.map fun x => if x.id == f.id then { x with entry := some e } else x }
/-- Spill a resident entry and give it to a spilled fragment (R82). -/
def State.swapIn (s : State) (t : Team) (f : Fragment) (v : Victim) : State :=
  match v.entry, s.spill t.id v, s.readSpill t f.id (t.fragSlot f.m) with
  | some e, .ok s', some _ => s'.refill t f e
  | _, _, _ => s
/-- SPILL_WAIT_EXPIRY: a ready spilled fragment has waited 256 cc without an entry coming free: the team's resident ready fragment of lowest
age makes room. -/
def execSpillWaitExpiry (team frag : Nat) (s : State) : Host.Outcome State Fault Refusal :=
  match s.teamAt team with
  | none => .next s
  | some t =>
    match t.fragAt frag with
    | none => .next s
    | some f =>
      if !t.resident || !s.spilledReady t f || (s.freeEntry t.ctx t.core).isSome then .next s
      else
        match lowestAge (t.frags.filter fun x => x.entry.isSome && s.ready t x) with
        | none => .next s
        | some v => .next (s.swapIn t f (.frag v))
/-- FRAGMENT_REFILL: the oldest ready spilled fragment of a team takes a free entry; when none is free, the core frees one of the team's by
the first three choices of R82, and a ready one makes room only after the wait of SPILL_WAIT_EXPIRY (notes/assumptions/74.md). -/
def execFragmentRefill (team : Nat) (s : State) : Host.Outcome State Fault Refusal :=
  match s.teamAt team with
  | none => .next s
  | some t =>
    if !t.resident then .next s
    else
      match highestAge (t.frags.filter fun f => s.spilledReady t f) with
      | none => .next s
      | some f =>
        match s.freeEntry t.ctx t.core with
        | some e => .next (s.refill t f e)
        | none =>
          match s.idleVictim t with
          | some v => .next (s.swapIn t f v)
          | none => .next s

/-! ### Barriers, resources, clock (R19, R91, R116, R126, R127) -/

/-- BARRIER_WAIT_END: the phase has changed: the fragment is a candidate again, and continues at the next slot. -/
def execBarrierWaitEnd (team frag : Nat) (s : State) : Host.Outcome State Fault Refusal :=
  .next (s.onTeam team fun t => { t with frags := t.frags.map fun f =>
    if f.id == frag then
      (match f.wait with
       | .barrier b tokens => if t.barDone b tokens then { f with wait := .ready } else f
       | _ => f)
    else f })
/-- SCRUB_COMPLETE: the scrubbed resources count as free. -/
def execScrubComplete (id : Nat) (s : State) : Host.Outcome State Fault Refusal :=
  match s.scrubs.find? fun x => x.id == id with
  | none => .next s
  | some x =>
    .next { (s.book x.ctx none (Config.scrubCost id)) with scrubs := s.scrubs.filter fun y => y.id != id }
/-- CLOCK_THROTTLE: the core clock is lowered while the draw exceeds the limit, and raised again when there is headroom. -/
def execClockThrottle (drawMilliwatt : Nat) (s : State) : Host.Outcome State Fault Refusal :=
  .next { s with energy := { s.energy with
    throttle := if Config.powerLimit.val < drawMilliwatt then s.energy.throttle + 1 else s.energy.throttle - 1 } }
/-- The blocked requests of a partition on a core: team, fragment, genmax, register, order of issue (R126). -/
def State.growRequests (s : State) (ctx core : Nat) : List (Team × Fragment × Nat × SReg × Nat) :=
  (s.onCore core).flatMap fun t =>
    if t.ctx == ctx && t.phase == .running then t.frags.filterMap fun f => (match f.wait with | .grow n d k => some (t, f, n, d, k) | _ => none) else []
/-- The request issued first. -/
def firstGrow : List (Team × Fragment × Nat × SReg × Nat) → Option (Team × Fragment × Nat × SReg × Nat)
  | [] => none
  | x :: l =>
    match firstGrow l with
    | none => some x
    | some y => if y.2.2.2.2 < x.2.2.2.2 then some y else some x
/-- The request issued last. -/
def lastGrow : List (Team × Fragment × Nat × SReg × Nat) → Option (Team × Fragment × Nat × SReg × Nat)
  | [] => none
  | x :: l =>
    match lastGrow l with
    | none => some x
    | some y => if x.2.2.2.2 < y.2.2.2.2 then some y else some x
/-- Answer a blocked request: its fragment is ready, and the REGGROW completes with the answer. -/
def Team.answerGrow (t : Team) (fid : Nat) (ok : Bool) : Team :=
  { t with frags := t.frags.map fun f => if f.id == fid then { f with wait := .granted ok } else f }
/-- REGGROW_GRANT: the oldest blocked request takes its slabs once they are free. -/
def execReggrowGrant (core ctx : Nat) (s : State) : Host.Outcome State Fault Refusal :=
  match firstGrow (s.growRequests ctx core) with
  | none => .next s
  | some (t, f, n, _, _) =>
    let gs := maskGroups f.m
    if s.freeSlabs ctx core < t.growNeed gs n then .next s
    else .next ((s.growSlabs t.id gs n).onTeam t.id fun t => t.answerGrow f.id true)
/-- A fragment is blocked in REGGROW, at a frame or at a barrier (R127). -/
def Wait.stuck (w : Wait) : Bool :=
  match w with
  | .frame _ => true
  | .barrier _ _ => true
  | .grow _ _ _ => true
  | _ => false
/-- REGGROW_DENY: every resident fragment of the partition on the core is blocked: the request issued last is denied. -/
def execReggrowDeny (core ctx : Nat) (s : State) : Host.Outcome State Fault Refusal :=
  let all := (s.onCore core).all fun t => t.ctx != ctx || t.frags.all fun f => f.entry.isNone || f.wait.stuck
  match lastGrow (s.growRequests ctx core) with
  | none => .next s
  | some (t, f, _, _, _) => if all then .next (s.onTeam t.id fun t => t.answerGrow f.id false) else .next s

/-! ### A team leaves (R94, R175, R206) -/

/-- An operation that keeps its team on the core (R94, R206): loads, stores, atomics, matrix and tile operations, store streams, and a REDM
that has still to read a tile (R175). -/
def OpKind.keepsTeam : OpKind → Bool
  | .load .. => true
  | .store .. => true
  | .atom .. => true
  | .matrix _ => true
  | .tile _ _ => true
  | .stream st => st.store
  | .engine e =>
    (match e.kind with
     | .redm _ _ _ _ (.acc _) _ => true
     | _ => false)
  | _ => false
/-- The scrub of everything a team holds (R116, R385). -/
def Team.scrub (t : Team) : Scrub :=
  { Scrub.empty t.ctx t.core with
    slots := t.groups.map fun x => x.slot,
    entries := t.frags.filterMap (fun f => f.entry) ++ t.frames.filterMap fun f => f.entry,
    mats := t.halves, slabs := ⟨t.slabsIn 0, t.slabsIn 1⟩, tiles := ⟨t.tilesIn 0, t.tilesIn 1⟩, bars := ⟨t.barsIn 0, t.barsIn 1⟩,
    records := ⟨t.recordsIn 0, t.recordsIn 1⟩ }
/-- Operations that end with their team: load streams, stations, fences (R206, R291). -/
def OpKind.endsWithTeam : OpKind → Bool
  | .stream st => !st.store
  | .station _ => true
  | .fence => true
  | _ => false
/-- TEAM_LEAVE: every lane has exited and what R94 names has completed: the team's resources are scrubbed, its threads end, and its
undelivered faults go to the fault log (R197, R228). A team that pre-emption has saved leaves nothing on a core. -/
def execTeamLeave (team : Nat) (s : State) : Host.Outcome State Fault Refusal :=
  match s.teamAt team with
  | none => .next s
  | some t =>
    if !t.frags.isEmpty || !t.resident || t.phase == .reserved then .next s
    else
      let s := s.flushCore t.core
      if s.ops.any fun o => o.team == team && o.kind.keepsTeam then .next s
      else
        let s := t.held.foldl (fun s h => s.logFault t.ctx t.id h.cause h.info h.pc) s
        let s := s.newScrub t.scrub
        .next { s with teams := s.teams.filter fun x => x.id != team,
                       ops := s.ops.filter fun o => !(o.team == team && o.kind.endsWithTeam) }

/-! ### The watchdog (R225) -/

/-- The watchdog fault of a fragment: its region's buffered stores and pending words are discarded, and its lanes exit. In a save or
restore routine the team ends (R222). -/
def State.watchFrag (s : State) (t : Team) (f : Fragment) : State :=
  if f.wdog ≤ f.limit then s
  else
    let s := s.logFault t.ctx t.id 0x38 (BitVec.ofNat 64 f.wdog) f.pc
    match f.mode with
    | .save .. => s.endTeam t.id 0x38 f.pc
    | .restore .. => s.endTeam t.id 0x38 f.pc
    | _ => s.exitLanes t.id f.id f.m
/-- The watchdog fault of an access thread, which counts as a fragment does (R195): it ends as by EXIT. -/
def State.watchThread (s : State) (t : Team) (x : Thread) : State :=
  if x.frag.wdog ≤ x.frag.limit || !x.running then s
  else (s.logFault t.ctx t.id 0x38 (BitVec.ofNat 64 x.frag.wdog) x.frag.pc).onTeam t.id fun t => t.putThread { x with running := false }
/-- WATCHDOG: a fragment, or the access thread of a group, whose count has passed its limit; the fault is logged. -/
def execWatchdog (team frag : Nat) (thread : Bool) (s : State) : Host.Outcome State Fault Refusal :=
  match s.teamAt team with
  | none => .next s
  | some t =>
    if !t.resident then .next s
    else if thread then
      match t.threadAt frag with
      | none => .next s
      | some x => .next (s.watchThread t x)
    else
      match t.fragAt frag with
      | none => .next s
      | some f => .next (s.watchFrag t f)

/-! ### Delivery (R228) -/

/-- Remove the first occurrence of a held fault. -/
def dropFault (h : HeldFault) : List HeldFault → List HeldFault
  | [] => []
  | x :: l => if x == h then l else x :: dropFault h l
/-- IMPRECISE_FAULT_DELIVERY: the oldest fault that may be delivered traps its fragment with the PC that raised it as TRAPPC and the
next PC as RPC; in a deterministic round, after the commits (R226). A fragment of a team that is being pre-empted still takes it: it then
runs on until its ERET (R224). -/
def execImpreciseFaultDelivery (team : Nat) (s : State) : Host.Outcome State Fault Refusal :=
  match s.teamAt team with
  | none => .next s
  | some t =>
    if !t.resident || t.phase == .reserved || s.detHold t then .next s
    else
      match t.nextFault t.held with
      | none => .next s
      | some (h, f) =>
        let s := s.onTeam team fun t => { t with held := dropFault h t.held }
        .next (s.enterTrap team f.id h.cause h.info h.pc f.pc (pcSlot h.pc))

/-! ### Deterministic rounds (R226) -/

/-- A fragment has stopped in its round. -/
def Team.roundStopped (t : Team) (f : Fragment) : Bool :=
  t.kernel.quantum ≤ f.inRound || f.wait == .round || f.wait.stuck
/-- The resident teams of a launch, in ascending team index. -/
def State.teamsOf (s : State) (seq : Nat) : List Team :=
  (s.teams.filter fun t => t.launch == seq).foldr (fun t l =>
    let lo := l.filter fun x => x.linear < t.linear
    let hi := l.filter fun x => !(x.linear < t.linear)
    lo ++ [t] ++ hi) []
/-- Fragments in ascending order of their lowest team lane. -/
def byLane (l : List Fragment) : List Fragment :=
  l.foldr (fun f k =>
    let lo := k.filter fun x => lowestTeamLane x.m < lowestTeamLane f.m
    let hi := k.filter fun x => !(lowestTeamLane x.m < lowestTeamLane f.m)
    lo ++ [f] ++ hi) []
/-- Commit the forced fragments in order, up to the first whose pending closing instruction has to execute at its commit; that one is
allowed to issue. -/
def State.commitForced (s : State) : Nat → State
  | 0 => s
  | fuel + 1 =>
    match s.forced with
    | [] => s
    | (tid, fid) :: rest =>
      match (s.teamAt tid).bind fun t => t.fragAt fid with
      | none => State.commitForced { s with forced := rest } fuel
      | some f =>
        if f.wait == .round || f.roundGo then
          s.onTeam tid fun t => { t with frags := t.frags.map fun (x : Fragment) => if x.id == fid then { x with roundGo := true } else x }
        else
          let s := if f.inRound == 0 && f.region.buf.isEmpty then s else s.commitAt tid fid f.pc
          State.commitForced { s with forced := rest } fuel
/-- Every fragment of the launch starts a new round: fusions that the commits have completed take effect, memory is as it stands now, and
barrier waits that are over end (R226). -/
def State.startRound (s : State) (l : Launch) : State :=
  let s := (s.teamsOf l.seq).foldl (fun s t => (t.framesDeep.map fun F => F.num).foldl (fun s n => s.testFrame t.id n) s) s
  let s := s.putLaunch { l with roundMem := some s.mem }
  { s with teams := s.teams.map fun t =>
      if t.launch != l.seq then t
      else { t with frags := t.frags.map fun (f : Fragment) =>
        let f := { f with inRound := 0, roundGo := false }
        match f.wait with
        | .barrier b tokens => if t.barDone b tokens then { f with wait := .ready } else f
        | _ => f } }
/-- The engine, fabric and loop work of a launch that a round waits for. -/
def State.roundWork (s : State) (seq : Nat) : Bool :=
  s.ops.any fun o => o.launch == seq &&
    (match o.kind with
     | .stream _ => false
     | .station _ => false
     | _ => true)
/-- Loads of the launch are outstanding: they read memory as the round began, so the round has not ended (R226). -/
def State.roundLoads (s : State) (seq : Nat) : Bool :=
  s.ops.any fun o => o.launch == seq && o.thread.isNone && (match o.kind with | .load .. => true | .tile (.load ..) _ => true | _ => false)
/-- DET_ROUND_COMMIT: when every fragment of the launch has stopped and its loads have completed, the round ends and the ticket unit commits in order; when all has
been committed and the work has completed, the next round begins. -/
def execDetRoundCommit (seq : Nat) (s : State) : Host.Outcome State Fault Refusal :=
  match s.launchAt seq with
  | none => .next s
  | some l =>
    let ts := s.teamsOf seq
    if !(l.kernel.map fun k => k.determ).getD false || ts.isEmpty then .next s
    else
      match l.roundMem with
      | some _ =>
        if !s.roundLoads seq && ts.all fun t => t.frags.all fun f => t.roundStopped f then
          let s := s.putLaunch { l with roundMem := none }
          let forced := ts.flatMap fun t => (byLane t.frags).map fun f => (t.id, f.id)
          .next ((({ s with forced := forced } : State)).commitForced (forced.length + 1))
        else .next s
      | none =>
        let mine := s.forced.any fun p => ts.any fun t => t.id == p.1
        if mine then
          match s.forced with
          | [] => .next s
          | (tid, fid) :: rest =>
            let pending := ((s.teamAt tid).bind fun t => t.fragAt fid).any fun f => f.roundGo && !f.wait.stuck
            if pending then .next s else .next (({ s with forced := rest } : State).commitForced (s.forced.length + 1))
        else if s.roundWork seq then .next s
        else .next (s.startRound l)

end Sys2Proof.Machine
end

