-- ==== Sys2Proof/Machine/ErrLog.lean ====
section
/-! DEFINITION. Error records (R387 to R389): the logs of the contexts in HBM and the PF's failure log, and blast sets. -/

namespace Sys2Proof.Machine
open Sys2Proof

/-- The 32 bytes of an error record (R388). -/
def ErrRec.bytes (r : ErrRec) : List Byte :=
  natLe 8 r.seq ++ [BitVec.ofNat 8 r.kind, BitVec.ofNat 8 r.ctx, BitVec.ofNat 8 r.cause, if r.overrun then 1 else 0] ++
    natLe 4 r.unit ++ natLe 8 r.addr.toNat ++ natLe 8 r.time
/-- UNIT of R388: a structure of R387 and its number. -/
def unitCode (kind number : Nat) : Nat := kind % 256 + 256 * (number % 65536)
/-- The record that a delivery writes now. -/
def State.errRec (s : State) (seq kind ctx cause : Nat) (lost : Bool) (unit : Nat) (addr : DWord) : ErrRec :=
  { seq := seq, kind := kind, ctx := ctx, cause := cause, overrun := lost, unit := unit, addr := addr, time := s.ns }
/-- Write a record to a context's ring. A slot whose KIND byte is not zero is still held by its reader: the record is dropped, and
the next one written sets OVERRUN (R388; notes/assumptions/26.md). -/
def State.logError (s : State) (ctx kind cause unit : Nat) (addr : DWord) : State :=
  match s.ctxDesc ctx with
  | none => s
  | some d =>
    let n := cellGet 0 s.host.errSeq ctx
    let at_ := flatKey spHBM (d.errlog + 32 * (n % 256))
    if Memory.byte s.mem (at_ + 8) != 0 then
      { s with host := { s.host with errOver := if s.host.errOver.contains ctx then s.host.errOver else s.host.errOver ++ [ctx] } }
    else
      let r := s.errRec n kind ctx cause (s.host.errOver.contains ctx) unit addr
      { s with mem := Memory.writeBytes s.mem at_ r.bytes,
               host := { s.host with errSeq := cellPut 0 s.host.errSeq ctx (n + 1),
                                     errOver := s.host.errOver.filter fun c => c != ctx } }
/-- Write a record to the PF's failure log. -/
def State.logPf (s : State) (ctx kind cause unit : Nat) (addr : DWord) : State :=
  { s with host := { s.host with
      pfLog := s.host.pfLog ++ [s.errRec s.host.pfLog.length kind ctx cause false unit addr] } }
/-- Contexts with resources on the package: those with a half-core, an HBM slice or a window (R381). -/
def State.ctxsHere (s : State) : List Nat :=
  (s.host.ctxs.filter fun d => d.halfmap != 0 || d.hbmmap != 0 || d.window != 0).map fun d => d.ctx
/-- Deliver an uncorrectable error to a blast set (R387). -/
def State.deliverError (s : State) (blast : List Nat) (unit : Nat) (addr : DWord) : State :=
  blast.foldl (fun s c => s.logError c 1 0 unit addr) s

end Sys2Proof.Machine
end

