-- ==== Sys2Proof/Machine/Loop.lean ====
section
/-! DEFINITION. The tap of the Halyard loop and its instructions (R327 to R338): records, the tap queue and its budgets, BCAST,
SEQRD and SEQFENCE. -/

namespace Sys2Proof.Machine
open Sys2Proof

/-! ### Records (R331) -/

/-- `n` bytes at offset `o` of a record, little-endian. -/
def recField (r : LoopRecord) (o n : Nat) : Nat := natBits r.toNat (8 * o) (8 * n)
/-- TYPE. -/
def recType (r : LoopRecord) : Nat := recField r 0 1
/-- CTX. -/
def recCtx (r : LoopRecord) : Nat := recField r 1 1
/-- ORIGIN. -/
def recOrigin (r : LoopRecord) : Nat := recField r 2 1
/-- DEV. -/
def recDev (r : LoopRecord) : Bool := natBits (recField r 3 1) 0 1 == 1
/-- PTS. -/
def recPts (r : LoopRecord) : BitVec 16 := BitVec.ofNat 16 (recField r 4 2)
/-- A record that R330 lets a tap apply. -/
def recWhole (r : LoopRecord) : Bool :=
  1 ≤ recType r && recType r ≤ 8 && recCtx r ≤ 47 && recField r 3 1 / 2 == 0 && recField r 6 2 == 0
/-- Replace `n` bytes at offset `o` of a record. -/
def recPut (r : LoopRecord) (o n v : Nat) : LoopRecord :=
  BitVec.ofNat 512 (r.toNat - recField r o n * 256 ^ o + v % 256 ^ n * 256 ^ o)
/-- The header that the tap fills as it queues a record (R331). -/
def tapHeader (r : LoopRecord) (ctx origin : Nat) (dev : Bool) : LoopRecord :=
  recPut (recPut (recPut (recPut r 1 1 ctx) 2 1 origin) 3 1 (if dev then 1 else 0)) 4 4 0
/-- A record of the device: TYPE and the fields of its body as (offset, size, value). -/
def deviceRecord (ty : Nat) (fields : List (Nat × Nat × Nat)) : LoopRecord :=
  fields.foldl (fun r f => recPut r f.1 f.2.1 f.2.2) (BitVec.ofNat 512 ty)

/-! ### The tap queue (R334) -/

/-- The entry of a record in the tap queue. -/
def State.tapEntry (s : State) (ctx : Nat) (dev : Bool) (r : LoopRecord) (op : Option Nat) (fn : Option HostFn) : TapEntry :=
  { ctx := ctx, dev := dev, record := tapHeader r ctx s.pkgNo dev, op := op, fn := fn, since := s.arbNow arbTap }
/-- Entries of the queue taken, those kept for BCASTs that still wait for their release among them. -/
def State.tapUsed (s : State) : Nat :=
  s.loop.queue.length + (s.ops.filter fun o => match o.kind with | .bcast _ _ _ false none => true | _ => false).length
/-- Records that have waited for an entry enter the queue as it has room (R334). -/
def State.tapFill (s : State) : Nat → State
  | 0 => s
  | k + 1 =>
    match s.loop.backlog with
    | [] => s
    | e :: t =>
      if Config.tapEntries ≤ s.tapUsed then s
      else State.tapFill { s with loop := { s.loop with queue := s.loop.queue ++ [{ e with since := s.arbNow arbTap }], backlog := t } } k
/-- Put a record of the device or of a doorbell at the end of the tap queue, once there is room (R334, R392). -/
def State.tapPut (s : State) (ctx : Nat) (dev : Bool) (r : LoopRecord) (op : Option Nat) (fn : Option HostFn) : State :=
  ({ s with loop := { s.loop with backlog := s.loop.backlog ++ [s.tapEntry ctx dev r op fn] } }).tapFill (s.loop.backlog.length + 1)
/-- A record that the device posts itself (DEV = 1). -/
def State.devicePost (s : State) (ctx : Nat) (r : LoopRecord) : State := s.tapPut ctx true r none none
/-- A BCAST that may enter the queue: its release is done and no earlier one of its fragment is still outside (R334, R336). -/
def State.bcastReady (s : State) (o : Op) : Bool :=
  (match o.kind with | .bcast _ _ _ false none => true | _ => false) && s.depsDone o && o.markers.isEmpty &&
    !s.ops.any fun p => p.id < o.id && p.team == o.team && p.frag == o.frag &&
      (match p.kind with | .bcast _ _ _ false none => true | _ => false)
/-- BCASTs whose release is done enter the queue in their order of issue, in the entries kept for them (R336); then what has waited for
room. -/
def State.tapAdmit (s : State) : State :=
  let s := s.ops.foldl (fun s o =>
    match s.opAt o.id with
    | none => s
    | some o =>
      match o.kind with
      | .bcast g d r _ _ =>
        if s.bcastReady o then
          let s := s.putOp { o with kind := .bcast g d r true none }
          { s with loop := { s.loop with queue := s.loop.queue ++ [s.tapEntry o.ctx false r (some o.id) none] } }
        else s
      | _ => s) s
  s.tapFill s.loop.backlog.length
/-- LBUDGET of a context at this package (R381). -/
def State.lbudget (s : State) (c : Nat) : Nat := match s.ctxDesc c with | none => 0 | some d => d.lbudget
/-- The allowance of a context in the present window (R334). -/
def State.allowanceOf (s : State) (c : Nat) : Nat :=
  (tableFind s.loop.allowance c).getD (s.lbudget c - cellGet 0 s.loop.deficit c)
/-- Records that a context and its children have sent in the present window (R334, R382). -/
def State.sentBy (s : State) (c : Nat) : Nat :=
  (s.host.ctxs.filter fun d => d.parent == some c).foldl (fun n d => n + cellGet 0 s.loop.sent d.ctx) (cellGet 0 s.loop.sent c)
/-- A context has sent what it may in the present window. -/
def State.sentAll (s : State) (c : Nat) : Bool := s.allowanceOf c ≤ s.sentBy c
/-- A record may be sent (R334): the budget of a parent bounds the parent and its children together (R382); one that the PF's doorbell names for a context without a descriptor here has no budget to keep to
(R392). -/
def State.maySend (s : State) (e : TapEntry) : Bool :=
  e.dev || (match s.ctxDesc e.ctx with
    | none => true
    | some d => !s.sentAll e.ctx && (match d.parent with | none => true | some p => !s.sentAll p))
/-- The age of an entry (R117). -/
def ageOf (w cycles : Nat) : Nat := min 65535 (w * cycles)
/-- `x` goes before `y` (R117): age, weight, then the first input at or after the pointer. -/
def agesBefore (ptr n : Nat) (x y : Nat × Nat × Nat) : Bool :=
  if ageOf x.1 x.2.1 != ageOf y.1 y.2.1 then ageOf y.1 y.2.1 < ageOf x.1 x.2.1
  else if x.1 != y.1 then y.1 < x.1
  else (x.2.2 + n - ptr % n) % n < (y.2.2 + n - ptr % n) % n
/-- The winner of an arbitration: (weight, cycles, input), and the position. -/
def winner (ptr n : Nat) : List (Nat × Nat × Nat) → Nat → Option (Nat × Nat × Nat × Nat)
  | [], _ => none
  | x :: t, k =>
    match winner ptr n t (k + 1) with
    | none => some (k, x)
    | some y => if agesBefore ptr n y.2 x then some y else some (k, x)
/-- The oldest entry of each context, in queue order, with its position. -/
def tapHeads (q : List TapEntry) : List (Nat × TapEntry) :=
  (q.zipIdx.foldl (fun (l : List (Nat × TapEntry)) e => if l.any fun x => x.2.ctx == e.1.ctx then l else l ++ [(e.2, e.1)]) [])
/-- The entry that the tap sends next: within a context queue order, among contexts the age rule (R117, R334). -/
def State.tapNext (s : State) : Option (Nat × TapEntry) :=
  let hs := (tapHeads s.loop.queue).filter fun h => s.maySend h.2
  match winner s.loop.pointer 48 (hs.map fun h => (s.weightOf h.2.ctx, s.arbNow arbTap - h.2.since, h.2.ctx)) 0 with
  | none => none
  | some w => hs[w.1]?
/-! ### BCAST, SEQRD and SEQFENCE (R335 to R338) -/

/-- The record of a BCAST, from the registers of the lowest present group. -/
def Who.bcastRecord (w : Who) (a : SReg) : LoopRecord :=
  BitVec.ofNat 512 ((List.range 8).foldl (fun n k => n + (w.s w.lowest (a.toNat + k)).toNat * 2 ^ (64 * k)) 0)
/-- The checks at issue (R336). -/
def Who.bcastOk (w : Who) (a : SReg) : Bool :=
  a.toNat + 7 ≤ 255 && (let v := (w.s w.lowest a.toNat).toNat; v / 256 == 0 && 1 ≤ v && v ≤ 8)
/-- The first 8 bytes of the record of a BCAST: as the tap has filled them, once it is queued (R331, R336). -/
def State.bcastHead (s : State) (o : Op) (r : LoopRecord) : DWord :=
  match s.loop.queue.find? fun e => e.op == some o.id with
  | some e => e.record.extractLsb' 0 64
  | none => r.extractLsb' 0 64
/-- A BCAST that is never sent fails (R336). -/
def State.failBcast (s : State) (o : Op) : State :=
  match o.kind with
  | .bcast g d r _ none => ((s.putSreg o.team g d 0).imprecise o 0x21 (s.bcastHead o r)).endOp o.id
  | _ => s
/-- BCAST; on a package that has left the loop it fails at once (R330, R336). -/
def execBcast (m : BcastArgs) (s : State) : Host.Outcome State Fault Refusal :=
  execOn .execOnly true (fun w => w.bcastOk m.a) (fun w s =>
    if s.loop.left then
      .ok ((s.setS w w.lowest m.d.toNat 0).imprecise (w.op s .fence) 0x21 ((w.bcastRecord m.a).extractLsb' 0 64))
    else if Config.tapEntries ≤ s.tapUsed || !s.loop.backlog.isEmpty then .wait s
    else
      let s := if m.rel then s.flushCore w.team.core else s
      let g := w.lowest
      let o := { w.op s (.bcast g m.d.toNat (w.bcastRecord m.a) false none) with
        flag := w.flag m.lf, writes := if m.d == 0 then [] else [.s g m.d.toNat], scope := if m.sys then .sys else .pod,
        ord := if m.rel then .rel else .rlx, markers := if m.rel then markerPorts m.km w.frag.paths else [],
        deps := if m.rel then s.orderDeps w.team.id w.thrId w.frag.m [] (some (m.km, scopeLvl (if m.sys then .sys else .pod))) false else [] }
      let s := (s.addOp o).tapAdmit
      .ok (if m.rel then s.onFrag w fun f => { f with paths := afterMarkers m.km f.paths } else s)) s
/-- SEQRD: 0 in deterministic mode, which sets DETREAD (R337). -/
def execSeqrd (d : SReg) (s : State) : Host.Outcome State Fault Refusal :=
  execPlain (fun w s => s.writeDet w d (BitVec.ofNat 64 s.loop.applied)) s
/-- SEQFENCE: it waits until record n has been applied (R338). The application raised pts, so the lease copies that it passed have
expired (R264, R266). -/
def execSeqfence (a : SReg) (s : State) : Host.Outcome State Fault Refusal :=
  execPlain (fun w s =>
    let n := match w.frag.wait with
      | .seq n => n
      | _ => w.s w.lowest a.toNat
    if n.toNat ≤ s.loop.applied then .ok (s.onFrag w fun f => { f with wait := .ready })
    else .wait (s.onFrag w fun f => { f with wait := .seq n })) s

end Sys2Proof.Machine
end

