-- ==== Sys2Proof/Machine/Load.lean ====
section
/-! DEFINITION. The loading of one instruction for `State.withFetchWord` (notes/assumptions/6.md): a context that owns core 0, its
local tables in HBM, a line with the instruction in slot 0, and a team of one group about to issue it. It stands for the boot,
the CREATE_CONTEXT, and the launch that bring a program to run. -/

namespace Sys2Proof.Machine
open Sys2Proof

/-- The context that runs the loaded instruction: context 0, with every half-core and HBM slice. -/
def loadCtx : CtxDesc :=
  { ctx := 0, parent := none, weight := 1, cew := 1, tslice := 1000, lbudget := 65535, window := 0, ways := 0, fabcap := 0,
    hostcap := 0, stage := 0, nstage := 0, frbase := 0, frcount := 0, winbase := 0, arena := 0, arenasz := 0, errlog := 0,
    halfmap := BitVec.allOnes 384, hbmmap := BitVec.allOnes 576 }
/-- The line of an instruction (R21 to R23): slot 0 holds it, the other slots hold NOP, FA = FB = 15, BT = 0b00001. -/
def loadLine (w : IWord) : BitVec 512 :=
  let nop : IWord := 0x010000000000000000000000#96
  let body : BitVec 512 := nop ++ nop ++ nop ++ nop ++ w ++ 0x001000FF#32
  let par (k : Nat) : BitVec 512 := if quarterParity body k then BitVec.ofNat 512 (2 ^ (28 + k)) else 0
  body ||| par 0 ||| par 1 ||| par 2 ||| par 3
/-- The virtual address of the loaded image. -/
def loadBase : Nat := 0x200000
/-- A local root at 0x100000 and a table at 0x110000 that maps the first GiB to HBM with R, W and X (R237, R238). -/
def loadTables (m : Memory) : Memory :=
  Memory.write (Memory.write m 0x100000 8 0x110001) 0x110000 8 0xE3
/-- The kernel of the loaded team. -/
def loadKernel : Kernel :=
  { image := BitVec.ofNat 64 loadBase, params := 0, spill := 0x300000, imageSize := 0x1000, execEntry := 0x100, accessEntry := 0,
    trapEntry := 0, safeTable := 0, timetable := 0, groups := 1, genmax := 256, accTiles := 16, mhalves := 2, cluster := false,
    access := false, determ := false, regioned := false, cluW := 0, cluH := 0, cluTpc := 0, quantum := 4096, watchdog := 2 ^ 20,
    nb := 16, weight := 1, cls := 1 }
/-- A fragment that holds the lanes `m` at `pc`, as R80 starts it. -/
def Fragment.start (id entry : Nat) (pc : DWord) (m : List Mask) (cls limit : Nat) : Fragment :=
  { id := id, entry := some entry, pc := pc, m := m, e := List.replicate 16 allLanes, cls := cls, age := 0, wait := .ready,
    link := none, region := Region.fresh pc (List.replicate 16 allLanes) 0, wdog := 0, limit := limit, retired := 0, inRound := 0,
    mode := .normal, line := none, hold := [], paths := [], safe := false, roundGo := false, blocked := false }
/-- A tile as R172 starts it. -/
def Tile.zero : Tile := { anchor := 0, steps := 0, err := false, elems := [] }
/-- The fragment that issues the loaded instruction, or the access thread of group 0 where only an access thread may (R196). -/
def loadFrag : Fragment := Fragment.start 0 0 (loadKernel.pc 0x100) [allLanes] 1 (2 ^ 20)
/-- That access thread (R195). -/
def loadThread : Thread :=
  { group := 0, s := [], frag := { loadFrag with entry := none, m := [1], e := [1] }, running := true, lastIssue := 0 }
/-- The loaded instruction belongs to access threads. -/
def loadOnThread (w : IWord) : Bool :=
  match decode w with
  | .ok (.qld _) => true
  | .ok (.qst _) => true
  | _ => false
/-- The loaded team. -/
def loadTeam (id : Nat) (thr : Bool) : Team :=
  { id := id, launch := 1, ctx := 0, core := 0, kernel := loadKernel, number := 0, linear := 0, cluster := 0, unitX := 0, unitY := 0,
    unitZ := 0, x0 := 0, y0 := 0, groups := [Group.fresh 256 0],
    frags := [loadFrag], frames := [],
    bars := List.replicate 16 { phase := 0, count := 0, expect := 0 }, tiles := List.replicate 16 Tile.zero, tiles0 := 8,
    slabs0 := 20, bars0 := 8, arena := 0, frameBytes := 0, halves := [0, 1], threads := if thr then [loadThread] else [], held := [], lost := false, marker := none, lastMiss := 0, entries := [], missAt := none,
    detRead := false,
    phase := .running, since := 0, energy := 0, nextFrag := 1 }
/-- The state in which the next step issues the instruction `w`. -/
def State.loadWord (s : State) (w : IWord) : State :=
  let id := s.nextTeam
  { s with
    agenda := [], forced := [],
    issue := some { team := id, frag := 0, thread := if loadOnThread w then some 0 else none, pc := loadKernel.pc 0x100, slot := 0, line := loadKernel.pc 0x100,
                    next := loadKernel.pc 0x101, fa := 15, fb := 15, snap := none },
    mem := Memory.writeBytes (loadTables s.mem) (loadBase + 0x100) (natLe 64 (loadLine w).toNat),
    teams := [loadTeam id (loadOnThread w)], nextTeam := id + 1,
    host := { s.host with stage := 7, ctxs := [loadCtx], lroot := cellPut 0 s.host.lroot 0 0x100000 } }

end Sys2Proof.Machine
end

