-- ==== Sys2Proof/Machine/Place.lean ====
section
/-! DEFINITION. Placement of teams on cores (R112 to R116, R204, R384): what is free, which core is chosen, and a team as it starts. -/

namespace Sys2Proof.Machine
open Sys2Proof

/-- What a team needs of its core (R112); `records` is the queue storage of a saved team (R204). -/
structure Need where
  groups : Nat
  slabs : Nat
  tiles : Nat
  mhalves : Nat
  bars : Nat
  records : Nat
  deriving DecidableEq, Repr
/-- The need of a team that starts under a kernel (R112, R124). -/
def Kernel.need (k : Kernel) : Need :=
  { groups := k.groups, slabs := k.groups * slabsOf k.genmax, tiles := k.accTiles, mhalves := k.mhalves, bars := k.nb, records := 0 }
/-- The need of a saved team: slabs at each group's genmax, and its queues (R204, R223). -/
def Team.restoreNeed (t : Team) : Need :=
  { t.kernel.need with slabs := t.slabs, records := t.groups.foldl (fun n x => x.queues.foldl (fun n q => n + q.depth) n) 0 }
/-- Free group slots of a partition on a core, ascending (R112, R116). -/
def State.freeSlots (s : State) (ctx core : Nat) : List Nat :=
  let used := (s.onCore core).flatMap fun t => t.groups.map fun x => x.slot
  let dirty := s.scrubs.flatMap fun x => if x.core == core then x.slots else []
  (List.range 64).filter fun k => s.ownsHalf ctx core (k / 32) && !used.contains k && !dirty.contains k
/-- Free tiles of half-core h for a partition. -/
def State.freeTiles (s : State) (ctx core h : Nat) : Nat := s.freeIn ctx core h Config.tilesPerHalf (fun t => t.tilesIn h) (fun x => x.tiles)
/-- Free barrier slots of half-core h for a partition. -/
def State.freeBars (s : State) (ctx core h : Nat) : Nat := s.freeIn ctx core h Config.barsPerHalf (fun t => t.barsIn h) (fun x => x.bars)
/-- Halves of the matrix array that no team holds and that no scrub has still to finish. -/
def State.freeMats (s : State) (ctx core : Nat) : List Nat :=
  let used := (s.onCore core).flatMap (fun t => t.halves) ++ s.scrubs.flatMap fun x => if x.core == core then x.mats else []
  (s.halvesOf ctx core).filter fun h => !used.contains h
/-- The core can meet a need (R112, R113). -/
def State.coreFits (s : State) (ctx core : Nat) (n : Need) : Bool :=
  !(s.halvesOf ctx core).isEmpty && n.groups ≤ (s.freeSlots ctx core).length && n.slabs ≤ s.freeSlabs ctx core &&
    n.tiles ≤ s.freeTiles ctx core 0 + s.freeTiles ctx core 1 && n.mhalves ≤ (s.freeMats ctx core).length &&
    n.bars ≤ s.freeBars ctx core 0 + s.freeBars ctx core 1 && (n.records == 0 || n.records ≤ s.freeRecords ctx core) && (s.freeEntry ctx core).isSome
/-- A die is allowed (R102). -/
def dieAllowed (dies : BitVec 4) (d : Nat) : Bool := dies == 0 || dies.getLsbD d
/-- The core of a lone team (R113): the most free group slots, then the lowest number. -/
def State.bestCore (s : State) (ctx : Nat) (dies : BitVec 4) (n : Need) : List Nat → Option Nat
  | [] => none
  | c :: l =>
    let here := dieAllowed dies (c / 48) && s.coreFits ctx c n
    match s.bestCore ctx dies n l with
    | none => if here then some c else none
    | some d => if here && (s.freeSlots ctx d).length ≤ (s.freeSlots ctx c).length then some c else some d
/-- Every core of the package. -/
def allCores : List Nat := List.range Config.numCores
/-- The position of team t of a cluster with its origin: its core (R114). -/
def clusterCore (k : Kernel) (die x0 y0 t : Nat) : Nat :=
  let p := t / k.cluTpc
  48 * die + 8 * (y0 + p / k.cluW) + (x0 + p % k.cluW)
/-- The images that stand in a context's save arena, and the arenas of its children (R222, R382), as (base, bytes). -/
def State.arenaTaken (s : State) (ctx : Nat) : List (Nat × Nat) :=
  (s.teams.map fun t => (t.arena, imageBytes t.kernel.groups)) ++
    (s.host.ctxs.filter fun d => d.parent == some ctx).map fun d => (d.arena, d.arenasz)
/-- The lowest of some bases. -/
def lowestBase : List Nat → Option Nat
  | [] => none
  | x :: t => match lowestBase t with
    | none => some x
    | some y => some (min x y)
/-- The lowest room of `n` bytes in the arena of a context (R384; notes/assumptions/17.md). -/
def State.arenaFor (s : State) (ctx n : Nat) : Option Nat :=
  match s.ctxDesc ctx with
  | none => none
  | some d =>
    let taken := s.arenaTaken ctx
    lowestBase ((d.arena :: taken.map fun x => x.1 + x.2).filter fun p =>
      d.arena ≤ p && p + n ≤ d.arena + d.arenasz && taken.all fun x => x.1 + x.2 ≤ p || p + n ≤ x.1)
/-- A team as it is admitted (R115, R195): number t of its cluster, or of the grid, on a core; its resources come from half 0 first (R112),
with the room for its image (R384). It stands reserved until it starts (R109). -/
def State.newTeam (s : State) (l : Launch) (k : Kernel) (arena core linear number unit x0 y0 : Nat) : Team :=
  let slots := (s.freeSlots l.ctx core).take k.groups
  let regs (slot : Nat) : Group := ((Group.fresh k.genmax slot).sput 1 l.params).sput 2 (BitVec.ofNat 64 l.seq)
  let f := Fragment.start 0 0 (k.pc k.execEntry) (List.replicate k.groups allLanes) k.cls k.watchdog
  let thread (g : Nat) : Thread :=
    { group := g, s := [(1, l.params), (2, BitVec.ofNat 64 l.seq)].foldl (fun c e => cellPut 0 c e.1 e.2) [],
      frag := { Fragment.start g 0 (k.pc k.accessEntry) ((List.range 16).map fun h => if h == g then 1 else 0) k.cls k.watchdog with
                entry := none, e := (List.range 16).map fun h => if h == g then 1 else 0 },
      running := true, lastIssue := s.stepNo }
  { id := s.nextTeam, launch := l.seq, ctx := l.ctx, core := core,
      kernel := { k with spill := l.spill + BitVec.ofNat 64 (linear * 18432 * (k.groups + 8)) },
      number := number, linear := linear, cluster := if k.cluster then unit else 0, unitX := unit % l.gx, unitY := unit / l.gx % l.gy,
      unitZ := unit / (l.gx * l.gy), x0 := x0, y0 := y0, groups := slots.map regs,
      frags := [{ f with entry := s.freeEntry l.ctx core }], frames := [],
      bars := List.replicate k.nb { phase := 0, count := 0, expect := 0 }, tiles := List.replicate k.accTiles Tile.zero,
      tiles0 := min k.accTiles (s.freeTiles l.ctx core 0), slabs0 := min (k.groups * slabsOf k.genmax) (s.freeSlabsIn l.ctx core 0),
      bars0 := min k.nb (s.freeBars l.ctx core 0), arena := arena, frameBytes := 0, halves := (s.freeMats l.ctx core).take k.mhalves,
      threads := if k.access then (List.range k.groups).map thread else [], held := [], lost := false, marker := none, lastMiss := 0,
      entries := [], missAt := none, detRead := false, phase := .reserved, since := s.ns, energy := 0, nextFrag := 1 }
/-- Add a team. -/
def State.addTeam (s : State) (t : Team) : State := { s with teams := s.teams ++ [t], nextTeam := s.nextTeam + 1 }
/-- Place teams on given cores one after another, all or none (R113, R114). -/
def State.placeAll (s : State) (l : Launch) (k : Kernel) (unit x0 y0 base : Nat) : List (Nat × Nat) → Option State
  | [] => some s
  | (number, core) :: rest =>
    match s.arenaFor l.ctx (imageBytes k.groups) with
    | none => none
    | some a =>
      if s.coreFits l.ctx core k.need then
        State.placeAll (s.addTeam (s.newTeam l k a core (base + number) (if k.cluster then number else unit) unit x0 y0)) l k unit x0 y0
          base rest
      else none
/-- The origins of a cluster in the order of R114. -/
def origins (l : Launch) (k : Kernel) : List (Nat × Nat × Nat) :=
  (((List.range 4).filter (dieAllowed l.dies)).flatMap fun d =>
    (List.range (7 - k.cluH)).flatMap fun y => (List.range (9 - k.cluW)).map fun x => (d, x, y))
/-- Place unit `u` of a launch: a lone team by R113, a cluster by R114; none when it does not fit. -/
def State.placeUnit (s : State) (l : Launch) (k : Kernel) (u : Nat) : Option State :=
  if k.cluster then
    let n := k.cluW * k.cluH * k.cluTpc
    (origins l k).findSome? fun o =>
      s.placeAll l k u o.2.1 o.2.2 (u * n) ((List.range n).map fun t => (t, clusterCore k o.1 o.2.1 o.2.2 t))
  else
    match s.bestCore l.ctx l.dies k.need allCores with
    | none => none
    | some core => s.placeAll l k u 0 0 u [(0, core)]
/-- The number of units of a launch (R102). -/
def Launch.units (l : Launch) : Nat := l.gx * l.gy * l.gz
/-- Place units u to u + n − 1 in order, all or none (R226). -/
def State.placeUnits (s : State) (l : Launch) (k : Kernel) (u : Nat) : Nat → Option State
  | 0 => some s
  | n + 1 =>
    match s.placeUnit l k u with
    | none => none
    | some s => State.placeUnits s l k (u + 1) n
/-- The package as a launch could at best find it (R110, R226): nothing on its cores, no scrub in progress (R385), and room for every image
(R384 holds a unit whose image does not fit). -/
def State.emptied (s : State) (ctx : Nat) : State :=
  { s with teams := [], scrubs := [],
           host := { s.host with changes := [],
                                 ctxs := s.host.ctxs.map fun d => { d with arenasz := if d.ctx == ctx then 2 ^ 64 else d.arenasz } } }
/-- Teams of one unit. -/
def Kernel.unitTeams (k : Kernel) : Nat := if k.cluster then k.cluW * k.cluH * k.cluTpc else 1

end Sys2Proof.Machine
end

