-- ==== Sys2Proof/Machine/System.lean ====
section
/-! DEFINITION. Energy readings and control registers as kernels reach them (R380, R393, R397). -/

namespace Sys2Proof.Machine
open Sys2Proof

/-! ### Accounts (R372, R378, R383) -/

/-- ENERGY(c). -/
def State.energyOf (s : State) (c : Nat) : Nat := (cellGet 0 s.energy.total c).toNat
/-- The estimate of one context: its total and its unreconciled charges (R378). -/
def State.estimateOne (s : State) (c : Nat) : Nat := s.energyOf c + cellGet 0 s.energy.live c / 2 ^ 16
/-- The estimate of a context, its children's included (R383). -/
def State.estimate (s : State) (c : Nat) : Nat :=
  (s.host.ctxs.filter fun d => d.parent == some c).foldl (fun n d => n + s.estimateOne d.ctx) (s.estimateOne c)
/-- The VFs that map to a context, ascending (R383). -/
def State.vfsOf (s : State) (c : Nat) : List Nat := (s.host.vfmap.filter fun e => e.2 == c).map fun e => e.1
/-- QUOTA(v). -/
def State.quotaOf (s : State) (v : Nat) : DWord := cellGet (BitVec.allOnes 64) s.energy.quota v
/-- The context that a VF maps to. -/
def State.ctxOfVf (s : State) (v : Nat) : Option Nat := tableFind s.host.vfmap v
/-- The context is held: a VF of it, or of its parent, is exhausted or frozen (R378, R383, R389). -/
def State.ctxHeld (s : State) (c : Nat) : Bool :=
  let up := match s.ctxDesc c with | some d => d.parent | none => none
  let bad (v : Nat) : Bool := s.energy.qx.contains v || s.host.frozenVfs.contains v
  (s.vfsOf c).any bad || (match up with | none => false | some p => (s.vfsOf p).any bad)

/-- The item of ENRD for a group (R380): the VF of a context is the lowest that maps to it (notes/assumptions/27.md). -/
def State.enrdItem (s : State) (w : Who) (sel : Nat) (v : DWord) : DWord :=
  let c := w.team.ctx
  match sel with
  | 0 => BitVec.ofNat 64 (w.team.energy / 2 ^ 16)
  | 1 => cellGet 0 s.energy.total c
  | 2 =>
    (match s.vfsOf c with
     | [] => BitVec.allOnes 64
     | x :: _ => if s.quotaOf x == BitVec.allOnes 64 then BitVec.allOnes 64 else BitVec.ofNat 64 ((s.quotaOf x).toNat - s.estimate c))
  | 3 => BitVec.ofNat 64 (s.energy.scale.toNat + 2 ^ 32 * (match s.vfsOf c with | [] => false | x :: _ => s.energy.qx.contains x).toNat)
  | _ =>
    let k := natBits v.toNat 0 4
    let die := natBits v.toNat 4 4
    if 4 ≤ die then 0
    else
      let d := if die == 0 then w.team.core / 48 else if die == 1 then 4 + w.team.core / 48 else 6 + die
      BitVec.ofNat 64 ((Config.rate d k).toNat * (Config.kvt d s.energy.kvtRound).toNat)
/-- ENRD. -/
def execEnrd (d a : SReg) (sel : BitVec 16) (s : State) : Host.Outcome State Fault Refusal :=
  execOn .execOnly false (fun _ => sel.toNat ≤ 4) (fun w s =>
    if w.determ then s.writeDet w d 0 else gformW w d.toNat (fun g => s.enrdItem w sel.toNat (w.s g a.toNat)) s) s

/-! ### Control registers (R393, R397) -/

/-- DEVID. -/
def devId : DWord := BitVec.ofNat 64 (0x4B51 + 2 ^ 16 * (if Config.steppingB1 then 0xB1 else 0xB0) + 2 ^ 24 * 0x10)
/-- PKGINFO. -/
def State.pkgInfo (s : State) : DWord := BitVec.ofNat 64 (s.host.pkg % 64 + 64 * (s.host.nodes % 64))
/-- The selector names RATE(d, k). -/
def selRate (sel : Nat) : Bool := 0x400 ≤ sel && sel < 0x4A0
/-- The selector names MCNT(n, h, j). -/
def selMcnt (sel : Nat) : Bool := 0x2000 ≤ sel && sel < 0x2000 + 4 * Config.numCores
/-- The selector names LEASE(c). -/
def selLease (sel c : Nat) : Bool := sel == 0x200 + c && c < Config.numCtx
/-- RATE by selector. -/
def rateReg (sel : Nat) : DWord := Config.rate ((sel - 0x400) / 16) ((sel - 0x400) % 16)
/-- The register that a kernel of a context may read by CRD (R393): none where it has no right. -/
def State.crdRead (s : State) (c sel : Nat) : Option DWord :=
  if sel == 0 then some devId
  else if sel == 1 then some s.pkgInfo
  else if selLease sel c then some (cellGet 10 s.host.lease c)
  else if selRate sel then some (rateReg sel)
  else if selMcnt sel then
    if s.ownsHalf c ((sel - 0x2000) / 4) ((sel - 0x2000) / 2 % 2) then some (cellGet 0 s.host.mcnt (sel - 0x2000)) else none
  else none
/-- CRD. -/
def execCrd (d : SReg) (sel : BitVec 16) (s : State) : Host.Outcome State Fault Refusal :=
  execOn .execOnly false (fun w => (s.crdRead w.team.ctx sel.toNat).isSome) (fun w s =>
    let v := (s.crdRead w.team.ctx sel.toNat).getD 0
    if selMcnt sel.toNat then s.writeDet w d v else gformW w d.toNat (fun _ => v) s) s
/-- Write LEASE(c): a value outside 1 to 255 is ignored (R393). -/
def State.putLease (s : State) (c : Nat) (v : DWord) : State :=
  if 1 ≤ v.toNat && v.toNat ≤ 255 then { s with host := { s.host with lease := cellPut 10 s.host.lease c v } } else s
/-- CWR. -/
def execCwr (sel : BitVec 16) (a : SReg) (s : State) : Host.Outcome State Fault Refusal :=
  execOn .execOnly false (fun w => selLease sel.toNat w.team.ctx) (fun w s =>
    .ok (s.putLease w.team.ctx (w.s w.lowest a.toNat))) s

end Sys2Proof.Machine
end

