-- ==== Sys2Proof/Machine/Tiers.lean ====
section
/-! DEFINITION. The tier engine (R343 to R352): capacity and protection of copies, what it carries out, sampling, and MARK and TTQ.
A copy holds no data of its own: every load is answered by its home or a lease copy, which R344 allows (notes/assumptions/20.md). -/

namespace Sys2Proof.Machine
open Sys2Proof

/-! ### Copies and their capacity (R343, R348) -/

/-- The copies of a context in a tier. -/
def State.copiesIn (s : State) (ctx tier : Nat) : List TierCopy := s.tiers.copies.filter fun c => c.ctx == ctx && c.tier == tier
/-- A fetch or pin of a team is in window; a saved team's entries have lost that protection (R349). -/
def Team.windowHolds (t : Team) (e : TEntry) : Bool := t.resident && e.inWindow t.marker && e.brings && !e.bad
/-- The sectors whose copies a context's entries in window and pins protect in a tier (R346, R348). -/
def State.shelter (s : State) (ctx tier : Nat) : List (Nat × Nat) :=
  ((s.teams.filter fun t => t.ctx == ctx).flatMap fun t =>
    ((s.ttEntries t).filter fun e => t.windowHolds e.2 && e.2.tier == tier).map fun e => e.2.span t.linear) ++
  (s.tiers.pins.filter fun p => p.ctx == ctx && p.tier == tier).map fun p => (p.first, p.last)
/-- A stretch of sectors in the units in which a tier counts: sectors in tier 0, 64 KiB granules in tiers 1 and 2 (R343). -/
def tierStretch (tier : Nat) (x : Nat × Nat) : Nat × Nat := if tier == 0 then x else (x.1 / 2048, x.2 / 2048)
/-- The node whose staging a granule takes in tier 2: that of its home (R343). -/
def State.granuleNode (s : State) (ctx g : Nat) : Nat :=
  match s.check ctx .load 1 (65536 * g) with
  | .ok key _ => keyNode key
  | _ => 0
/-- The capacity of a context in a tier, in its units (R343, R381): a way of tier 0 holds a thirty-second of the memory-side SRAM that no
window has carved (R16), and the ways of a child are not its parent's (R382); the node staging quota is per node. -/
def State.tierCap (s : State) (ctx tier : Nat) : Nat :=
  match s.ctxDesc ctx with
  | none => 0
  | some d =>
    if tier == 0 then ((List.range 32).filter fun k => d.ways.getLsbD k &&
        s.host.ctxs.all fun x => x.parent != some ctx || !x.ways.getLsbD k).length * (s.uncarved / 32)
    else if tier == 1 then d.stage else d.nstage
/-- The units that stretches of sectors take in a tier, each counted once. -/
def unitsOf (tier : Nat) (l : List (Nat × Nat)) : List (Nat × Nat) := (l.map (tierStretch tier)).foldr insertStretch []
/-- The nodes at which stretches take staging, one for each granule. -/
def State.stagingNodes (s : State) (ctx : Nat) (l : List (Nat × Nat)) : List Nat :=
  (unitsOf 2 l).flatMap fun x => (List.range (x.2 + 1 - x.1)).map fun i => s.granuleNode ctx (x.1 + i)
/-- The top-level context of a context. -/
def State.familyTop (s : State) (ctx : Nat) : Nat := ((s.ctxDesc ctx).bind fun d => d.parent).getD ctx
/-- The other contexts whose staging counts against the same quota: the parent and its children (R382). -/
def State.family (s : State) (ctx : Nat) : List Nat :=
  let p := s.familyTop ctx
  (p :: (s.host.ctxs.filter fun d => d.parent == some p).map fun d => d.ctx).filter fun c => c != ctx
/-- The stretches that a context holds in a tier. -/
def State.heldStretches (s : State) (ctx tier : Nat) : List (Nat × Nat) := (s.copiesIn ctx tier).map fun c => (c.first, c.last)
/-- Units of a tier that the rest of a context's family holds. -/
def State.familyUse (s : State) (ctx tier : Nat) : Nat :=
  (s.family ctx).foldl (fun n c => n + stretchSize (unitsOf tier (s.heldStretches c tier))) 0
/-- Stretches of sectors fit in the tier, each unit counted once, and in the staging quota of the context's family (R343, R382); in tier 2 at
every node. -/
def State.tierFits (s : State) (ctx tier : Nat) (l : List (Nat × Nat)) : Bool :=
  let n := stretchSize (unitsOf tier l)
  if tier == 0 then n ≤ s.tierCap ctx 0
  else if tier == 1 then n ≤ s.tierCap ctx 1 && n + s.familyUse ctx 1 ≤ s.tierCap (s.familyTop ctx) 1
  else
    let ns := s.stagingNodes ctx l
    let rest := (s.family ctx).flatMap fun c => s.stagingNodes c (s.heldStretches c 2)
    ns.eraseDups.all fun k => ns.count k ≤ s.tierCap ctx 2 && ns.count k + rest.count k ≤ s.tierCap (s.familyTop ctx) 2
/-- A copy without a stretch of its sectors. -/
def cutCopy (k : Nat × Nat) (c : TierCopy) : List TierCopy :=
  (cutStretch k (c.first, c.last)).map fun x => { c with first := x.1, last := x.2 }
/-- Drop what copies of a context hold of a stretch, in the tiers and of the copies that `p` names. -/
def State.dropCopies (s : State) (ctx : Nat) (p : TierCopy → Bool) (k : Nat × Nat) : State :=
  { s with tiers := { s.tiers with copies := s.tiers.copies.flatMap fun c => if c.ctx == ctx && p c then cutCopy k c else [c] } }
/-- The order in which unprotected copies are freed (R348): sampled copies by their counter, 0 first, then entries' copies, the oldest
first. -/
def State.freeRank (s : State) (c : TierCopy) (age : Nat) : Nat :=
  if c.sample then
    (match s.tiers.counters.find? fun x => x.ctx == c.ctx && x.granule == c.first / 2048 with
     | none => 0
     | some x => x.count)
  else 256 + age
/-- The first of the lowest rank. -/
def firstFreed : List (Nat × TierCopy) → Option (Nat × TierCopy)
  | [] => none
  | x :: t =>
    match firstFreed t with
    | none => some x
    | some y => if y.1 < x.1 then some y else some x
/-- Free the unprotected copies of a context in a tier, in the order of R348, until a further stretch fits. -/
def State.makeRoom (s : State) (ctx tier : Nat) (need : Nat × Nat) : Nat → State
  | 0 => s
  | fuel + 1 =>
    let cs := s.copiesIn ctx tier
    let safe := s.shelter ctx tier
    if s.tierFits ctx tier (need :: cs.map fun c => (c.first, c.last)) then s
    else match firstFreed ((cs.zipIdx.filter fun x => !(outside safe [(x.1.first, x.1.last)]).isEmpty).map fun x =>
        (s.freeRank x.1 x.2, x.1)) with
      | none => s
      | some (_, c) =>
        (outside safe [(c.first, c.last)]).foldl (fun s x => s.dropCopies ctx (fun y => y.tier == tier) x) s |>.makeRoom ctx tier need fuel
/-- Freeing every unprotected copy of a context in a tier would make room for a stretch (R348). -/
def State.canFit (s : State) (ctx tier : Nat) (need : Nat × Nat) : Bool :=
  let cs := (s.copiesIn ctx tier).map fun c => (c.first, c.last)
  s.tierFits ctx tier (need :: outside (outside (s.shelter ctx tier) cs) cs)

/-! ### Carrying out an entry (R344, R346 to R348) -/

/-- REASON of R352 for a range that cannot be copied into a tier; none when it can, and `wait` while a leaf migrates. -/
inductive RangeVerdict
  | good
  | reason (k : Nat)
  | wait
  deriving DecidableEq, Repr
/-- A home below a tier (R343). -/
def homeBelow (tier sp : Nat) : Bool :=
  sp == spTRAY || (tier ≤ 1 && sp == spPOOL) || (tier == 0 && sp == spHBM)
/-- The pages of a range, each checked as a load (R347): NC pages and homes not below the tier give reason 3. -/
def State.rangeVerdict (s : State) (ctx tier va n : Nat) : RangeVerdict :=
  ((List.range ((va + n - 1) / 65536 + 1 - va / 65536)).map fun i => va / 65536 + i).foldl (fun v g =>
    match v with
    | .good =>
      (match s.check ctx .load 1 (max va (65536 * g)) with
       | .mig => .wait
       | .fault c => .reason (if c == 0x20 then 2 else 3)
       | .ok key l => if homeBelow tier (keySpace key) && natBits l.e 8 1 == 0 then .good else .reason 3)
    | x => x) .good
/-- Read the POOL and TRAY sectors of a range at their homes as leases (R344): the stamp that runs out first. -/
def State.leaseRange (s : State) (ctx va n : Nat) : State × Option (BitVec 16) :=
  (pooledSectors (s.range ctx .load va n).known).foldl (fun (a : State × Option (BitVec 16)) x =>
    let r := a.1.homeRead a.1.pts (a.1.leaseOf ctx) x
    (r.1.raisePts r.2.wts, some (match a.2 with | none => r.2.rts | some v => if tsPast v r.2.rts then v else r.2.rts))) (s, none)
/-- Copy the sectors of a stretch that a context does not hold in a tier, leases that have run out among them (R344): read at their homes,
except for tier 2, which lies at the home. -/
def State.copyStretch (s : State) (ctx tier : Nat) (sample : Bool) (x : Nat × Nat) : State :=
  let s := s.dropCopies ctx (fun c => c.tier == tier && !s.copyValid c) x
  (outside (s.heldIn ctx tier) [x]).foldl (fun (s : State) y =>
    let n := 32 * (y.2 + 1 - y.1)
    let q := if tier == 2 then (s, none) else s.leaseRange ctx (32 * y.1) n
    let s := q.1.chargeRuns ctx none (s.range ctx .load (32 * y.1) n).known
    let s : State := { s with tiers := { s.tiers with
      copies := s.tiers.copies ++ [{ ctx := ctx, tier := tier, first := y.1, last := y.2, rts := q.2, sample := sample }] } }
    { s with copies := s.copies.drop (s.copies.length - s.copyRoom) }) s
/-- REASON of an entry of a team (R352). -/
def Team.reason (t : Team) (k : Nat) : Nat := cellGet 0 t.entries k
/-- Set it. -/
def State.setReason (s : State) (tid k v : Nat) : State := s.onTeam tid fun t => { t with entries := cellPut 0 t.entries k v }
/-- An entry that the tier engine has to carry out: armed or in window, at the marker position or at the one that a MARK waits to reach
(R346, R351). -/
def TEntry.due (e : TEntry) (lead : Nat) (t : Team) : Bool :=
  t.resident && t.phase != .reserved && e.brings && !e.bad && (e.armed lead t.marker || e.inWindow t.marker || (t.missAt.isSome && e.required t.missAt))
/-- What the tier engine has to do, in its order: first what MARKs wait for (R351), then in table order, for all teams in ascending team
number (R346; notes/assumptions/20.md). -/
def State.tierWork (s : State) : List (Team × Nat × TEntry) :=
  let all := (s.teams.flatMap fun t => (s.ttEntries t).map fun e => (t, e.1, e.2)).filter fun x => x.2.2.due (s.ttHead x.1).2 x.1
  let key (x : Team × Nat × TEntry) : Nat × Nat × Nat :=
    (if x.1.missAt.isSome && x.2.2.required x.1.missAt then 0 else 1, x.2.1, x.1.linear)
  let before (x y : Team × Nat × TEntry) : Bool :=
    let a := key x
    let b := key y
    if a.1 != b.1 then a.1 < b.1 else if a.2.1 != b.2.1 then a.2.1 < b.2.1 else a.2.2 ≤ b.2.2
  all.foldr (fun x l => (l.takeWhile fun y => !before x y) ++ x :: l.dropWhile fun y => !before x y) []
/-- An entry on which the engine can go on: not resident, not failed, and no page of it migrating. -/
def State.tierOpen (s : State) (x : Team × Nat × TEntry) : Bool :=
  !s.resident x.1 x.2.2 && x.1.reason x.2.1 == 0 && s.rangeVerdict x.1.ctx x.2.2.tier (x.2.2.base x.1.linear) x.2.2.len != .wait
/-- The engine comes to an entry: no entry before it is still to be carried out. -/
def State.tierTurn (s : State) (team entry : Nat) : Bool :=
  !((s.tierWork.takeWhile fun x => !(x.1.id == team && x.2.1 == entry)).any fun x => s.tierOpen x)
/-- TIER_CARRY_OUT: the tier engine goes on with a fetch or pin of a team: the first `sectors` of its range are there afterwards (R346 to
R348). An entry that is not due, or before whose turn others come, is left alone; one that fails is tried again in a later event. -/
def execTierCarryOut (team entry sectors : Nat) (s : State) : Host.Outcome State Fault Refusal :=
  match s.teamAt team with
  | none => .next s
  | some t =>
    match s.ttEntry t entry with
    | none => .next s
    | some e =>
      if !e.due (s.ttHead t).2 t || !s.tierTurn team entry then .next s
      else
        match s.rangeVerdict t.ctx e.tier (e.base t.linear) e.len with
        | .wait => .next s
        | .reason k => .next (s.setReason team entry k)
        | .good =>
          let x := e.span t.linear
          if !s.canFit t.ctx e.tier x then .next (s.setReason team entry 1)
          else
            let s := (s.makeRoom t.ctx e.tier x ((s.copiesIn t.ctx e.tier).length + 1)).setReason team entry 0
            if sectors == 0 then .next s
            else
              let part := (x.1, min x.2 (x.1 + sectors - 1))
              let s := s.copyStretch t.ctx e.tier false part
              let pin : TierPin := { launch := t.launch, ctx := t.ctx, tier := e.tier, first := part.1, last := part.2 }
              .next (if e.action == 2 && !s.tiers.pins.contains pin then { s with tiers := { s.tiers with pins := s.tiers.pins ++ [pin] } } else s)
/-- A lease copy that must stay resident: a fetch or pin in window covers some of it (R344, R346). -/
def State.copyKept (s : State) (c : TierCopy) : Bool :=
  c.rts.isSome && s.teams.any fun t => t.ctx == c.ctx && (s.ttEntries t).any fun e =>
    t.windowHolds e.2 && e.2.tier == c.tier && (e.2.span t.linear).1 ≤ c.last && c.first ≤ (e.2.span t.linear).2
/-- TIER_LEASE_RENEW: when pts comes within 2 ticks of the rts of a copy that must stay resident, its lease is renewed (R344). -/
def execTierLeaseRenew (copy : Nat) (s : State) : Host.Outcome State Fault Refusal :=
  match s.tiers.copies[copy]? with
  | none => .next s
  | some c =>
    match c.rts with
    | none => .next s
    | some v =>
      if s.copyKept c && (tsPast v s.pts || (v - s.pts).toNat ≤ 2) then
        let q := s.leaseRange c.ctx (32 * c.first) (32 * (c.last + 1 - c.first))
        .next { q.1 with tiers := { q.1.tiers with copies := q.1.tiers.copies.set copy { c with rts := q.2 } } }
      else .next s

/-! ### Sampling (R350) -/

/-- SAMPLE_DECAY: at each 1 ms boundary of pod time every counter is halved. -/
def execSampleDecay (s : State) : Host.Outcome State Fault Refusal :=
  if s.ns / 1000000 ≤ s.tiers.decays then .next s
  else .next { s with tiers := { s.tiers with decays := s.tiers.decays + 1, counters := s.tiers.counters.map fun c => { c with count := c.count / 2 } } }
/-- The counter of a granule. -/
def State.counterOf (s : State) (ctx granule : Nat) : Option Counter :=
  s.tiers.counters.find? fun c => c.ctx == ctx && c.granule == granule
/-- HOT_GRANULE_COPY: a granule whose counter is 8 or more is copied into tier 1 for a POOL or TRAY home and tier 0 for an HBM home,
into free room only; what the tier holds of it stays. -/
def execHotGranuleCopy (ctx granule : Nat) (s : State) : Host.Outcome State Fault Refusal :=
  match s.counterOf ctx granule with
  | none => .next s
  | some c =>
    let tier := if c.home == spHBM then 0 else 1
    let x := (2048 * granule, 2048 * granule + 2047)
    if c.count < 8 then .next s
    else
      match s.rangeVerdict ctx tier (65536 * granule) 65536 with
      | .good =>
        if s.tierFits ctx tier (x :: (s.copiesIn ctx tier).map fun c => (c.first, c.last)) then .next (s.copyStretch ctx tier true x)
        else .next s
      | _ => .next s
/-- A table change drops the copies of the pages it touches (R347). -/
def State.dropTierSpan (s : State) (ctx va n : Nat) : State := s.dropCopies ctx (fun _ => true) (va / 32, (va + n - 1) / 32)
/-- The launch has completed: its pins protect nothing any longer (R348, R349). -/
def State.endPins (s : State) (launch : Nat) : State :=
  { s with tiers := { s.tiers with pins := s.tiers.pins.filter fun p => p.launch != launch } }

/-! ### MARK (R346, R351) -/

/-- Carry out one evict entry of a team (R346): every pin of the launch over the range ends, and the copies of the range in its tier go,
except those that entries in window or other launches' pins still hold there. -/
def State.evict (s : State) (t : Team) (e : TEntry) : State :=
  let x := e.span t.linear
  let s := { s with tiers := { s.tiers with pins := s.tiers.pins.filter fun p =>
    !(p.launch == t.launch && p.first ≤ x.2 && x.1 ≤ p.last) } }
  (outside (s.shelter t.ctx e.tier) [x]).foldl (fun s y => s.dropCopies t.ctx (fun c => c.tier == e.tier) y) s
/-- The entries that would be required at position n and are not resident. -/
def State.missing (s : State) (t : Team) (n : Nat) : List Nat :=
  ((s.ttEntries t).filter fun e => e.2.required (some n) && !s.resident t e.2).map fun e => e.1
/-- REASON of an entry (R352). -/
def State.reasonOf (s : State) (t : Team) (k : Nat) : Nat :=
  match s.ttEntry t k with
  | some e => if e.bad then 4 else t.reason k
  | none => 0
/-- MARK sets c and carries out the evicts of position n. -/
def State.setMarker (s : State) (tid n : Nat) : State :=
  let s := s.onTeam tid fun t => { t with marker := some n, missAt := none }
  match s.teamAt tid with
  | none => s
  | some t => ((s.ttEntries t).filter fun e => e.2.action == 1 && !e.2.bad && e.2.marker == n).foldl (fun s e => s.evict t e.2) s
/-- The body of MARK (R351). -/
def markBody (n : Nat) (nc : Bool) (w : Who) (s : State) : Result :=
  match (if nc then [] else s.missing w.team n) with
  | [] => .ok (s.setMarker w.team.id n)
  | k :: _ =>
    if w.determ then .wait (s.onTeam w.team.id fun t => { t with missAt := some n })
    else
      let miss : DWord := BitVec.ofNat 64 (k + 2 ^ 16 * s.reasonOf w.team k + 2 ^ 24 * n)
      .trapWith (fun s => s.onTeam w.team.id fun t => { t with lastMiss := miss, missAt := some n }) 0x30 (BitVec.ofNat 64 n)
/-- MARK n. -/
def execMark (n : BitVec 16) (nc : Bool) (s : State) : Host.Outcome State Fault Refusal :=
  execOn .execOnly true (fun _ => true) (markBody n.toNat nc) s
/-- MARK.S. -/
def execMarkS (a : SReg) (nc : Bool) (s : State) : Host.Outcome State Fault Refusal :=
  execOn .execOnly true (fun _ => true) (fun w s => markBody (natBits (w.s w.lowest a.toNat).toNat 0 16) nc w s) s

/-! ### TTQ (R352) -/

/-- STATE, REASON and the sectors of an entry. -/
def State.entryStatus (s : State) (t : Team) (k : Nat) : Nat :=
  match s.ttEntry t k with
  | none => 4
  | some e =>
    let reason := s.reasonOf t k
    let st :=
      if reason != 0 then 3
      else if s.resident t e && e.brings then 2
      else if e.due (s.ttHead t).2 t then 1
      else 0
    st + 2 ^ 8 * reason + 2 ^ 16 * min (e.len / 32 - stretchSize (s.lacks t e)) (2 ^ 32 - 1)
/-- The granule of an address: counter, held, hot, covered. -/
def State.granuleStatus (s : State) (t : Team) (va : Nat) : Nat :=
  let c := s.counterOf t.ctx (va / 65536)
  let n := match c with | none => 0 | some x => x.count
  n + 2 ^ 8 * c.isSome.toNat + 2 ^ 9 * (decide (8 ≤ n)).toNat + 2 ^ 10 * (s.windowCovers t va).toNat
/-- Free and used capacity of a tier in 64 KiB units: used rounded up, free down. -/
def State.tierStatus (s : State) (ctx tier : Nat) : Nat :=
  if 3 ≤ tier then 0
  else
    let cap (c : Nat) : Nat := s.tierCap c tier * (if tier == 2 then s.host.nodes else 1)
    let used := stretchSize (unitsOf tier (s.heldStretches ctx tier))
    let free := cap ctx - used
    if tier == 0 then free / 2048 % 2 ^ 32 + 2 ^ 32 * ((used + 2047) / 2048)
    else min free (cap (s.familyTop ctx) - s.familyUse ctx tier - used) % 2 ^ 32 + 2 ^ 32 * used
/-- The item of TTQ for a group. -/
def State.ttqItem (s : State) (w : Who) (sel : Nat) (v : DWord) : DWord :=
  match sel with
  | 0 => (match w.team.marker with | none => 0 | some c => BitVec.ofNat 64 (c + 2 ^ 16))
  | 1 => BitVec.ofNat 64 (s.entryStatus w.team (natBits v.toNat 0 16))
  | 2 => w.team.lastMiss
  | 3 => BitVec.ofNat 64 (s.granuleStatus w.team v.toNat)
  | _ => BitVec.ofNat 64 (s.tierStatus w.team.ctx (natBits v.toNat 0 2))
/-- TTQ. -/
def execTtq (d a : SReg) (sel : BitVec 16) (s : State) : Host.Outcome State Fault Refusal :=
  execOn .execOnly false (fun _ => sel.toNat ≤ 4) (fun w s =>
    if sel.toNat == 1 || sel.toNat == 3 || sel.toNat == 4 then
      if w.determ then s.writeDet w d 0
      else gformW w d.toNat (fun g => s.ttqItem w sel.toNat (w.s g a.toNat)) s
    else gformW w d.toNat (fun g => s.ttqItem w sel.toNat (w.s g a.toNat)) s) s

end Sys2Proof.Machine
end

