-- ==== Sys2Proof/Machine/Admission.lean ====
section
/-! DEFINITION. Launches at the package that admits them (R52 to R54, R107 to R111, R345): the header of a kernel image, the state
words, the CLAIMs that the package posts, and the add to DONE. -/

namespace Sys2Proof.Machine
open Sys2Proof

/-! ### The kernel header (R52, R53) -/

/-- An image offset that names nothing or a line inside the image (R53). -/
def imgOffOk (size off : Nat) : Bool := off == 0 || (off % 64 == 0 && off < size)
/-- The checks of R53 on the 256 bytes of a header. -/
def headerOk (b : List Byte) : Bool :=
  let f (o n : Nat) : Nat := bytesAt b o n
  let fl := f 6 2
  let size := f 8 8
  let clu := natBits fl 3 1 == 1
  let w := f 0x40 1
  let h := f 0x41 1
  let tpc := f 0x42 1
  f 0 4 == 0x44565A31 && f 4 2 == 0x0100 && fl / 16 == 0 && f 0x3E 2 == 0 && f 0x43 1 == 0 && f 0x60 160 == 0 &&
    size % 64 == 0 && f 0x10 8 != 0 &&
    ([0x10, 0x18, 0x20, 0x28, 0x30, 0x50].all fun o => imgOffOk size (f o 8)) &&
    ((natBits fl 2 1 == 1) == (f 0x18 8 != 0)) &&
    1 ≤ f 0x38 2 && f 0x38 2 ≤ 16 && f 0x3A 2 ≤ 2048 && f 0x3A 2 % 16 == 0 && f 0x3C 1 ≤ 16 && f 0x3D 1 ≤ 2 &&
    (if clu then 1 ≤ w && w ≤ 8 && 1 ≤ h && h ≤ 6 && w * h ≤ 12 && 1 ≤ tpc && tpc ≤ 64 else w == 0 && h == 0 && tpc == 0) &&
    (f 0x44 4 == 0 || (1024 ≤ f 0x44 4 && f 0x44 4 ≤ 65536))
/-- The kernel that a good header describes, under a launch (R52, R102); REGIONED or DETERM makes it regioned (R216). -/
def kernelOf (l : Launch) (b : List Byte) : Kernel :=
  let f (o n : Nat) : Nat := bytesAt b o n
  let fl := f 6 2
  { image := l.image, params := l.params, spill := l.spill, imageSize := f 8 8, execEntry := f 0x10 8, accessEntry := f 0x18 8,
    trapEntry := f 0x20 8, safeTable := f 0x28 8, timetable := f 0x30 8, groups := f 0x38 2, genmax := f 0x3A 2,
    accTiles := f 0x3C 1, mhalves := f 0x3D 1, cluster := natBits fl 3 1 == 1, access := natBits fl 2 1 == 1,
    determ := natBits fl 1 1 == 1, regioned := natBits fl 0 2 != 0, cluW := f 0x40 1, cluH := f 0x41 1, cluTpc := f 0x42 1,
    quantum := if f 0x44 4 == 0 then 4096 else f 0x44 4, watchdog := if f 0x48 8 == 0 then 2 ^ 20 else f 0x48 8, nb := l.nb,
    weight := l.weight, cls := l.cls }
/-- Numbers in ascending order. -/
def ascending : List Nat → Bool
  | a :: b :: l => a ≤ b && ascending (b :: l)
  | _ => true
/-- What reading a header or table gives. -/
inductive HeaderRead
  | good (k : Kernel)
  | refuse (cause : Nat)
  | mig
  deriving DecidableEq, Repr
/-- The timetable of a kernel: cause 1 when R345 refuses it, cause 2 when it cannot be read. -/
def State.timetableRead (s : State) (c : Nat) (k : Kernel) : HeaderRead :=
  let base := k.image.toNat + k.timetable
  if k.timetable == 0 then .good k
  else if k.imageSize < k.timetable + 16 then .refuse 1
  else match s.range c .load base 16 with
    | .bad .. => .refuse 2
    | .mig .. => .mig
    | .runs r =>
      let h := Memory.runBytes s.mem r
      let n := bytesAt h 0 4
      if bytesAt h 5 11 != 0 || 65535 < n || k.imageSize < k.timetable + 16 + 32 * n then .refuse 1
      else match s.range c .load (base + 16) (32 * n) with
        | .bad .. => .refuse 2
        | .mig .. => .mig
        | .runs r =>
          let b := Memory.runBytes s.mem r
          if ascending ((List.range n).map fun i => bytesAt b (32 * i + 0x10) 2) then .good k else .refuse 1
/-- Read and check the image header of a launch (R53, R109, R110, R345). -/
def State.headerRead (s : State) (l : Launch) : HeaderRead :=
  match s.range l.ctx .load l.image.toNat 256 with
  | .bad .. => .refuse 2
  | .mig .. => .mig
  | .runs r =>
    let b := Memory.runBytes s.mem r
    if headerOk b then s.timetableRead l.ctx (kernelOf l b) else .refuse 1
/-- The launch can never fit (R110, R226): a unit, or every unit of a deterministic launch at once, finds no place even with no team
present. -/
def State.neverFits (s : State) (l : Launch) (k : Kernel) : Bool :=
  ((s.emptied l.ctx).placeUnits l k 0 (if k.determ then l.units else 1)).isNone

/-! ### State words (R103 to R107) -/

/-- The ensign offset of a queue's status block. -/
def statusBlock (c q : Nat) : Nat := 0x1000000 + (64 * c + q) * 256
/-- The ensign offset of the STATE word of a ring slot. -/
def stateOff (c q k : Nat) : Nat := statusBlock c q + 0x20 + 8 * k
/-- The STATE word of a launch's slot. -/
def State.stateOf (s : State) (l : Launch) : Nat := s.ens64 (stateOff l.ctx l.queue l.slot)
/-- The slot still holds the launch. -/
def State.slotHolds (s : State) (l : Launch) : Bool := s.stateOf l / 2 ^ 16 == l.seq % 2 ^ 48
/-- The STATE words of a queue, as (sequence bits, ST). -/
def State.queueStates (s : State) (c q : Nat) : List (Nat × Nat) :=
  (List.range 16).map fun k => let w := s.ens64 (stateOff c q k); (w / 2 ^ 16, w % 256)
/-- How many records of a queue have been accepted since the one in slot `k` (R105). -/
def State.slotAge (s : State) (c q k : Nat) : Nat := (s.ens64 (statusBlock c q) + 15 - k) % 16
/-- The conditions of R107 but for the dependence: every launch accepted earlier in its queue, by the slots in which R105 places them, is
in state 2 or final; with SERIAL, final. -/
def State.turnCome (s : State) (l : Launch) : Bool :=
  (s.queueStates l.ctx l.queue).zipIdx.all fun x =>
    s.slotAge l.ctx l.queue x.2 ≤ s.slotAge l.ctx l.queue l.slot || (x.1.2 != 1 && (!l.serial || x.1.2 != 2))
/-- ST of the slots of the context that hold DEP (R107). -/
def State.depStates (s : State) (l : Launch) : List Nat :=
  if l.dep == 0 then []
  else ((List.range 64).flatMap fun q => s.queueStates l.ctx q).filterMap fun x =>
    if x.1 == l.dep % 2 ^ 48 && x.2 != 0 then some x.2 else none
/-- Eligible (R107). -/
def State.eligible (s : State) (l : Launch) : Bool :=
  s.turnCome l && (s.depStates l).all fun x => x == 3
/-- The DEP launch ended refused or aborted (R107, R110). -/
def State.depFailed (s : State) (l : Launch) : Bool :=
  s.turnCome l && (s.depStates l).any fun x => x == 4 || x == 5
/-- Post the CLAIM that moves a launch from one ST to another (R106, R109 to R111). -/
def State.postClaim (s : State) (l : Launch) (a b cause : Nat) : State :=
  let w := l.seq % 2 ^ 48 * 2 ^ 16
  s.devicePost l.ctx (deviceRecord 2 [(0x08, 4, stateOff l.ctx l.queue l.slot), (0x0C, 1, 8), (0x10, 8, w + a),
    (0x18, 8, w + cause * 2 ^ 8 + b)])

/-! ### Completion (R111) -/

/-- Teams of a launch that are reserved for it. -/
def State.reservedFor (s : State) (l : Launch) : List Team := s.teams.filter fun t => t.launch == l.seq && t.phase == .reserved
/-- A launch ends at this package: what it had reserved is released (R109), and its pins protect nothing any longer (R348). -/
def State.dropLaunch (s : State) (l : Launch) : State :=
  let ts := s.reservedFor l
  let s := (ts.foldl (fun s t => s.newScrub t.scrub) s).endPins l.seq
  { s with launches := s.launches.filter fun x => x.seq != l.seq,
           teams := s.teams.filter fun t => !(ts.any fun x => x.id == t.id) }
/-- The reserved teams of a launch start (R109, R115), a deterministic launch with its first round (R226). -/
def State.startTeams (s : State) (l : Launch) : State :=
  let s := { s with teams := s.teams.map fun (t : Team) =>
    if t.launch == l.seq && t.phase == TeamPhase.reserved then { t with phase := TeamPhase.running, since := s.ns } else t }
  s.putLaunch { l with stage := .admitted, roundMem := if l.kernel.any fun (k : Kernel) => k.determ then some s.mem else none }
/-- The add of 1 to DONE: checked as an ATOM is; a failure is written to the context's error log (R111). -/
def State.doneAdd (s : State) (l : Launch) : State :=
  if l.done == 0 then s.dropLaunch l
  else match s.check l.ctx .atomic 8 l.done.toNat with
    | .mig => s.putLaunch { l with stage := .adding }
    | .fault c => (s.logError l.ctx 2 c 0 l.done).dropLaunch l
    | .ok key _ =>
      if s.lockConflict true (key, 8) then (s.logError l.ctx 2 0x23 0 l.done).dropLaunch l
      else
        let s := (s.flushRuns [(key, 8)]).chargeRuns l.ctx none [(key, 8)]
        (s.homeAtomic l.ctx key 8 0 false 1 0).1.dropLaunch l
/-- What a launch of this package does when a CLAIM on its STATE word has been applied, won or lost (R109 to R111). One whose add to DONE
waits on MIG has completed: its slot may already hold another. -/
def State.launchClaimed (s : State) (l : Launch) : State :=
  let st := s.stateOf l % 256
  match l.stage with
  | .adding => s
  | stage =>
    if !s.slotHolds l || st == 4 || st == 5 then s.dropLaunch l
    else match stage with
      | .claiming => if st == 2 then s.startTeams l else s
      | .completing => if st == 3 then s.doneAdd l else s
      | _ => s

end Sys2Proof.Machine
end

