-- ==== Sys2Proof/Machine/EvLaunch.lean ====
section
/-! DEFINITION. The events of the admitter (R53, R107 to R111, R226, R384). An event whose condition does not hold leaves the machine
as it is. -/

namespace Sys2Proof.Machine
open Sys2Proof

/-- A launch may not move: its context is held (R116, R378, R389), being dissolved (R386), or the package has not finished booting (R330, R395). -/
def State.launchHeld (s : State) (l : Launch) : Bool :=
  s.ctxHeld l.ctx || s.host.dissolving.contains l.ctx || s.host.stage != 7 || (s.ctxDesc l.ctx).isNone
/-- The admitter may choose the launch (R108). -/
def State.admissible (s : State) (l : Launch) : Bool :=
  !s.launchHeld l && l.nextUnit < l.units &&
    (match l.stage with
     | .admitted => true
     | .claiming => true
     | .pending => s.eligible l
     | _ => false)
/-- The choice of R108: the highest class, then the lowest sequence number. -/
def nextLaunch : List Launch → Option Launch
  | [] => none
  | l :: t =>
    match nextLaunch t with
    | none => some l
    | some m => if m.cls > l.cls || (m.cls == l.cls && m.seq < l.seq) then some m else some l
/-- The units placed together: all of a deterministic launch (R226), else the next one. -/
def unitsAtOnce (l : Launch) (k : Kernel) : Nat := if k.determ then l.units - l.nextUnit else 1
/-- Reserve what the next unit needs, or all units of a deterministic launch (R108, R113, R114, R226). -/
def State.admitUnits (s : State) (l : Launch) (k : Kernel) : Option State :=
  let n := unitsAtOnce l k
  (s.placeUnits l k l.nextUnit n).map fun t => t.putLaunch { l with kernel := some k, nextUnit := l.nextUnit + n }
/-- LAUNCH_ADMIT: the admitter takes its first choice (R108, R109). An eligible launch that fits has its first unit reserved and posts its
admission CLAIM; the next unit of an admitted one starts if it fits; one whose CLAIM is on its way waits for it. Nothing else is tried. -/
def execLaunchAdmit (s : State) : Host.Outcome State Fault Refusal :=
  match nextLaunch (s.launches.filter fun l => s.admissible l) with
  | none => .next s
  | some l =>
    match l.stage with
    | .claiming => .next s
    | .admitted =>
      .next (match l.kernel with
        | none => s
        | some k => match s.admitUnits l k with
          | none => s
          | some t => t.startTeams { l with nextUnit := l.nextUnit + unitsAtOnce l k })
    | _ =>
      match s.headerRead l with
      | .good k => .next (match s.admitUnits l k with
        | none => s
        | some t => (t.putLaunch { l with stage := .claiming, kernel := some k, nextUnit := l.nextUnit + unitsAtOnce l k }).postClaim l 1 2 0)
      | _ => .next s
/-- The cause for which a pending launch is refused now (R110); the order of the causes is the model's (notes/assumptions/87.md). -/
def State.refusalCause (s : State) (l : Launch) : Option Nat :=
  if s.depFailed l then some 4
  else if s.launchHeld l || !s.eligible l then none
  else match s.headerRead l with
    | .refuse c => some c
    | .mig => none
    | .good k => if s.neverFits l k then some 3 else none
/-- LAUNCH_REFUSE. -/
def execLaunchRefuse (seq : Nat) (s : State) : Host.Outcome State Fault Refusal :=
  match s.launchAt seq with
  | none => .next s
  | some l =>
    if l.stage != .pending then .next s
    else match s.refusalCause l with
      | none => .next s
      | some c => .next ((s.putLaunch { l with stage := .refusing c }).postClaim l 1 4 c)
/-- LAUNCH_COMPLETE: every unit has been admitted and has left, and all its work has completed. -/
def execLaunchComplete (seq : Nat) (s : State) : Host.Outcome State Fault Refusal :=
  match s.launchAt seq with
  | none => .next s
  | some l =>
    match l.stage with
    | .admitted =>
      if l.nextUnit != l.units || (s.teams.any fun t => t.launch == seq) || (s.ops.any fun o => o.launch == seq) then .next s
      else .next ((s.putLaunch { l with stage := .completing }).postClaim l 2 3 0)
    | .adding => .next (s.doneAdd l)
    | _ => .next s

end Sys2Proof.Machine
end

