-- ==== Sys2Proof/Machine/EvPreempt.lean ====
section
/-! DEFINITION. Pre-emption (R204, R220 to R224, R281, R294, R296, R349, R384): stopping a team, saving it, and restoring it on a core.
What of a saved team stands in the save arena and what stays in the state is said in notes/assumptions/17.md. -/

namespace Sys2Proof.Machine
open Sys2Proof

/-! ### Stopping (R224) -/

/-- A fragment brought to where it is saved: a regioned one rolls back (R220), another stays where it is. -/
def Team.settleFrag (t : Team) (f : Fragment) : Fragment :=
  match f.mode with
  | .normal => if t.saveable f && t.kernel.regioned then f.rollback else f
  | _ => f
/-- Pre-empt a team: the update-only lines of its core go home (R276), those of its fragments that can be saved are brought to their
saveable points, the others run on. A deterministic launch is pre-empted after the commits of its round (R378). -/
def State.preemptTeam (s : State) (team : Nat) : State :=
  match s.teamAt team with
  | none => s
  | some t =>
    if t.phase != .running || s.detHold t then s
    else (s.flushCore t.core).onTeam team fun t => { t with phase := .stopping, frags := t.frags.map t.settleFrag }
/-- Pre-empt every team whose context is held (R378, R383, R389). -/
def State.preemptHeld (s : State) : State :=
  s.teams.foldl (fun s t => if s.ctxHeld t.ctx then s.preemptTeam t.id else s) s
/-- Two contexts are the same or children of one parent. -/
def State.sameOrSibling (s : State) (a b : Nat) : Bool :=
  a == b || (match s.ctxDesc a, s.ctxDesc b with
    | some x, some y => x.parent.isSome && x.parent == y.parent
    | _, _ => false)
/-- A unit of the launch waits for resources: the admitter may choose the launch, and what it needs is not free (R108, R224). -/
def State.unitWaits (s : State) (l : Launch) : Bool :=
  s.admissible l && l.stage != .claiming &&
    (match l.kernel with
     | some k => (s.admitUnits l k).isNone
     | none => match s.headerRead l with
       | .good k => (s.admitUnits l k).isNone
       | _ => false)
/-- The time slice of a team has ended (R384). -/
def State.sliceOver (s : State) (t : Team) : Bool := (s.ctxDesc t.ctx).any fun d => d.tslice * 1000 ≤ s.ns - t.since
/-- A team uses one of a list of half-cores. -/
def Team.usesHalf (t : Team) (halves : List Nat) : Bool :=
  let x := t.scrub
  t.resident && halves.any fun i => i / 2 == t.core &&
    (x.mats.contains (i % 2) || (x.slots.any fun k => k / 32 == i % 2) || (x.entries.any fun k => k / 64 == i % 2) ||
      [x.slabs, x.tiles, x.bars, x.records].any fun p => p.get (i % 2) != 0)
/-- The scheduler pre-empts a team: its context is held, half-cores that it uses are being taken from its context, its time slice has ended and
a unit waits, or a launch of a higher class waits (R224, R378, R384, R385). -/
def State.preemptDue (s : State) (t : Team) : Bool :=
  t.phase == .running &&
    (s.ctxHeld t.ctx || (s.host.changes.any fun x => x.ctx == t.ctx && t.usesHalf x.halves) ||
      s.launches.any fun l => s.sameOrSibling l.ctx t.ctx && (t.kernel.cls < l.cls || s.sliceOver t) && s.unitWaits l)
/-- PREEMPT: the team's fragments stop, for one of the causes of R224. -/
def execPreempt (team : Nat) (s : State) : Host.Outcome State Fault Refusal :=
  .next (if (s.teamAt team).any s.preemptDue then s.preemptTeam team else s)

/-! ### The safe-point table (R221) -/

/-- An entry of the safe-point table is well formed (R221). -/
def safeEntryOk (size : Nat) (b : List Byte) : Bool :=
  let pc := bytesAt b 0 8
  let sv := bytesAt b 8 8
  let rs := bytesAt b 0x10 8
  (pc - pc % 8) % 64 == 0 && sv % 64 == 0 && rs % 64 == 0 && pc < size && sv < size && rs < size && (sv == 0) == (rs == 0) &&
    bytesAt b 0x1C 4 == 0
/-- The save and restore routines of a PC with FRAME, none for the hardware save (R221). -/
def State.safeEntry (s : State) (t : Team) (pc : DWord) : Option (DWord × DWord × Nat) :=
  let base := t.kernel.image.toNat + t.kernel.safeTable
  if t.kernel.safeTable == 0 then none
  else
    match s.vbytes t.ctx base 16 with
    | none => none
    | some h =>
      let n := bytesAt h 0 4
      if 65535 < n then none
      else
        match (List.range n).findSome? fun k =>
            (s.vbytes t.ctx (base + 16 + 32 * k) 32).bind fun b =>
              if bytesAt b 0 8 == (pc - t.kernel.image).toNat then some b else none with
        | none => none
        | some b =>
          if !safeEntryOk t.kernel.imageSize b || bytesAt b 8 8 == 0 then none
          else some (t.kernel.pc (bytesAt b 8 8), t.kernel.pc (bytesAt b 0x10 8), bytesAt b 0x18 4)

/-! ### Saving (R222) -/

/-- s254 and s255 of a fragment's groups. -/
def Team.areaRegs (t : Team) (f : Fragment) : List (Nat × DWord × DWord) :=
  (maskGroups f.m).map fun g => (g, (t.group g).sget 254, (t.group g).sget 255)
/-- Set s254 and s255 for a routine: the tile area, and the group's software save area of FRAME bytes (R222, R223). -/
def Team.setAreas (t : Team) (gs : List Nat) : Team :=
  gs.foldl (fun t g => t.onGroup g fun x =>
    (x.sput 254 (Config.tileArea t.id)).sput 255 (Config.saveArea t.id + BitVec.ofNat 64 (g * t.frameBytes))) t
/-- A routine of R222 or R223: class 3, unregioned, a watchdog budget of 65,536. -/
def Fragment.enterRoutine (f : Fragment) (pc : DWord) (m : Mode) : Fragment :=
  { f with mode := m, pc := pc, cls := 3, limit := 65536, wdog := 0, line := none, wait := .ready, safe := false, blocked := false }
/-- The fragment waits, so that it takes the hardware save (R224): an unregioned one at anything; a regioned one, which has been rolled
back, at a wait that it keeps. -/
def Team.waitsForSave (t : Team) (f : Fragment) : Bool := (if t.kernel.regioned then f.wait.kept else f.wait) != .ready
/-- Start the save of a fragment: a waiting one takes the hardware save, another what its entry of the safe-point table names. With it the
FRAME of its routine. -/
def State.saveFrag (s : State) (t : Team) (late : List RegRef) (f : Fragment) : Fragment × Nat :=
  match f.mode with
  | .normal =>
    (match (if t.waitsForSave f then none else s.safeEntry t f.pc) with
     | none => ({ f with mode := .parked none [] late }, 0)
     | some (sv, rs, n) => (f.enterRoutine sv (.save f.pc rs f.cls f.limit (t.areaRegs f) late), n))
  | _ => (f, 0)
/-- An access thread's operation stands behind one of its unfinished streams, which is saved as it is (R204): it stays outstanding
over the save (notes/assumptions/24.md). -/
def State.behindStream (s : State) (o : Op) : Bool :=
  o.thread.isSome && s.ops.any fun p => o.deps.contains p.id && (match p.kind with | .stream _ => true | _ => false)
/-- What the save waits for: loads, atomics, matrix and tile operations of the team, and a REDM that has still to read a tile (R175,
R224). -/
def State.saveBusy (s : State) (tid : Nat) : Bool :=
  s.ops.any fun o => o.team == tid && !s.behindStream o &&
    (match o.kind with
     | .load .. => true
     | .atom .. => true
     | .matrix _ => true
     | .tile _ _ => true
     | .engine e =>
       (match e.kind with
        | .redm _ _ _ _ (.acc _) _ => true
        | _ => false)
     | _ => false)
/-- The fragment was saved by a routine. -/
def Fragment.byRoutine (f : Fragment) : Bool :=
  match f.mode with
  | .parked (some _) _ _ => true
  | _ => false
/-- The fragment is saved. -/
def Fragment.isParked (f : Fragment) : Bool :=
  match f.mode with
  | .parked .. => true
  | _ => false
/-- The v and s registers of a team that its outstanding operations still write (R296, R336). -/
def State.pendingRegs (s : State) (tid : Nat) : List RegRef :=
  s.ops.flatMap fun o => if o.team != tid then [] else o.writes.filter fun r => match r with
    | .v _ _ => true
    | .s _ _ => true
    | _ => false
/-- A group as its save block keeps it: with every vector register under a hardware save; under routines, which save the rest, with those
alone that are still to be written (R222, R223, R296). -/
def Group.imaged (x : Group) (keepAll : Bool) (late : List RegRef) (g : Nat) : Group :=
  if keepAll then x else { x with v := x.v.filter fun e => late.contains (.v g e.1) }
/-- Where tile k lies in the image, and where its anchor word lies. -/
def tileAt (n k : Nat) : Nat := tileOff n + 102400 * k
/-- The anchor word of tile k: its status word (R193). -/
def anchorAt (n k : Nat) : Nat := tileOff n + 16 * 102400 + 8 * k
/-- Write the ASAVE image of a tile and its anchor word into the image (R194, R222). -/
def State.writeTile (s : State) (t : Team) (k : Nat) (x : Tile) : State :=
  let n := t.kernel.groups
  let a := t.imageKey (tileAt n k)
  let clear : Memory := s.mem.filter fun c => c.1 < a || a + 102400 ≤ c.1
  let s : State := { s with mem := (x.elems.foldl (fun (m : Memory) e => Memory.writeBytes m (a + 25 * e.1) e.2.bytes) clear) }
  s.writeImage t (anchorAt n k) (natLe 8 x.status.toNat)
/-- Read a tile back from the image (R223): elements all of whose bytes are 0 are zero. -/
def State.readTile (s : State) (t : Team) (k : Nat) : Tile :=
  let n := t.kernel.groups
  let a := t.imageKey (tileAt n k)
  let w := Memory.read s.mem (t.imageKey (anchorAt n k)) 8
  let hit := ((s.mem.filter fun c => a ≤ c.1 && c.1 < a + 102400).map fun c => (c.1 - a) / 25).eraseDups
  { anchor := (BitVec.ofNat 10 w).toInt, steps := natBits w 32 32, err := natBits w 24 1 == 1,
    elems := hit.foldl (fun l i => cellPut Elem.zero l i (Elem.ofBytes (Memory.bytes s.mem (a + 25 * i) 25))) [] }
/-- The hardware part of a team's image, and under a hardware save its tiles (R222): the save blocks, the fragments and frames as R83
records, the barrier slots, the s registers of its access threads. -/
def State.writeParts (s : State) (t : Team) (keepAll : Bool) (late : List RegRef) : State :=
  let n := t.kernel.groups
  let s := (List.range t.groups.length).foldl (fun s g => s.writeImage t (blockRoom * g) ((t.group g).imaged keepAll late g).block) s
  let s := if keepAll then (t.tiles.zipIdx).foldl (fun s x => s.writeTile t x.2 x.1) s else s
  let s := t.frags.foldl (fun s f => s.writeImage t (recordOff n + 288 * t.fragSlot f.m) (f.record (s.waitCode t f))) s
  let s := t.frames.foldl (fun s f => s.writeImage t (recordOff n + 288 * t.frameSlot f.num) f.record) s
  let s := s.writeImage t (barOff n) (t.bars.flatMap fun b => natLe 4 b.phase.toNat ++ natLe 4 b.count ++ natLe 4 b.expect)
  t.threads.foldl (fun s x => s.writeImage t (barOff n + 192 + 2048 * x.group)
    ((List.range 256).flatMap fun r => natLe 8 (cellGet 0 x.s r).toNat)) s
/-- Bytes that the save and the restore of a team move (R373). -/
def Team.imageMoved (t : Team) (keepAll : Bool) : Nat :=
  t.groups.foldl (fun n x => n + (x.imaged keepAll [] 0).block.length) 0 + (if keepAll then 102408 * t.tiles.length else 0) +
    288 * (t.frags.length + t.frames.length) + 12 * t.bars.length + 2048 * t.threads.length
/-- The saves of R222 start: the hardware writes its part of the image, the fragments that take the hardware save are saved, the others
enter their save routines. -/
def State.beginSave (s : State) (t : Team) : State :=
  let late := s.pendingRegs t.id
  let fs := t.frags.map fun f => s.saveFrag t late f
  let frags := fs.map fun x => x.1
  let keepAll := frags.any Fragment.isParked
  let s := (s.writeParts t keepAll late).chargeMove t (t.imageMoved keepAll)
  s.putTeam (({ t with frags := frags, frameBytes := fs.foldl (fun n x => max n x.2) 0, phase := .saving } : Team).setAreas
    (frags.flatMap fun f => if f.isParked then [] else maskGroups f.m))
/-- The last step of a save: the image is complete, and the team's resources are released and scrubbed (R116, R222). -/
def State.finishSave (s : State) (t : Team) : State :=
  (s.newScrub t.scrub).putTeam { t with
    groups := t.groups.map fun x => { x with s := [], v := [], fstat := 0 },
    tiles := t.tiles.map fun _ => Tile.zero,
    frags := t.frags.map fun f => { f with entry := none },
    frames := t.frames.map fun x => { x with entry := none },
    phase := .saved }
/-- TEAM_SAVE: once every fragment can be saved and nothing of R224 is outstanding, stations close (R296) and the saves start; when every
fragment is saved, so is the team. -/
def execTeamSave (team : Nat) (s : State) : Host.Outcome State Fault Refusal :=
  match s.teamAt team with
  | none => .next s
  | some t =>
    if t.frags.isEmpty then .next s
    else
      match t.phase with
      | .stopping =>
        let s := s.flushCore t.core
        if s.saveBusy team || !(t.frags.all fun f => t.saveable f) then .next s
        else
          let s := (List.range t.groups.length).foldl (fun s g => s.closeStation team g) s
          .next (match s.teamAt team with
            | none => s
            | some t => s.beginSave t)
      | .saving => .next (if t.frags.all Fragment.isParked && !s.saveBusy team then s.finishSave t else s)
      | _ => .next s

/-! ### Restoring (R204, R223) -/

/-- The load queues' records are fetched again, in order (R204): the records, and those whose address fails; with such a one the later
records of its stream fall away (R203). Nothing while a page is migrating (R246). -/
def State.refetch (s : State) (t : Team) (dead : List Nat) : List QRec → Option (State × List QRec × List RecSrc)
  | [] => some (s, [], [])
  | r :: l =>
    match r.src with
    | none => (s.refetch t dead l).map fun x => (x.1, r :: x.2.1, x.2.2)
    | some a =>
      if dead.contains a.stream then s.refetch t dead l
      else match s.rangeOn t.ctx .load 8 a.va.toNat (if a.w24 then 24 else 32) with
        | .mig .. => none
        | .bad .. => (s.refetch t (a.stream :: dead) l).map fun x => (x.1, x.2.1, a :: x.2.2)
        | .runs runs =>
          let b := (s.chargeRuns t.ctx (some t.id) runs).engineRead t.ctx true runs
          (b.1.refetch t dead l).map fun x => (x.1, { r with data := BitVec.ofNat 256 (leNat b.2) } :: x.2.1, x.2.2)
/-- A queue's records fetched again: a record that fails sets FAULT, raises 0x15 and ends its stream (R203). -/
def State.refetchQueue (s : State) (tid g q : Nat) : Option State :=
  match s.teamAt tid with
  | none => some s
  | some t =>
    let x := (t.group g).queue q
    if x.store then some s
    else (s.refetch t [] x.recs).map fun r =>
      let s := r.1.onQueue tid g q fun x => { x with recs := r.2.1, fault := x.fault || !r.2.2.isEmpty }
      r.2.2.foldl (fun s a => (s.onTeam tid fun t => t.holdFault ⟨0, some g, a.pc, 0x15, a.va⟩).endOp a.stream) s
/-- Every load queue of a team fetched again. -/
def State.refetchAll (s : State) (t : Team) : Option State :=
  (List.range (8 * t.groups.length)).foldlM (fun (s : State) k => s.refetchQueue t.id (k / 8) (k % 8)) s
/-- A group reloaded from its block in the image (R131, R223). One whose block is refused keeps the values of R223's first step
(notes/assumptions/24.md). -/
def State.reloadGroup (s : State) (t : Team) (g : Nat) : Group :=
  let b := s.readBlock t g
  if blockRefused b then t.group g else (t.group g).reload b
/-- A saved fragment resumes: in its restore routine, or at its PC (R223), where a wait that a save keeps goes on (R281, R294). -/
def resumeFrag (t : Team) (f : Fragment) : Fragment :=
  match f.mode with
  | .parked (some rs) _ late => f.enterRoutine rs (.restore f.pc f.cls f.limit (t.areaRegs f) late)
  | .parked none _ _ =>
    { f with mode := .normal, line := none, wait := f.wait.kept, blocked := false, region := Region.fresh f.pc f.e f.region.since }
  | _ => f
/-- Storage from half-core 0 for queues in turn, as far as `free` goes (R112, R198). -/
def halfRecords (free : Nat) : List Queue → Nat × List Queue
  | [] => (free, [])
  | q :: l =>
    let k := min q.depth free
    let r := halfRecords (free - k) l
    (r.1, { q with rec0 := k } :: r.2)
/-- The same for groups in turn. -/
def halfQueues (free : Nat) : List Group → List Group
  | [] => []
  | x :: l =>
    let r := halfRecords free x.queues
    { x with queues := r.2 } :: halfQueues r.1 l
/-- A saved team with the resources of a core (R112, R223). -/
def State.takeCore (s : State) (t : Team) (core : Nat) : Team :=
  let slots := s.freeSlots t.ctx core
  { t with
    core := core, phase := .running, since := s.ns,
    groups := (halfQueues (s.freeRecordsIn t.ctx core 0) t.groups).mapIdx fun g (x : Group) => { x with slot := slots.getD g 0 },
    tiles0 := min t.kernel.accTiles (s.freeTiles t.ctx core 0), slabs0 := min t.slabs (s.freeSlabsIn t.ctx core 0),
    bars0 := min t.kernel.nb (s.freeBars t.ctx core 0), halves := (s.freeMats t.ctx core).take t.kernel.mhalves }
/-- An entry for a fragment of a restored team, or its spill record when none is free (R82). -/
def State.seatFrag (s : State) (tid : Nat) (f : Fragment) : Except DWord State :=
  match s.teamAt tid with
  | none => .ok s
  | some t =>
    match s.freeEntry t.ctx t.core with
    | some e => .ok (s.onTeam tid fun t => { t with frags := t.frags.map fun x => if x.id == f.id then { x with entry := some e } else x })
    | none => s.writeSpill t f.id (t.fragSlot f.m) (f.record (s.waitCode t f))
/-- The same for a frame. -/
def State.seatFrame (s : State) (tid : Nat) (F : Frame) : Except DWord State :=
  match s.teamAt tid with
  | none => .ok s
  | some t =>
    match s.freeEntry t.ctx t.core with
    | some e => .ok (s.onTeam tid fun t => { t with frames := t.frames.map fun x => if x.num == F.num then { x with entry := some e } else x })
    | none => s.writeSpill t 0 (t.frameSlot F.num) F.record
/-- Entries for the fragments and frames of a restored team, the fragments first. -/
def State.seatAll (s : State) (t : Team) : Except DWord State :=
  (t.frags.foldlM (fun (s : State) f => s.seatFrag t.id f) s).bind fun s => t.frames.foldlM (fun (s : State) F => s.seatFrame t.id F) s
/-- The core of a restored team: a lone team by R113, a team of a cluster on its own core (notes/assumptions/17.md). -/
def State.restoreCore (s : State) (t : Team) : Option Nat :=
  if t.kernel.cluster then (if s.coreFits t.ctx t.core t.restoreNeed then some t.core else none)
  else s.bestCore t.ctx (((s.launchAt t.launch).map fun l => l.dies).getD 0) t.restoreNeed allCores
/-- The fragment that meets the fault of a refused save block: the one with the lowest lane of the group (notes/assumptions/24.md). -/
def Team.blockFrag (t : Team) (g : Nat) : Option Fragment :=
  match lowestFrag (t.frags.filter fun f => maskAt f.m g != 0) with
  | some f => some f
  | none => lowestFrag t.frags
/-- The refused blocks of a team as faults, which stand at the PCs at which its fragments resume (R131, R230). -/
def State.refuseBlocks (s : State) (t : Team) : Team :=
  (List.range t.groups.length).foldl (fun (t : Team) g =>
    if blockRefused (s.readBlock t g) then
      match t.blockFrag g with
      | none => t
      | some f => t.holdFault ⟨f.id, none, f.pc, 0x08, BitVec.ofNat 64 g⟩
    else t) t
/-- Whether the save wrote every register and tile of a team: some fragment of it ran no save routine (R222). -/
def Team.keepsAll (t : Team) : Bool := t.frags.any fun f => !f.byRoutine
/-- A team's groups and tiles read from its image (R131, R223). -/
def State.reloadBlocks (s : State) (t : Team) : Team :=
  { t with
    groups := t.groups.mapIdx fun g (x : Group) =>
      let y := s.reloadGroup t g
      { y with slot := x.slot, queues := x.queues },
    tiles := if t.keepsAll then t.tiles.mapIdx fun k _ => s.readTile t k else t.tiles }
/-- A team whose blocks are read resumes: its fragments, its save areas, the charge for the bytes moved and its split entries (R223). -/
def State.resumeTeam (s : State) (t : Team) : Except DWord State :=
  let core := t.core
  let keepAll := t.keepsAll
  let gs := t.frags.flatMap fun f => if f.byRoutine then maskGroups f.m else []
  let t : Team := ({ t with frags := t.frags.map fun f => resumeFrag t f } : Team).setAreas gs
  let s := (s.putTeam t).chargeMove t (t.imageMoved keepAll)
  let s : State := { s with ops := s.ops.map fun (o : Op) =>
    if o.team != t.id then o
    else match o.kind with
      | .engine _ => o
      | _ => { o with core := core } }
  s.seatAll t
/-- Reload a team on a core (R223). -/
def State.reloadTeam (s : State) (t : Team) (core : Nat) : Except DWord State :=
  s.resumeTeam (s.refuseBlocks (s.reloadBlocks (s.takeCore t core)))
/-- TEAM_RESTORE: a saved team whose context may run is placed on a core that meets its need and queue storage (R204) and reloaded; while a
page that it has to read or write is migrating it waits (R246). -/
def execTeamRestore (team : Nat) (s : State) : Host.Outcome State Fault Refusal :=
  match s.teamAt team with
  | none => .next s
  | some t =>
    if t.phase != .saved || s.ctxHeld t.ctx || s.host.dissolving.contains t.ctx then .next s
    else
      match s.restoreCore t with
      | none => .next s
      | some core => .next (match s.reloadTeam t core with
        | .error _ => s
        | .ok s' => (s'.refetchAll t).getD s)

end Sys2Proof.Machine
end

