-- ==== Sys2Proof/Machine/EvEnergy.lean ====
section
/-! DEFINITION. The events of energy accounting (R373, R375, R376, R378, R379). -/

namespace Sys2Proof.Machine
open Sys2Proof

/-- KVT_RECOMPUTE: every 100 µs of pod time; KVT of every die is that of the next recomputation from now on. -/
def execKvtRecompute (s : State) : Host.Outcome State Fault Refusal :=
  if s.ns / 100000 ≤ s.energy.kvtRound then .next s
  else .next { s with energy := { s.energy with kvtRound := s.energy.kvtRound + 1 } }
/-- HBM slices that a context holds (R375, R382). -/
def State.slicesHeld (s : State) (c : Nat) : Nat := ((List.range 576).filter fun i => s.ownsHbm c (i * 2 ^ 30)).length
/-- Count the ownership of half-cores up to now (R375): called before any change of owner. -/
def State.settleOwned (s : State) : State :=
  let dt := s.ns - s.energy.ownedTo
  let mine := s.host.ctxs.flatMap fun d => ((List.range 384).filter fun i => s.ownsHalf d.ctx (i / 2) (i % 2)).map fun i => 384 * d.ctx + i
  { s with energy := { s.energy with
      ownedTo := s.ns, owned := mine.foldl (fun l k => cellPut 0 l k (cellGet 0 l k + dt)) s.energy.owned } }
/-- The leakage of the half-cores of a context in an interval, each for the time it owned them (R375). -/
def State.leakShare (s : State) (c n : Nat) : Nat :=
  (List.range 384).foldl (fun a i =>
    a + Config.leakCost n i * cellGet 0 s.energy.owned (384 * c + i) / (s.energy.ownedTo - s.energy.begun)) 0
/-- The shared costs of an interval that a context bears, in eu (R375), but for node refresh. -/
def State.sharedCost (s : State) (c n : Nat) : Nat :=
  Config.refreshCost n * s.slicesHeld c / 576 +
    (if s.energy.active.contains c then Config.laserCost n / s.energy.active.length else 0) + s.leakShare c n
/-- All shared costs of an interval, in eu. -/
def sharedTotal (n : Nat) : Nat :=
  Config.refreshCost n + Config.laserCost n + Config.otherCost n + (List.range 384).foldl (fun a i => a + Config.leakCost n i) 0
/-- Contexts that can carry a charge. -/
def allCtxs : List Nat := List.range Config.numCtx
/-- B(c) of R376, with 16 fractional bits. -/
def State.intervalCharge (s : State) (c : Nat) : Nat := cellGet 0 s.energy.live c + s.sharedCost c s.energy.interval * 2 ^ 16
/-- Σ of R376: every account's charges; what the shares leave over is the device's (R375). -/
def State.chargeSum (s : State) : Nat :=
  allCtxs.foldl (fun a c => a + cellGet 0 s.energy.live c) 0 + sharedTotal s.energy.interval * 2 ^ 16
/-- What a context is given of the rail energy (R376). -/
def State.railShare (s : State) (rail c : Nat) : Nat := if s.chargeSum == 0 then 0 else s.intervalCharge c * rail / s.chargeSum
/-- A VF has a quota and has reached it: by its estimate or by its reconciled energy (R378, R383). -/
def State.vfOver (s : State) (v : Nat) : Bool :=
  match s.ctxOfVf v with
  | none => false
  | some c => s.quotaOf v != BitVec.allOnes 64 && ((s.quotaOf v).toNat ≤ s.estimate c || (s.quotaOf v).toNat ≤ s.energyOf c)
/-- A VF is exhausted: QX is set, and the teams it holds are pre-empted (R378). -/
def State.exhaust (s : State) (v : Nat) : State :=
  ({ s with energy := { s.energy with qx := if s.energy.qx.contains v then s.energy.qx else s.energy.qx ++ [v] } }).preemptHeld
/-- VFs with a quota. -/
def State.quotaVfs (s : State) : List Nat := s.energy.quota.map fun e => e.1
/-- RECONCILE: at a 1 ms boundary the rail energy is split over the accounts, node refresh is added unscaled, the live accounts are
cleared, and QX follows (R376, R378, R379). -/
def execReconcile (railEnergy : Nat) (s : State) : Host.Outcome State Fault Refusal :=
  if s.ns / 1000000 ≤ s.energy.interval then .next s
  else
  let s := s.settleOwned
  let n := s.energy.interval
  let sum := s.chargeSum
  let total := allCtxs.foldl (fun t c =>
    cellPut 0 t c (cellGet 0 t c + BitVec.ofNat 64 (s.railShare railEnergy c + Config.nodeRefresh n c))) s.energy.total
  let given := allCtxs.foldl (fun a c => a + s.railShare railEnergy c) 0
  let e : Energy := { s.energy with
    live := [], active := [], total := total, totalDev := s.energy.totalDev + BitVec.ofNat 64 (railEnergy - given),
    scale := if sum == 0 then s.energy.scale else BitVec.ofNat 32 (railEnergy * 2 ^ 32 / sum), interval := n + 1,
    begun := s.ns, owned := [] }
  let s := { s with energy := e }
  let s := { s with energy := { s.energy with qx := s.energy.qx.filter fun v => s.vfOver v } }
  .next (s.quotaVfs.foldl (fun s v => if s.vfOver v then s.exhaust v else s) s)
/-- QUOTA_EXHAUSTED: a VF whose estimate has reached its quota. -/
def execQuotaExhausted (vf : Nat) (s : State) : Host.Outcome State Fault Refusal :=
  if s.vfOver vf then .next (s.exhaust vf) else .next s
/-- Set QUOTA(v): a value below the estimate exhausts the VF at once; QX clears at the next boundary (R379). -/
def State.setQuota (s : State) (v : Nat) (value : DWord) : State :=
  let s := { s with energy := { s.energy with quota := cellPut (BitVec.allOnes 64) s.energy.quota v value } }
  match s.ctxOfVf v with
  | none => s
  | some c => if value.toNat < s.estimate c then s.exhaust v else s
/-- QUOTA_WRITE. -/
def execQuotaWrite (vf : Nat) (value : DWord) (s : State) : Host.Outcome State Fault Refusal :=
  if vf < 2048 then .next (s.setQuota vf value) else .next s

end Sys2Proof.Machine
end

