-- ==== Sys2Proof/Machine/EvEngine.lean ====
section
/-! DEFINITION. The items and final words of engine operations (R262, R282 to R286, R295, R319 to R321, R356, R358). -/

namespace Sys2Proof.Machine
open Sys2Proof

/-- Carry out item `k` of an engine operation. -/
def State.carryItem (s : State) (o : Op) (e : EngOp) (k : Nat) (i : Item) : State :=
  match e.kind with
  | .cpl => s.moveItem o e k i true
  | .cpbox _ _ => s.moveItem o e k i true
  | .cpmc _ _ _ pieces => if k < pieces then s.readPiece o e k i else s
  | .put remote _ _ => s.movePut o e remote k i
  | .get remote => s.moveGet o e remote k i
  | .redm node slot rank recNo src count => s.moveRedm o e k i node slot rank recNo src count
  | .redr node slot recNo mode anchor elems ty rm sat => s.moveRedr o e k i node slot recNo mode anchor elems ty rm sat
  | .coll op signed _ => s.moveColl o e k op signed
  | .rsort n16 n ex offs => s.moveSort o e k i n16 n ex offs.2
/-- The launch of an operation runs in deterministic mode. -/
def State.opDeterm (s : State) (o : Op) : Bool := (s.launchAt o.launch).any fun l => l.kernel.any fun k => k.determ
/-- An item may go on (R262, R263): what its operation waits for has performed, no store that its threads see to its bytes is still on its
way home, and no answer is awaited. In a deterministic launch the items of an operation move in order (R227; notes/assumptions/83.md). -/
def State.itemDue (s : State) (o : Op) (e : EngOp) (k : Nat) (i : Item) : Bool :=
  let phase0 := match e.kind with | .put _ _ p => p == 0 | _ => true
  !i.done && i.pend == 0 && i.stage != .writing && phase0 && o.markers.isEmpty && s.depsDone o &&
    s.wayClear o.team (maskGroups o.lanes) (i.src.known ++ i.dst.known) &&
    (!s.opDeterm o || (e.items.take k).all fun x => x.done && x.pend == 0)
/-- COPY_ITEM_COMPLETE: an item moves, or goes on once the answers it waits for have come. A range that has waited for room in the
range-lock table is translated now (R246, R287). -/
def execCopyItemComplete (op item : Nat) (s : State) : Host.Outcome State Fault Refusal :=
  let s := match s.opAt op with
    | none => s
    | some o => s.settleOp (fun p => p.isNone) o
  match s.opAt op with
  | none => .next s
  | some o =>
    match o.kind with
    | .engine e =>
      (match e.items[item]? with
       | none => .next s
       | some i => .next (if s.itemDue o e item i then (s.carryItem o e item i).putAdvance op else s))
    | _ => .next s
/-- Every item is accounted for, and a PUTSIG's increment has been applied. -/
def EngOp.finished (e : EngOp) : Bool :=
  (e.items.all fun i => i.done && i.pend == 0) && (match e.kind with | .put _ (some _) p => p == 3 | _ => true)
/-- The final word of an operation. -/
def State.finalEngine (s : State) (o : Op) (e : EngOp) : State :=
  match e.kind with
  | .cpl => s.copyFinal o e
  | .cpbox _ _ => s.copyFinal o e
  | .cpmc .. => s.copyFinal o e
  | .coll .. =>
    let s := (s.putLaneWords o.team e.d e.items laneWord).endOp o.id
    (match o.fail with | none => s | some f => s.imprecise o f.1 f.2)
  | .rsort .. => s.finishEngine o e 0 (itemBytes e.items) o.fail
  | .put .. => s.finishEngine o e 0 (itemBytes e.items) o.fail
  | .get _ => s.finishEngine o e 0 (itemBytes e.items) o.fail
  | .redm .. => s.finishEngine o e 0 (itemBytes e.items) o.fail
  | .redr _ _ _ mode anchor elems ty rm sat =>
    let i := e.items.getD 0 Item.none
    let bits := if i.cause == 0 then (i.redVals mode anchor elems ty rm sat).foldl (fun f v => f ||| v.2) 0 else 0
    (s.raiseRed o e.group bits).finishEngine o e 0 (itemBytes e.items) o.fail
/-- COPY_FINAL_WORD: the operation has no item left; its final word is written, its flag and ranges are released, and a failure is
one imprecise fault (R285 to R287, R295). -/
def execCopyFinalWord (op : Nat) (s : State) : Host.Outcome State Fault Refusal :=
  let s := s.putAdvance op
  match s.opAt op with
  | none => .next s
  | some o =>
    match o.kind with
    | .engine e => .next (if e.finished && s.depsDone o then s.finalEngine o e else s)
    | _ => .next s

end Sys2Proof.Machine
end

