-- ==== Sys2Proof/Machine/EvMemory.lean ====
section
/-! DEFINITION. The events in which accesses perform (R271 to R276, R280), and the lease tick (R309). An event whose condition does
not hold leaves the machine as it is. -/

namespace Sys2Proof.Machine
open Sys2Proof

/-! ### Writing a destination (R269) -/

/-- A value of `n` bytes as the register takes it: extended by R63 in a vector form, by R141 in a G form. -/
def loadExt (gf : Bool) (ty : MemTy) (v : Nat) : Nat :=
  match ty with
  | .b24 => v
  | .ty t => if tyWidth t < (if gf then 64 else 32) then intBits (if gf then 64 else 32) (tyRead t v) else v
/-- Register k of a group's destination: uniform when one access gave a full write, else general (R268, R271). -/
def GrpAcc.vreg (x : GrpAcc) (old : VReg) (k : Nat) (val : Nat → Nat) : VReg :=
  let word (i : Nat) : Word := BitVec.ofNat 32 (val i / 2 ^ (32 * k))
  if x.uni && x.full then .uniform (word 0)
  else VReg.ofLanes fun i => if x.full || x.eff.getLsbD i then word i else old.lane i
/-- Write the destinations of a load or ATOM: `val g i` is the value of lane i of group g. -/
def State.writeDest (s : State) (o : Op) (gf : Bool) (d n : Nat) (gs : List GrpAcc) (val : Nat → Nat → Nat) : State :=
  gs.foldl (fun s x =>
    if gf then
      let put (s : State) (r : Nat) (v : DWord) : State :=
        match o.thread with
        | none => s.onGroup o.team x.g fun y => y.sput r v
        | some tg => s.onTeam o.team fun t => match t.threadAt tg with
          | none => t
          | some y => t.putThread (y.sput r v)
      let s := put s d (BitVec.ofNat 64 (val x.g 0))
      if n == 16 then put s (d + 1) (BitVec.ofNat 64 (val x.g 0 / 2 ^ 64)) else s
    else
      (List.range (memRegs n)).foldl (fun s k =>
        s.onGroup o.team x.g fun y => y.vput (d + k) (x.vreg (y.vget (d + k)) k fun i => val x.g i)) s) s
/-- The value of lane i of group g among the accesses: a group's single access serves every lane. -/
def laneVal (gs : List GrpAcc) (vals : List (LaneAcc × Nat)) (g i : Nat) : Nat :=
  let uni := gs.any fun x => x.g == g && x.uni
  match vals.find? fun x => x.1.g == g && (uni || x.1.lane == i) with
  | some x => x.2
  | none => 0
/-- An operation ends with its first failure reported as an imprecise fault (R305); an access thread that raised it stops (R196). -/
def State.failOp (s : State) (o : Op) (cause : Nat) (va : DWord) : State :=
  let s := match o.thread with
    | none => s
    | some g => s.onTeam o.team fun t => match t.threadAt g with
      | none => t
      | some x => t.putThread { x with running := false }
  (s.imprecise o cause va).endOp o.id

/-! ### LOAD_COMPLETE (R271) -/

/-- The address of an operation's first lane. -/
def firstVa (l : List LaneAcc) : DWord := match l with | [] => 0 | x :: _ => x.va
/-- The read returns: every lane's bytes as its group sees them, the fragment's own buffered ones laid over them. -/
def State.finishLoad (s : State) (o : Op) (g : Bool) (d : Nat) (ty : MemTy) (gs : List GrpAcc) (lanes : List LaneAcc)
    (bytes : Nat → List (Nat × Nat) → List Byte) : State :=
  let vals := lanes.map fun x => (x, loadExt g ty (leNat (overlay x.segs (bytes x.g x.segs) x.fwd)))
  ((s.chargeRuns o.ctx (some o.team) (laneRuns lanes)).writeDest o g d (memBytes ty) gs (laneVal gs vals)).endOp o.id
/-- Ask the homes of sectors for leases, one packet per sector in ascending order (R304); a closed port fails the operation (R305, R306). -/
def State.sendReads (s : State) (o : Op) (secs : List Nat) (va : DWord) : State :=
  if secs.any fun x => !s.portOpen o.ctx (keyNode (32 * x)) then s.failOp o 0x21 va
  else
    let s := secs.foldl (fun s x => s.postTo o (32 * x) 0 (.read 32)) s
    s.putOp { o with pend := secs.length, sent := true }
/-- The packets of an operation may go out on its paths (R304). -/
def State.turnOf (s : State) (o : Op) : Bool := s.pathTurn o.id o.team o.thread o.lanes o.kind.runs
/-- LOAD_COMPLETE: the destination is written once the read is done. A POOL or TRAY sector without a valid lease copy is asked for
first (R310); inside a deterministic round memory reads as the round began (R226). -/
def execLoadComplete (id : Nat) (s : State) : Host.Outcome State Fault Refusal :=
  match s.opAt id with
  | none => .next s
  | some o =>
    match o.kind with
    | .load g d ty gs lanes =>
      if !s.depsDone o || o.pend != 0 then .next s
      else
        match o.fail with
        | some f => .next (s.failOp o f.1 f.2)
        | none =>
          match (s.launchAt o.launch).bind fun l => l.roundMem with
          | some m => .next (s.finishLoad o g d ty gs lanes fun _ => Memory.runBytes m)
          | none =>
            let s := s.flushRuns (laneRuns lanes)
            let missing := (pooledSectors (laneRuns lanes)).eraseDups.filter fun x => (s.copyOf x).isNone
            if missing.isEmpty then .next (s.finishLoad o g d ty gs lanes (s.seenBytes o.team))
            else if !s.turnOf o then .next s
            else .next (s.sendReads o (sortNat missing) (firstVa lanes))
    | _ => .next s

/-! ### STORE_PERFORM (R272) -/

/-- Contiguous stretches of a byte table: first key and bytes. -/
def stretches : Cells Byte → List (Nat × List Byte)
  | [] => []
  | (k, b) :: t =>
    match stretches t with
    | [] => [(k, [b])]
    | (j, l) :: rest => if j == k + 1 then (k, b :: l) :: rest else (k, [b]) :: (j, l) :: rest
/-- Cut a stretch into packets (R301). -/
def stretchPackets (x : Nat × List Byte) : List (Nat × List Byte) :=
  (packetRuns x.1 x.2.length).map fun r => (r.1, (x.2.drop (r.1 - x.1)).take r.2)
/-- The level a store reaches when it is performed next (R249): first that of its scope, an SC store its home (R254), then one level after
another. A store with a byte of POOL or TRAY goes home at once (notes/assumptions/81.md). -/
def Op.nextLvl (o : Op) (lanes : List LaneAcc) : Nat :=
  if (laneRuns lanes).any (fun r => keyPooled r.1) || o.ord == .sc then 4
  else if o.lvl == 0 then scopeLvl o.scope else o.lvl + 1
/-- The store has come home: its bytes are in memory, those of POOL and TRAY go on in packets, and it performs when every one has been
acknowledged (R249, R304). -/
def State.storeHome (s : State) (o : Op) (lanes : List LaneAcc) : State :=
  let s := s.flushRuns (laneRuns lanes)
  let bytes := storeBytes lanes
  let s := { s with mem := (bytes.filter fun (e : Nat × Byte) => !keyPooled e.1).foldl (fun (m : Memory) (e : Nat × Byte) => Memory.setByte m e.1 e.2) s.mem }
  let pk := (stretches (bytes.filter fun e => keyPooled e.1)).flatMap stretchPackets
  if pk.isEmpty then s.endOp o.id
  else if pk.any fun p => !s.portOpen o.ctx (keyNode p.1) then s.failOp o 0x21 (firstVa lanes)
  else
    let s := pk.foldl (fun s p => s.postTo o p.1 0 (.write p.2)) s
    s.putOp { o with pend := pk.length, sent := true }
/-- STORE_PERFORM: a store performs at its scope, and later goes on home (R249, R258). Its flag is released when it has performed (R272). -/
def execStorePerform (id : Nat) (s : State) : Host.Outcome State Fault Refusal :=
  match s.opAt id with
  | none => .next s
  | some o =>
    match o.kind with
    | .store lanes _ =>
      if !s.depsDone o || !o.markers.isEmpty || o.pend != 0 then .next s
      else if o.sent then
        match o.fail with
        | some f => .next (s.failOp o f.1 f.2)
        | none => .next (s.endOp id)
      else
        let n := o.nextLvl lanes
        let s := if o.lvl == 0 && ordReleases o.ord then s.flushCore o.core else s
        if !s.mayAdvance o n || !s.turnOf o then .next s
        else
          let s := if o.lvl == 0 then s.chargeRuns o.ctx (some o.team) (laneRuns lanes) else s
          if 4 ≤ n then .next (s.storeHome o lanes)
          else .next (s.putOp { o with lvl := n, visAt := s.stepNo, flag := none })
    | _ => .next s

/-! ### ATOM_APPLY and UPDATE_ONLY_FLUSH (R274 to R276) -/

/-- The ATOM may enter the update-only state (R276). -/
def atomGathers (o : Op) (fn d n : Nat) : Bool := d == 0 && atomCombines fn && o.ord == .rlx && (n == 4 || n == 8)
/-- A release or FENCE on the core has still to perform: no line may be held when it does, so none is gathered meanwhile (R276). -/
def State.releasing (s : State) (core : Nat) : Bool :=
  (s.ops.any fun o => o.core == core && (ordReleases o.ord || o.kind == .fence)) ||
    (s.onCore core).any fun t => t.frags.any fun f => match f.wait with | .ops _ _ => true | _ => false
/-- An entry clashes with a contribution: it overlaps the word with another place, width, FN or type. -/
def UpdateEntry.clashes (e : UpdateEntry) (core key n fn : Nat) (signed : Bool) : Bool :=
  e.core == core && key < e.key + e.w && e.key < key + n && !(e.key == key && e.w == n && e.fn == fn && e.signed == signed)
/-- Combine one lane's contribution into its word. -/
def State.gatherLane (s : State) (o : Op) (n fn : Nat) (signed : Bool) (x : LaneAcc) : State :=
  match x.segs with
  | [] => s
  | r :: _ =>
    let key := r.1
    if s.update.any fun e => e.core == o.core && e.key == key then
      { s with update := s.update.map fun e =>
          if e.core == o.core && e.key == key then
            { e with val := atomNew fn signed n e.val x.val 0, ops := if e.ops.contains o.id then e.ops else e.ops ++ [o.id] }
          else e }
    else
      { s with update := s.update ++ [{ core := o.core, line := keyLine key, key := key, w := n, fn := fn, signed := signed,
                                        val := x.val, ctx := o.ctx, ops := [o.id] }] }
/-- The lines of an operation's lanes. -/
def accLines (lanes : List LaneAcc) : List Nat := ((laneRuns lanes).map fun r => keyLine r.1).eraseDups
/-- Gather the lanes of one line: a clashing line goes home first, and the oldest line when the unit holds 32 others (notes/assumptions/88.md). -/
def State.gatherLine (s : State) (o : Op) (n fn : Nat) (signed : Bool) (lanes : List LaneAcc) (line : Nat) : State :=
  let mine := lanes.filter fun x => x.segs.any fun r => keyLine r.1 == line
  let clash := s.update.any fun e => mine.any fun x => x.segs.any fun r => e.clashes o.core r.1 n fn signed
  let s := if clash then s.flushLine o.core line else s
  let held := (s.updateLines.filter fun l => l.1 == o.core).map fun l => l.2
  let s := if !held.contains line && Config.updateLines ≤ held.length then s.flushLine o.core (held.getD 0 0) else s
  mine.foldl (fun s x => s.gatherLane o n fn signed x) s
/-- Batches of lanes on POOL locations, ascending by address (R274, R304). -/
def poolBatches (lanes : List LaneAcc) : List (Nat × List LaneAcc) :=
  lanes.foldl (fun c x =>
    match x.segs with
    | [] => c
    | r :: _ => if keyPooled r.1 then tablePut c r.1 ((tableFind c r.1).getD [] ++ [x]) else c) []
/-- Apply the lanes of a location in the package in ascending lane order (R274). -/
def State.applyLanes (ctx n fn : Nat) (signed : Bool) (s : State) : List LaneAcc → State × List LaneAcc
  | [] => (s, [])
  | x :: t =>
    match x.segs with
    | [] => let r := State.applyLanes ctx n fn signed s t; (r.1, { x with got := some 0 } :: r.2)
    | seg :: _ =>
      if keyPooled seg.1 then let r := State.applyLanes ctx n fn signed s t; (r.1, x :: r.2)
      else
        let a := s.homeAtomic ctx seg.1 n fn signed x.val x.cmp
        let r := State.applyLanes ctx n fn signed a.1 t
        (r.1, { x with got := some a.2 } :: r.2)
/-- Every lane has been applied: the old values are written to D (R273, R275). -/
def State.finishAtom (s : State) (o : Op) : State :=
  match o.kind with
  | .atom g _ _ ty d gs lanes _ =>
    let vals := lanes.map fun x => (x, loadExt g (.ty ty) (x.got.getD 0))
    let s := if d == 0 then s else s.writeDest o g d (tyWidth ty / 8) gs (laneVal gs vals)
    s.endOp o.id
  | _ => s
/-- ATOM_APPLY: an ATOM that R276 admits enters the update-only state; any other is applied at the homes of its locations, on POOL
by packets to the node (R312). -/
def execAtomApply (id : Nat) (s : State) : Host.Outcome State Fault Refusal :=
  match s.opAt id with
  | none => .next s
  | some o =>
    match o.kind with
    | .atom g fn sg ty d gs lanes gathered =>
      let n := tyWidth ty / 8
      if !s.depsDone o || !o.markers.isEmpty || o.pend != 0 || gathered then .next s
      else if o.sent then
        match o.fail with
        | some f => .next (s.failOp o f.1 f.2)
        | none => .next (s.finishAtom o)
      else if !s.wayClear o.team (lanes.map fun x => x.g) (laneRuns lanes) || !s.turnOf o then .next s
      else
        let s := if ordReleases o.ord then s.flushCore o.core else s
        let s := s.chargeRuns o.ctx (some o.team) (laneRuns lanes)
        if atomGathers o fn d n && !s.releasing o.core then
          let s := s.putOp { o with kind := .atom g fn sg ty d gs lanes true }
          .next ((accLines lanes).foldl (fun s l => s.gatherLine o n fn sg lanes l) s)
        else
          let s := s.flushRuns (laneRuns lanes)
          let r := State.applyLanes o.ctx n fn sg s lanes
          let o := { o with kind := .atom g fn sg ty d gs r.2 false }
          let bs := poolBatches r.2
          if bs.isEmpty then .next ((r.1.putOp o).finishAtom o)
          else if bs.any fun b => !s.portOpen o.ctx (keyNode b.1) then .next (r.1.failOp o 0x21 (firstVa lanes))
          else
            let s := bs.foldl (fun s b =>
              s.postTo o b.1 b.1 (.atomic (b.2.map fun x => (0, fn, sg, n, x.val, x.cmp)))) r.1
            .next (s.putOp { o with pend := bs.length, sent := true })
    | _ => .next s
/-- UPDATE_ONLY_FLUSH. -/
def execUpdateOnlyFlush (core line : Nat) (s : State) : Host.Outcome State Fault Refusal := .next (s.flushLine core line)

/-! ### CWAIT_POLL and LEASE_TICK -/

/-- A fragment waiting between polls of CWAIT issues again (R280). -/
def Fragment.pollNow (f : Fragment) : Fragment :=
  match f.wait with
  | .cwait c y _ => { f with wait := .cwait c y true }
  | _ => f
/-- CWAIT_POLL: 32 cc, or 1,024 cc with .Y, after the last poll the CWAIT of a fragment, or of a group's access thread, polls
again. -/
def execCwaitPoll (team frag : Nat) (thread : Bool) (s : State) : Host.Outcome State Fault Refusal :=
  .next (s.onTeam team fun t =>
    if thread then
      match t.threadAt frag with
      | none => t
      | some y => t.putThread { y with frag := y.frag.pollNow }
    else { t with frags := t.frags.map fun f => if f.id == frag then f.pollNow else f })
/-- LEASE_TICK: when 1,024 ns of pod time have passed since the last one, T moves on and pts ← max(pts + 1, T), in one step (R309). -/
def execLeaseTick (s : State) : Host.Outcome State Fault Refusal :=
  if s.ns / 1024 ≤ s.ticks then .next s
  else
    let s := { s with ticks := s.ticks + 1 }
    let p := tsMax (s.pts + 1) s.tickT
    .next { s with pts := p, copies := s.copies.filter fun c => !tsPast c.2.rts p }

end Sys2Proof.Machine
end

