-- ==== Sys2Proof/Machine/EvNode.lean ====
section
/-! DEFINITION. Packets on their way (R117, R301 to R308), the Wildal nodes that serve them (R310 to R316, R322, R362), and what a
reply brings to the operation that asked. A packet comes from this package, or from another one as the event's operand. -/

namespace Sys2Proof.Machine
open Sys2Proof

/-! ### Ports -/

/-- Update a port. -/
def State.onPort (s : State) (p : Nat) (f : Port → Port) : State :=
  { s with ports := s.ports.mapIdx fun i x => if i == p then f x else x }
/-- Port `p`. -/
def State.portAt (s : State) (p : Nat) : Port := s.ports.getD p Port.reset

/-! ### Replies (R285, R295, R304, R310, R319 to R322) -/

/-- One packet of an access has been answered; its first failure is kept. -/
def Op.answered (o : Op) (cause : Nat) (va : DWord) : Op :=
  { o with pend := o.pend - 1,
           fail := match o.fail with | some f => some f | none => if cause == 0 then none else some (cause, va) }
/-- The old values of a POOL batch, given to its lanes in order (R274). -/
def giveOlds : List LaneAcc → Nat → List Nat → List LaneAcc
  | [], _, _ => []
  | x :: t, key, olds =>
    match x.segs, olds with
    | r :: _, v :: vs => if r.1 == key then { x with got := some v } :: giveOlds t key vs else x :: giveOlds t key olds
    | _, _ => x :: giveOlds t key olds
/-- One packet of an item has been answered. -/
def Item.answered (i : Item) (cause : Nat) : Item :=
  if cause != 0 then { i.failed cause (BitVec.ofNat 64 i.raddr) with pend := i.pend - 1 }
  else { i with pend := i.pend - 1, done := i.done || (i.stage == .writing && i.pend ≤ 1) }
/-- An item takes bytes that a read has brought, under their keys. -/
def Item.take (i : Item) (key : Nat) (bytes : List Byte) : Item :=
  { i with data := bytes.zipIdx.foldl (fun c b => tablePut c (key + b.2) b.1) i.data }
/-- An item takes elements of a reduction slot. -/
def Item.takeElems (i : Item) (off : Nat) (l : List (Nat × Nat)) : Item :=
  { i with elems := l.zipIdx.foldl (fun c x => cellPut (0, 0) c (off + x.2) x.1) i.elems }
/-- The failure that a reply reports, 0 for none. -/
def replyCause : Payload → Nat
  | .writeAck _ c => c
  | .atomicReply _ _ c => c
  | .redData _ _ ok => if ok then 0 else 0x21
  | _ => 0
/-- What an answer does to an engine operation. -/
def State.engineReply (s : State) (o : Op) (e : EngOp) (p : Packet) (l : Payload) : State :=
  let k := p.item
  let i := e.items.getD k Item.none
  let c := (replyCause l)
  match e.kind with
  | .put rem (some n) 2 =>
    s.putOp { o with kind := .engine { e with kind := .put rem (some n) 3 },
                     fail := match o.fail with | some f => some f | none => if c == 0 then none else some (c, BitVec.ofNat 64 n.raddr) }
  | .coll .. =>
    let items := collReply e.items k c
    (s.chargeColl o e.items items).putOp { o with fail := (match o.fail with | some f => some f | none => firstFail items), kind := .engine { e with items := items } }
  | .redr _ _ _ _ _ elems _ _ _ =>
    (match l with
     | .redData off es true =>
       let i := i.takeElems off es
       s.putItem o e k (if elems ≤ off + es.length then i.answered 0 else i)
     | _ => s.putItem o e k (i.answered c))
  | _ =>
    let i := match l with | .readData bytes _ _ => i.take p.addr bytes | _ => i
    (s.putItem o e k (i.answered c)).putAdvance o.id
/-- What an answer does to the operation that sent the packet; nothing when it has gone. -/
def State.settleReply (s : State) (p : Packet) (l : Payload) : State :=
  match s.opAt p.op with
  | none => s
  | some o =>
    match o.kind with
    | .load _ _ _ _ lanes => s.putOp (o.answered (replyCause l) (firstVa lanes))
    | .store lanes _ => s.putOp (o.answered (replyCause l) (firstVa lanes))
    | .atom g fn sg ty d gs lanes ga =>
      let lanes := match l with | .atomicReply olds _ 0 => giveOlds lanes p.item olds | _ => lanes
      s.putOp { o.answered (replyCause l) (firstVa lanes) with kind := .atom g fn sg ty d gs lanes ga }
    | .tsrd g d _ va =>
      (match l with
       | .tsReply w r => (s.putSreg o.team g d ((r ++ w ++ s.pts).setWidth 64)).endOp o.id
       | _ => s.failOp o 0x21 va)
    | .flush ids line =>
      (match replyCause l with
       | 0 => (s.linesDone ids line).endOp o.id
       | c => (ids.foldl (fun s k => match s.opAt k with
           | none => s
           | some q => s.failOp q c (match q.kind with | .atom _ _ _ _ _ _ lanes _ => firstVa lanes | _ => 0)) s).endOp o.id)
    | .engine e => s.engineReply o e p l
    | _ => s
/-- A packet that answers another. -/
def isReply : Payload → Bool
  | .readData .. => true
  | .writeAck .. => true
  | .atomicReply .. => true
  | .markerAck _ => true
  | .redData .. => true
  | .tsReply .. => true
  | _ => false
/-- A packet that cannot be sent or answered fails its operation or item with cause 0x21 (R305, R306); an answer to another package
belongs to no operation here. -/
def State.failPacket (s : State) (p : Packet) : State :=
  if p.dst != 0xFF && isReply p.load then s else s.settleReply p (.writeAck 0 0x21)
/-- The reply answers a GET, which leaves no lease copy (R319). -/
def State.answersGet (s : State) (p : Packet) : Bool :=
  (s.opAt p.op).any fun o => match o.kind with | .engine e => (match e.kind with | .get _ => true | _ => false) | _ => false
/-- A reply raises pts; a read's data stays as lease copies (R310). -/
def State.takeStamps (s : State) (p : Packet) : State :=
  match p.load with
  | .readData bytes w r =>
    let s := s.raisePts w
    if s.answersGet p then s
    else (List.range (bytes.length / 32)).foldl (fun s k =>
        s.keepCopy (keySector p.addr + k) { data := BitVec.ofNat 256 (leNat ((bytes.drop (32 * k)).take 32)), rts := r }) s
  | .writeAck w _ => s.raisePts w
  | .atomicReply _ w _ => s.raisePts w
  | _ => s
/-- A packet has come in at a port: its counter and energy (R307, R374). -/
def State.received (s : State) (port : Nat) (p : Packet) : State :=
  (s.onPort port fun x => { x with rxCount := cellPut 0 x.rxCount p.ctx (cellGet 0 x.rxCount p.ctx + 1), consecutive := 0 }).chargePacket
    port p
/-! ### Failures of a path (R305, R308) -/

/-- An operation's marker on a port is acknowledged, or given up: a FENCE ends with its last one, and a PUTSIG goes on. -/
def State.markerDone (s : State) (o : Op) (port : Nat) : State :=
  let o := { o with markers := o.markers.filter fun p => p != port }
  let s := s.putOp o
  match o.kind with
  | .fence => if o.markers.isEmpty then s.endOp o.id else s
  | .engine _ => s.putAdvance o.id
  | _ => s
/-- A marker cannot be sent: the access it belongs to fails with cause 0x21 (R305 to R307). -/
def State.markerLost (s : State) (o : Op) (port : Nat) : State :=
  match o.kind with
  | .fence => s.markerDone o port
  | .engine _ => s.markerDone o port
  | _ => s.markerDone { o with fail := match o.fail with | some f => some f | none => some (0x21, firstVa (match o.kind with
      | .store l _ => l
      | .atom _ _ _ _ _ _ l _ => l
      | _ => [])) } port
/-- The packets of an item that are under way on a route use the port (R303). -/
def State.itemOnRoute (s : State) (e : EngOp) (i : Item) (port : Nat) : Bool :=
  i.pend != 0 &&
    (match e.kind with
     | .put (some pkg) _ _ => (itemPackets i).any fun p => s.routeNode pkg p.1 == port
     | .get (some pkg) => (itemPackets i).any fun p => s.routeNode pkg p.1 == port
     | .coll .. => i.peer != s.pkgNo && s.routeNode i.peer (i.raddr / 4096 * 4096) == port
     | _ => false)
/-- What an engine operation has under way on routes of a port fails: its items, and the increment of a PUTSIG (R305). -/
def State.failRoutes (s : State) (port : Nat) : State :=
  s.ops.foldl (fun s o =>
    match o.kind with
    | .engine e =>
      let fix (i : Item) : Item :=
        if s.itemOnRoute e i port then { i.failed 0x21 (BitVec.ofNat 64 i.raddr) with pend := 0 } else i
      let items := e.items.map fix
      let lost := match e.kind with | .put (some pkg) (some c) 2 => s.routeNode pkg c.raddr == port | _ => false
      let kind := match e.kind with | .put r (some c) 2 => if lost then .put r (some c) 3 else e.kind | k => k
      let at_ := match e.kind with | .put _ (some c) _ => c.raddr | _ => 0
      let fail := match o.fail with
        | some f => some f
        | none => match firstFail items with
          | some f => some f
          | none => if lost then some (0x21, BitVec.ofNat 64 at_) else none
      (s.putOp { o with fail := fail, kind := .engine { e with items := items, kind := kind } }).putAdvance o.id
    | _ => s) s
/-- The requests of REDR of this package that wait at a node; they leave it. -/
def Node.dropWaiting (x : Node) (pkg : Nat) : Node × List Packet :=
  ({ x with slots := x.slots.map fun e => (e.1, { e.2 with waiting := e.2.waiting.filter fun p => p.src != pkg }) },
    x.slots.flatMap fun e => e.2.waiting.filter fun p => p.src == pkg)
/-- The path of a port is failed (R305): it is down, and what is on it or waits behind it for an answer fails. A marker that waits on it is
given up. -/
def State.failLink (s : State) (port : Nat) : State :=
  let x := s.portAt port
  let a : Arbiter := (tableFind s.arbiters port).getD { waiting := [], pointer := 0 }
  let n := (s.nodeAt port).dropWaiting s.pkgNo
  let lost := x.toNode ++ x.fromNode ++ (x.dropped.map fun d => d.2) ++ (a.waiting.map fun w => w.pkt) ++ n.2 ++
    n.1.heldWrites.filter fun p => p.src == s.pkgNo
  let s := (s.onPort port fun x => { x with up := false, toNode := [], fromNode := [], dropped := [] }).putNode port n.1
  let s := { s with arbiters := tablePut s.arbiters port { a with waiting := [] } }
  let s := (lost.foldl (fun s p => s.failPacket p) s).failRoutes port
  (s.ops.filter fun o => o.markers.contains port).foldl (fun s o =>
    match s.opAt o.id with
    | none => s
    | some o => s.markerLost o port) s
/-- A packet has failed its check at a port (R302, R308): it is counted, and the eighth failure in a row fails the path. -/
def State.badPacket (s : State) (port : Nat) : State :=
  let s := s.onPort port fun x => { x with integrity := x.integrity + 1, consecutive := x.consecutive + 1 }
  if 8 ≤ (s.portAt port).consecutive then s.failLink port else s

/-! ### Arrivals -/

/-- REPLY_RECEIVE: the oldest reply of the node behind a port, or a reply that another package has sent on a route. -/
def execReplyReceive (port : Nat) (ext : Option Packet) (s : State) : Host.Outcome State Fault Refusal :=
  match ext with
  | some p =>
    if !(s.portAt port).up then .next s
    else if !packetGood p then .next (s.badPacket port)
    else if !s.portOpen p.ctx port then .next s
    else .next ((s.received port p).settleReply p p.load)
  | none =>
    let x := s.portAt port
    match x.fromNode with
    | [] => .next s
    | p :: t =>
      if !x.up || x.dropped.any fun d => !d.1 then .next s
      else .next ((((s.onPort port fun x => { x with fromNode := t }).received port p).takeStamps p).settleReply p p.load)

/-! ### Sending and ARBITER_GRANT (R117, R307) -/

/-- A packet counter of a port that has come to its last value: nothing more is sent under the key (R307). -/
def counterSpent (c : Cells (BitVec 64)) (ctx pending : Nat) : Bool := 2 ^ 64 - 1 ≤ (cellGet 0 c ctx).toNat + pending
/-- A packet leaves on a port: its counter rises and its flits are charged (R307, R374). -/
def State.countSent (s : State) (port : Nat) (p : Packet) : State :=
  (s.onPort port fun x => { x with txCount := cellPut 0 x.txCount p.ctx (cellGet 0 x.txCount p.ctx + 1) }).chargePacket port p
/-- Send a granted packet: down the path to its node, or out on a route to another package. -/
def State.sendPacket (s : State) (port : Nat) (p : Packet) : State :=
  if !s.portOpen p.ctx port || counterSpent (s.portAt port).txCount p.ctx 0 then s.failPacket p
  else
    let p := { p with pts := s.pts }
    let s := s.countSent port p
    if p.dst == 0xFF then s.onPort port fun x => { x with toNode := x.toNode ++ [p] } else s
/-- ARBITER_GRANT: one arbitration cycle of a port: the packet of the greatest age goes, ages being counted from when each packet began to
wait. The tap queue is arbitrated as the pennant comes (R328), and the other arbiters hold no packet (notes/assumptions/30.md). -/
def execArbiterGrant (arb : Nat) (s : State) : Host.Outcome State Fault Refusal :=
  match tableFind s.arbiters arb with
  | none => .next s
  | some a =>
    match winner a.pointer 256 (a.waiting.map fun x => (x.weight, s.arbNow arb - x.since, x.input)) 0 with
    | none => .next s
    | some w =>
      match a.waiting[w.1]? with
      | none => .next s
      | some x =>
        .next (({ s with arbiters := tablePut s.arbiters arb { waiting := a.waiting.eraseIdx w.1, pointer := x.input + 1 } } : State).sendPacket
          arb x.pkt)

/-! ### What a node takes (R304, R308, R311) -/

/-- The packet is this package's own. -/
def State.ownPacket (s : State) (p : Packet) : Bool := p.src == s.pkgNo
/-- The packet that a node applies now: another package's, or the oldest of this package's path. A dropped packet and a held write
of the same package hold back what came after them; a packet that fails its check is dropped. -/
def State.takePacket (s : State) (n : Nat) (ext : Option Packet) (want : Payload → Bool) : Option (State × Packet) :=
  let free (p : Packet) : Bool := !(s.nodeAt n).heldWrites.any fun h => h.src == p.src
  match ext with
  | some p => if want p.load && packetGood p && !s.ownPacket p && free p then some (s, p) else none
  | none =>
    let x := s.portAt n
    match x.toNode with
    | [] => none
    | p :: t =>
      if x.up && want p.load && free p && !x.dropped.any fun d => d.1 then some (s.onPort n fun x => { x with toNode := t }, p)
      else none
/-- Send a node's answer on the path it came by; one that the node's counter can no longer number is not sent, and what it answers fails
(R307). -/
def State.nodeAnswer (s : State) (n : Nat) (p : Packet) (l : Payload) : State :=
  let x := s.portAt n
  let pending := ((x.fromNode ++ x.dropped.filterMap fun d => if d.1 then none else some d.2).filter fun q => q.ctx == p.ctx).length
  if !s.ownPacket p then s
  else if counterSpent x.rxCount p.ctx pending then s.failPacket p
  else s.onPort n fun x => { x with fromNode := x.fromNode ++ [{ p with load := l }] }
/-- The largest wts that this package's path has received (R263). -/
def State.notePathWts (s : State) (n : Nat) (p : Packet) (w : BitVec 16) : State :=
  if s.ownPacket p then
    let x := s.nodeAt n
    s.putNode n { x with pathWts := some (match x.pathWts with
      | some y => if s.tickNo - y.2 < 16384 then tsMax y.1 w else w
      | none => w, s.tickNo) }
  else s
/-- What an acknowledgement of a marker carries: the largest wts of the path's packets, none when no write has come within the window in
which timestamps compare (R263, R311). -/
def State.markerWts (s : State) (n : Nat) : Option (BitVec 16) :=
  (s.nodeAt n).pathWts.bind fun y => if s.tickNo - y.2 < 16384 then some y.1 else none

/-! ### Reads, writes and atomics (R310 to R312) -/

/-- The earlier of two leases, none yet being the other. -/
def earlier (a : Option (BitVec 16)) (b : BitVec 16) : BitVec 16 :=
  match a with
  | none => b
  | some x => if tsPast b x then b else x
/-- NODE_READ: the reply carries the largest wts of the sectors, and the earliest of their leases (R310). -/
def execNodeRead (node : Nat) (ext : Option Packet) (s : State) : Host.Outcome State Fault Refusal :=
  match s.takePacket node ext fun l => match l with | .read _ => true | _ => false with
  | none => .next s
  | some (s, p) =>
    match p.load with
    | .read n =>
      let s := s.flushRuns [(p.addr, n)]
      let r := (runsSectors [(p.addr, n)]).foldl (fun (a : State × BitVec 16 × Option (BitVec 16)) x =>
        let q := a.1.homeRead p.pts (BitVec.ofNat 16 p.lease) x
        (q.1, tsMax a.2.1 q.2.wts, some (earlier a.2.2 q.2.rts))) (s, s.tickT - 16384, none)
      .next (r.1.nodeAnswer node p (.readData (Memory.bytes r.1.mem p.addr n) r.2.1 (r.2.2.getD 0)))
    | _ => .next s
/-- Apply a write packet: each sector takes its next wts. -/
def State.nodeWrite (s : State) (n : Nat) (p : Packet) (bytes : List Byte) : State :=
  let runs := [(p.addr, bytes.length)]
  let s := s.flushRuns runs
  let r := (runsSectors runs).foldl (fun (a : State × BitVec 16) x =>
    let q := (a.1.writeback x).homeStamp p.pts x
    (q.1, tsMax a.2 q.2)) (s, s.tickT - 16384)
  let s := { r.1 with mem := Memory.writeBytes r.1.mem p.addr bytes }
  (s.notePathWts n p r.2).nodeAnswer n p (.writeAck r.2 0)
/-- Apply an atomic packet in the atomic cache, its operations in order. -/
def State.nodeAtomic (s : State) (n : Nat) (p : Packet) (ops : List (Nat × Nat × Bool × Nat × Nat × Nat)) : State :=
  let s := s.flushRuns (ops.map fun x => (p.addr + x.1, x.2.2.2.1))
  let r := ops.foldl (fun (a : State × List Nat × BitVec 16) x =>
    let q := a.1.atomAt p.pts p.lease (p.addr + x.1) x.2.2.2.1 x.2.1 x.2.2.1 x.2.2.2.2.1 x.2.2.2.2.2
    (q.1, a.2.1 ++ [q.2.1], tsMax a.2.2 q.2.2)) (s, [], s.tickT - 16384)
  (r.1.notePathWts n p r.2.2).nodeAnswer n p (.atomicReply r.2.1 r.2.2 0)
/-- The sectors that a write or atomic packet changes. -/
def packetSectors (p : Packet) : List Nat :=
  match p.load with
  | .write b => runsSectors [(p.addr, b.length)]
  | .atomic ops => runsSectors (ops.map fun x => (p.addr + x.1, x.2.2.2.1))
  | _ => []
/-- The packet must be held: a wts would lie more than 2^12 ticks after T (R311). -/
def State.packetHeld (s : State) (p : Packet) : Bool := (packetSectors p).any fun x => s.holdsWrite p.pts x
/-- Apply a write or atomic packet. -/
def State.nodeApply (s : State) (n : Nat) (p : Packet) : State :=
  match p.load with
  | .write b => s.nodeWrite n p b
  | .atomic ops => s.nodeAtomic n p ops
  | _ => s
/-- Apply a packet or hold it. -/
def State.nodeApplyOrHold (s : State) (n : Nat) (p : Packet) : State :=
  if s.packetHeld p then
    let x := s.nodeAt n
    s.putNode n { x with heldWrites := x.heldWrites ++ [p] }
  else s.nodeApply n p
/-- NODE_WRITE. -/
def execNodeWrite (node : Nat) (ext : Option Packet) (s : State) : Host.Outcome State Fault Refusal :=
  match s.takePacket node ext fun l => match l with | .write _ => true | _ => false with
  | none => .next s
  | some (s, p) => .next (s.nodeApplyOrHold node p)
/-- NODE_ATOMIC. -/
def execNodeAtomic (node : Nat) (ext : Option Packet) (s : State) : Host.Outcome State Fault Refusal :=
  match s.takePacket node ext fun l => match l with | .atomic _ => true | _ => false with
  | none => .next s
  | some (s, p) => .next (s.nodeApplyOrHold node p)
/-- HELD_WRITE_RELEASE: T has reached wts − 2^12 for the first packet held that may go on. -/
def execHeldWriteRelease (node : Nat) (s : State) : Host.Outcome State Fault Refusal :=
  let x := s.nodeAt node
  match x.heldWrites.findIdx? fun p => !s.packetHeld p with
  | none => .next s
  | some k =>
    match x.heldWrites[k]? with
    | none => .next s
    | some p => .next ((s.putNode node { x with heldWrites := x.heldWrites.eraseIdx k }).nodeApply node p)
/-- ATOMIC_CACHE_WRITEBACK: a sector on which no atomic has come for L ticks leaves the atomic cache (R312); its bytes stand in memory
already (notes/assumptions/28.md). -/
def execAtomicCacheWriteback (node sector : Nat) (s : State) : Host.Outcome State Fault Refusal :=
  let x := s.nodeAt node
  match tableFind x.cache sector with
  | none => .next s
  | some leave => .next (if leave ≤ s.tickNo then s.putNode node { x with cache := tableDrop x.cache sector } else s)
/-- TIMESTAMP_QUERY: no lease is taken (R322). -/
def execTimestampQuery (node : Nat) (ext : Option Packet) (s : State) : Host.Outcome State Fault Refusal :=
  match s.takePacket node ext fun l => match l with | .tsQuery => true | _ => false with
  | none => .next s
  | some (s, p) =>
    let st := s.stampAt (keySector p.addr)
    .next ((s.putStamp (keySector p.addr) st).nodeAnswer node p (.tsReply st.wts st.rts))

/-! ### FLUSH_MARKER_ACK (R263, R304) -/

/-- A flush marker and its acknowledgement pass a port: a packet of one flit each way (R307, R373). -/
def State.chargeMarker (s : State) (port ctx : Nat) : State :=
  (s.onPort port fun x => { x with txCount := cellPut 0 x.txCount ctx (cellGet 0 x.txCount ctx + 1),
                                   rxCount := cellPut 0 x.rxCount ctx (cellGet 0 x.rxCount ctx + 1) }).charge ctx none 11 (portDie port) 2
/-- Every earlier packet of this package's path has been applied at the node (R263, R304). -/
def State.pathDrained (s : State) (port : Nat) : Bool :=
  (s.portAt port).toNode.isEmpty && !((s.portAt port).dropped.any fun d => d.1) &&
    !((s.nodeAt port).heldWrites.any fun p => s.ownPacket p)
/-- FLUSH_MARKER_ACK: the oldest operation whose earlier accesses have performed and that still waits for a marker on the port; pts takes the
wts that the acknowledgement carries. -/
def execFlushMarkerAck (port : Nat) (s : State) : Host.Outcome State Fault Refusal :=
  if !s.pathDrained port then .next s
  else
    match s.ops.find? fun o => o.markers.contains port && s.depsDone o with
    | none => .next s
    | some o =>
      if !s.portOpen o.ctx port || counterSpent (s.portAt port).txCount o.ctx 0 || counterSpent (s.portAt port).rxCount o.ctx 0 then
        .next (s.markerLost o port)
      else
        let s := s.chargeMarker port o.ctx
        .next ((match s.markerWts port with | none => s | some w => s.raisePts w).markerDone o port)

/-! ### Packets from other packages (R302 to R306, R318, R354, R389) -/

/-- The port at which a remote transfer reaches this package. -/
def State.inPort (s : State) (va : Nat) : Nat := s.routeNode s.pkgNo va
/-- Freeze a port and context pair: KIND 3 records to the context's log and the PF's (R389). -/
def State.freezePort (s : State) (port ctx : Nat) : State :=
  let s := (s.logError ctx 3 0x21 (unitCode 6 port) 0).logPf ctx 3 0x21 (unitCode 6 port) 0
  { s with host := { s.host with frozenPorts := if s.host.frozenPorts.contains (port, ctx) then s.host.frozenPorts
                                                else s.host.frozenPorts ++ [(port, ctx)] } }
/-- Answer another package on the route it used. -/
def State.routeAnswer (s : State) (p : Packet) (l : Payload) : State :=
  s.post (s.inPort p.addr) 255 { p with src := s.pkgNo, dst := p.src, load := l }
/-- A packet of another package is let in: none when it is dropped. An undefined context freezes the pair. -/
def State.admitRemote (s : State) (p : Packet) : Except State State :=
  let port := s.inPort p.addr
  if !(s.portAt port).up then .error s
  else if !packetGood p then .error (s.badPacket port)
  else if (s.ctxDesc p.ctx).isNone then .error (s.freezePort port p.ctx)
  else if !s.portOpen p.ctx port then .error s
  else .ok (s.received port p)
/-- A remote range in HBM or SRAM: none while its leaf migrates. -/
def State.remoteKey (s : State) (c : Nat) (k : AccKind) (al va : Nat) : Option (Except Nat Nat) :=
  match s.check c k al va with
  | .mig => none
  | .fault x => some (.error x)
  | .ok key _ => if keySpace key == spHBM || keySpace key == spSRAM then some (.ok key) else some (.error 0x21)
/-- REMOTE_PACKET_APPLY: a write or atomic of another package, by this package's local tables (R318, R354, R355). -/
def execRemotePacketApply (p : Packet) (s : State) : Host.Outcome State Fault Refusal :=
  match p.load with
  | .write bytes =>
    (match s.remoteKey p.ctx .store 1 p.addr with
     | none => .next s
     | some r =>
       match s.admitRemote p with
       | .error s' => .next s'
       | .ok s =>
         match r with
         | .error c => .next (s.routeAnswer p (.writeAck 0 c))
         | .ok key =>
           .next (((s.engineWrite [(key, bytes.length)] bytes).chargeRuns p.ctx none [(key, bytes.length)]).routeAnswer p (.writeAck 0 0)))
  | .atomic ops =>
    let keys := ops.map fun x => s.remoteKey p.ctx .atomic x.2.2.2.1 (p.addr + x.1)
    if keys.any fun k => k.isNone then .next s
    else
      (match s.admitRemote p with
       | .error s' => .next s'
       | .ok s =>
         match keys.findSome? fun k => match k with | some (.error c) => some c | _ => none with
         | some c => .next (s.routeAnswer p (.atomicReply [] 0 c))
         | none =>
           let r := (ops.zip keys).foldl (fun (a : State × List Nat) x =>
             match x.2 with
             | some (.ok key) =>
               let s := (a.1.flushRuns [(key, x.1.2.2.2.1)]).chargeRuns p.ctx none [(key, x.1.2.2.2.1)]
               let q := s.homeAtomic p.ctx key x.1.2.2.2.1 x.1.2.1 x.1.2.2.1 x.1.2.2.2.2.1 x.1.2.2.2.2.2
               (q.1, a.2 ++ [q.2])
             | _ => a) (s, [])
           .next (r.1.routeAnswer p (.atomicReply r.2 0 0)))
  | _ => .next s
/-- REMOTE_READ: a GET of another package reads this package's memory (R319). -/
def execRemoteRead (p : Packet) (s : State) : Host.Outcome State Fault Refusal :=
  match p.load with
  | .read n =>
    (match s.remoteKey p.ctx .load 1 p.addr with
     | none => .next s
     | some r =>
       match s.admitRemote p with
       | .error s' => .next s'
       | .ok s =>
         match r with
         | .error c => .next (s.routeAnswer p (.writeAck 0 c))
         | .ok key =>
           let q := s.engineRead p.ctx true [(key, n)]
           .next ((q.1.chargeRuns p.ctx none [(key, n)]).routeAnswer p (.readData q.2 0 0)))
  | _ => .next s

/-! ### Failures of a link (R305, R308) -/

/-- LINK_FAILURE. -/
def execLinkFailure (port : Nat) (s : State) : Host.Outcome State Fault Refusal :=
  if (s.portAt port).up then .next (s.failLink port) else .next s
/-- PACKET_INTEGRITY_FAILURE: the oldest packet of a direction fails its check: it is dropped and asked for again, and the eighth
failure in a row fails the path. -/
def execPacketIntegrityFailure (port : Nat) (toNode : Bool) (s : State) : Host.Outcome State Fault Refusal :=
  let x := s.portAt port
  if !x.up || x.dropped.any fun d => d.1 == toNode then .next s
  else
    match (if toNode then x.toNode else x.fromNode) with
    | [] => .next s
    | p :: t =>
      .next ((s.onPort port fun x =>
        let y := { x with dropped := x.dropped ++ [(toNode, p)] }
        if toNode then { y with toNode := t } else { y with fromNode := t }).badPacket port)
/-- RETRANSMISSION_REQUEST: the dropped packet is sent again, ahead of those behind it. -/
def execRetransmissionRequest (port : Nat) (toNode : Bool) (s : State) : Host.Outcome State Fault Refusal :=
  let x := s.portAt port
  match x.dropped.find? fun d => d.1 == toNode with
  | none => .next s
  | some d =>
    .next (s.onPort port fun x =>
      let y := { x with dropped := x.dropped.erase d }
      if toNode then { y with toNode := d.2 :: y.toNode } else { y with fromNode := d.2 :: y.fromNode })

/-! ### Reduction slots (R314 to R316, R321, R362) -/

/-- Slot `k` of a node. -/
def Node.slotAt (x : Node) (k : Nat) : Option RedSlot := (tableFind x.slots k).filter fun s => s.claimed
/-- Replace a slot. -/
def State.putSlot (s : State) (n k : Nat) (x : RedSlot) : State :=
  let y := s.nodeAt n
  s.putNode n { y with slots := tablePut y.slots k x }
/-- A fresh element of a slot. -/
def RedElem.zero : RedElem := { v := 0, flags := 0 }
/-- A contribution to an exact-window element (R314). -/
def RedElem.window (x : RedElem) (anchor : Int) (c : Int × Int × Nat) : RedElem :=
  let e : Elem := { s := x.v, c := 0, inx := x.flags.getLsbD 0, ovf := x.flags.getLsbD 1, nan := x.flags.getLsbD 2,
                    pinf := x.flags.getLsbD 3, ninf := x.flags.getLsbD 4 }
  let e := e.contribute anchor c
  { v := e.s + e.c, flags := BitVec.ofNat 5 (e.flags ||| c.2.2 % 4) }
/-- The value of a contribution in rank order, widened or converted to FP32 (R315): its code and flags. -/
def rankValue (c : Int × Int × Nat) : Nat × FBits :=
  let v : FVal :=
    if natBits c.2.2 2 1 == 1 then .nan
    else if natBits c.2.2 3 1 == 1 then .inf false
    else if natBits c.2.2 4 1 == 1 then .inf true
    else .fin (c.1 < 0 || natBits c.2.2 5 1 == 1) c.1.natAbs c.2.1
  v.res.write .f32 .rne false 0
/-- IX, OF and NV as an element of a rank-order slot holds them. -/
def rankFlags (f : FBits) : BitVec 5 :=
  (if f &&& fIX != 0 then 1 else 0) ||| (if f &&& fOF != 0 then 2 else 0) ||| (if f &&& fNV != 0 then 4 else 0)
/-- A contribution in rank order (R315): rank 0 starts the sum. -/
def RedElem.ranked (x : RedElem) (first : Bool) (c : Int × Int × Nat) : RedElem :=
  let v := rankValue c
  if first then { v := BitVec.ofNat 96 v.1, flags := rankFlags v.2 }
  else
    let r := (sumTerms .rne [.val (fltDecode .f32 x.v.toNat), .val (fltDecode .f32 v.1)]).write .f32 .rne false 0
    { v := BitVec.ofNat 96 r.1, flags := x.flags ||| rankFlags v.2 ||| rankFlags r.2 }
/-- Apply a contribution to every element of a slot. -/
def RedSlot.apply (x : RedSlot) (rank : Nat) (l : List (Int × Int × Nat)) : RedSlot :=
  { x with vals := l.zipIdx.foldl (fun c e =>
      let old := cellGet RedElem.zero c e.2
      cellPut RedElem.zero c e.2 (if x.rankMode then old.ranked (rank == 0) e.1 else old.window x.anchor e.1)) x.vals }
/-- Apply the parked contributions whose rank is due (R315). -/
def RedSlot.drain (x : RedSlot) : Nat → RedSlot
  | 0 => x
  | fuel + 1 =>
    match tableFind x.parked x.due with
    | none => x
    | some l => ({ x.apply x.due l with parked := tableDrop x.parked x.due, due := x.due + 1 }).drain fuel
/-- Take a contribution: it is applied, or parked until its rank is due. -/
def RedSlot.take (x : RedSlot) (rank : Nat) (l : List (Int × Int × Nat)) : RedSlot :=
  let x := { x with got := x.got ++ [rank] }
  if x.rankMode then ({ x with parked := tablePut x.parked rank l }).drain (x.ranks + 1) else x.apply rank l
/-- A contribution in part: what has come of it from a package, and the whole of it once the last packet is there (R301). -/
def RedSlot.gather (x : RedSlot) (src rank off total : Nat) (l : List (Int × Int × Nat)) : RedSlot × Option (List (Int × Int × Nat)) :=
  let k := 1024 * src + rank
  let all := (if off == 0 then [] else (tableFind x.parts k).getD []) ++ l
  if total ≤ all.length then ({ x with parts := tableDrop x.parts k }, some all) else ({ x with parts := tablePut x.parts k all }, none)
/-- R316. -/
def RedSlot.refuses (x : RedSlot) (p : Packet) (rank : Nat) (acc : Bool) (n recNo : Nat) : Bool :=
  x.owner != p.ctx || x.ranks ≤ rank || x.got.contains rank || (acc && x.rankMode) || n != x.elems || recNo != x.recNo
/-- REDUCTION_CONTRIBUTION. -/
def execReductionContribution (node : Nat) (ext : Option Packet) (s : State) : Host.Outcome State Fault Refusal :=
  match s.takePacket node ext fun l => match l with | .contrib .. => true | _ => false with
  | none => .next s
  | some (s, p) =>
    match p.load with
    | .contrib slot rank acc _ off total elems recNo =>
      (match (s.nodeAt node).slotAt slot with
       | none => .next (s.nodeAnswer node p (.redData 0 [] false))
       | some x =>
         if x.refuses p rank acc total recNo then .next (s.nodeAnswer node p (.redData 0 [] false))
         else
           match x.gather p.src rank off total elems with
           | (y, none) => .next ((s.putSlot node slot y).nodeAnswer node p (.redData 0 [] true))
           | (y, some l) => .next ((s.putSlot node slot (y.take rank l)).nodeAnswer node p (.redData 0 [] true)))
    | _ => .next s
/-- The slot is ready (R313). -/
def RedSlot.ready (x : RedSlot) : Bool := x.got.length == x.ranks
/-- The elements of a ready slot as replies carry them, 16 bytes for each and 8 data flits at most in a packet (R301;
notes/assumptions/18.md). -/
def RedSlot.data (x : RedSlot) : List Payload :=
  (elemPackets 16 ((List.range x.elems).map fun k => let e := cellGet RedElem.zero x.vals k; (e.v.toNat, e.flags.toNat))).map fun p =>
    .redData p.1 p.2 true
/-- Answer a request of REDR with a slot's elements, in order. -/
def State.answerSlot (s : State) (n : Nat) (p : Packet) (x : RedSlot) : State := x.data.foldl (fun s l => s.nodeAnswer n p l) s
/-- A waiting request whose slot has become ready: slot and request. -/
def Node.dueRead (x : Node) : Option (Nat × RedSlot × Packet) :=
  x.slots.findSome? fun e => match e.2.waiting with
    | p :: _ => if e.2.claimed && e.2.ready then some (e.1, e.2, p) else none
    | [] => none
/-- REDUCTION_READ: a waiting request whose slot is ready, else the next request of the path, which waits until its slot is ready
(R321). -/
def execReductionRead (node : Nat) (ext : Option Packet) (s : State) : Host.Outcome State Fault Refusal :=
  match (s.nodeAt node).dueRead with
  | some (k, x, p) => .next ((s.putSlot node k { x with waiting := x.waiting.drop 1 }).answerSlot node p x)
  | none =>
    match s.takePacket node ext fun l => match l with | .redRead .. => true | _ => false with
    | none => .next s
    | some (s, p) =>
      match p.load with
      | .redRead slot recNo =>
        (match (s.nodeAt node).slotAt slot with
         | none => .next (s.nodeAnswer node p (.redData 0 [] false))
         | some x =>
           if x.owner != p.ctx || recNo != x.recNo then .next (s.nodeAnswer node p (.redData 0 [] false))
           else if x.ready then .next (s.answerSlot node p x)
           else .next (s.putSlot node slot { x with waiting := x.waiting ++ [p] }))
      | _ => .next s
/-- SLOT_CONFIG_APPLY: a node takes a configuration whose record number is higher than that of the one it holds; the slot's contents
and parked contributions go, and waiting requests fail (R362). -/
def execSlotConfigApply (node : Nat) (ext : Option Packet) (s : State) : Host.Outcome State Fault Refusal :=
  match s.takePacket node ext fun l => match l with | .config .. => true | _ => false with
  | none => .next s
  | some (s, p) =>
    match p.load with
    | .config recNo slot word anchor elems ranks =>
      let old := tableFind (s.nodeAt node).slots slot
      if (match old with | none => false | some x => recNo ≤ x.recNo) then .next s
      else
        let x : RedSlot := { recNo := recNo, claimed := word.getLsbD 24, owner := natBits word.toNat 26 6, rankMode := word.getLsbD 25,
                             elems := elems, anchor := anchor, ranks := ranks, got := [], due := 0, parked := [], vals := [],
                             parts := [], waiting := [] }
        let w := match old with | none => [] | some y => y.waiting
        .next (w.foldl (fun s q => s.nodeAnswer node q (.redData 0 [] false)) (s.putSlot node slot x))
    | _ => .next s

end Sys2Proof.Machine
end

