-- ==== Sys2Proof/Machine/EvLoop.lean ====
section
/-! DEFINITION. The events of the Halyard loop (R104 to R106, R245, R246, R327 to R334, R336, R359 to R362): sending, receiving and
applying records. An event whose condition does not hold leaves the machine as it is. -/

namespace Sys2Proof.Machine
open Sys2Proof

/-! ### Receiving (R329, R330) -/

/-- Records that R330 applies nothing from pass by their numbers alone. -/
def skipBroken : List (LoopRecord × Option Nat) → Nat → List (LoopRecord × Option Nat) × Nat
  | [], n => ([], n)
  | x :: l, n => if recWhole x.1 then (x :: l, n) else skipBroken l (n + 1)
/-- Pass broken records at the head of what has been received. -/
def State.passBroken (s : State) : State :=
  if s.loop.refetch then s
  else
    let r := skipBroken s.loop.inbox s.loop.applied
    { s with loop := { s.loop with inbox := r.1, applied := r.2 } }
/-- A record comes in; a tap that is not on the loop receives nothing. -/
def State.receive (s : State) (ext : Option LoopRecord) : State :=
  match ext with
  | none => s
  | some r =>
    if !s.loop.joined then s
    else ({ s with loop := { s.loop with inbox := s.loop.inbox ++ [(r, none)], received := s.loop.received + 1 } }).passBroken
/-- An 8-byte write of ensign memory. -/
def State.ensPut (s : State) (off v : Nat) : State := { s with mem := Memory.write s.mem (ensKey off) 8 v }
/-- The loop block of a context (R333). -/
def loopBlock (c : Nat) : Nat := 0x1000 + 64 * c
/-- A record of a context is ignored with a cause (R332, R333). -/
def State.ignore (s : State) (c n cause : Nat) : State :=
  let b := loopBlock c
  (s.ensPut (b + 8) (s.ens64 (b + 8) + 1)).ensPut (b + 0x10) (n % 2 ^ 56 * 2 ^ 8 + cause)
/-- The BCAST of a record completes when its package has applied it (R336). -/
def State.endBcast (s : State) (op : Option Nat) : State := match op with | none => s | some i => s.endOp i
/-- Receive `ext`, then apply the oldest record if it has type `ty`: pts follows the record's (R265), the application is charged
(R374), and APPLIED counts it (R333). `f` is its effect under its number. -/
def State.applyRecord (s : State) (ext : Option LoopRecord) (ty : Nat) (f : Nat → LoopRecord → State → State) : State :=
  let s := s.receive ext
  if !s.loop.joined || s.loop.refetch then s
  else
    match s.loop.inbox with
    | [] => s
    | (r, op) :: rest =>
      if recType r != ty then s
      else
        let n := s.loop.applied + 1
        let s := ({ s with loop := { s.loop with inbox := rest, applied := n } }).raisePts (recPts r)
        let s := s.chargeRecord (recCtx r)
        let b := loopBlock (recCtx r)
        let s := s.ensPut b (s.ens64 b + 1)
        ((f n r s).endBcast op).passBroken

/-! ### STORE, CLAIM and ADD (R332, R333) -/

/-- `n` bytes at an offset lie in the general area of a context. -/
def inGeneral (c off n : Nat) : Bool := 0x100000 + c * 0x40000 ≤ off && off + n ≤ 0x100000 + (c + 1) * 0x40000
/-- An offset is that of a STATE word. -/
def isStateWord (off : Nat) : Bool :=
  let o := (off - 0x1000000) % 256
  0x1000000 ≤ off && off < 0x1000000 + 48 * 64 * 256 && 0x20 ≤ o && o < 0xA0 && o % 8 == 0
/-- The lowest cause that a record breaks (R333); 0 for none. -/
def ignoreCause (area form reserved : Bool) : Nat := if !area then 1 else if !form then 2 else if !reserved then 3 else 0
/-- The effect of a STORE record. -/
def applyStore (n : Nat) (r : LoopRecord) (s : State) : State :=
  let off := recField r 8 4
  let len := recField r 0x0C 1
  let cause := ignoreCause (inGeneral (recCtx r) off len) (off % 8 == 0 && 1 ≤ len && len ≤ 48) (recField r 0x0D 3 == 0)
  if cause != 0 then s.ignore (recCtx r) n cause
  else { s with mem := Memory.write s.mem (ensKey off) len (recField r 0x10 len) }
/-- STORE. -/
def execStoreRec (ext : Option LoopRecord) (s : State) : Host.Outcome State Fault Refusal := .next (s.applyRecord ext 1 applyStore)
/-- The limits that CLAIM and ADD share: the word lies where the record may write, W and alignment, reserved fields; `words` are the
8-byte fields whose upper half a W of 4 leaves zero. -/
def wordCause (r : LoopRecord) (state : Bool) (words : List Nat) (rest : Nat) : Nat :=
  let off := recField r 8 4
  let w := recField r 0x0C 1
  ignoreCause (inGeneral (recCtx r) off w || (state && isStateWord off && w == 8)) ((w == 4 || w == 8) && off % w == 0)
    (recField r 0x0D 3 == 0 && recField r rest (64 - rest) == 0 && (w != 4 || words.all fun o => recField r (o + 4) 4 == 0))
/-- A CLAIM on a STATE word that R106 allows. -/
def State.claimAllowed (s : State) (r : LoopRecord) : Bool :=
  let off := recField r 8 4
  let old := recField r 0x10 8
  let new := recField r 0x18 8
  let rel := off - 0x1000000
  let k := (rel % 256 - 0x20) / 8
  let pkg := (Memory.byte s.mem (ensKey (0x1100000 + (rel / 256 * 16 + k) * 64 + 0x2A))).toNat
  let dev := recDev r && recOrigin r == pkg
  let cause := new / 2 ^ 8 % 256
  s.ens64 off == old && old / 2 ^ 16 == new / 2 ^ 16 &&
    (match old % 256, new % 256 with
     | 1, 2 => dev && cause == 0
     | 2, 3 => dev && cause == 0
     | 1, 4 => dev && 1 ≤ cause && cause ≤ 4
     | 1, 5 => !recDev r && recCtx r == rel / (64 * 256) && cause == 5
     | _, _ => false)
/-- The launches of this package whose slot has a given STATE word. -/
def State.launchesAt (s : State) (off : Nat) : List Launch := s.launches.filter fun l => stateOff l.ctx l.queue l.slot == off
/-- The effect of a CLAIM record (R106, R332). -/
def applyClaim (n : Nat) (r : LoopRecord) (s : State) : State :=
  let off := recField r 8 4
  let w := recField r 0x0C 1
  let cause := wordCause r true [0x10, 0x18] 0x20
  if cause != 0 then s.ignore (recCtx r) n cause
  else if isStateWord off then
    let new := recField r 0x18 8
    let s :=
      if s.claimAllowed r then
        let s := s.ensPut off new
        let b := off - off % 256
        if 3 ≤ new % 256 then s.ensPut (b + 8) (s.ens64 (b + 8) + 1) else s
      else s
    (s.launchesAt off).foldl (fun s l => s.launchClaimed l) s
  else if Memory.read s.mem (ensKey off) w == recField r 0x10 8 then
    { s with mem := Memory.write s.mem (ensKey off) w (recField r 0x18 8) }
  else s
/-- CLAIM. -/
def execClaimRec (ext : Option LoopRecord) (s : State) : Host.Outcome State Fault Refusal := .next (s.applyRecord ext 2 applyClaim)
/-- The effect of an ADD record. -/
def applyAdd (n : Nat) (r : LoopRecord) (s : State) : State :=
  let off := recField r 8 4
  let w := recField r 0x0C 1
  let cause := wordCause r false [0x10] 0x18
  if cause != 0 then s.ignore (recCtx r) n cause
  else { s with mem := Memory.write s.mem (ensKey off) w ((Memory.read s.mem (ensKey off) w + recField r 0x10 8) % 2 ^ (8 * w)) }
/-- ADD. -/
def execAddRec (ext : Option LoopRecord) (s : State) : Host.Outcome State Fault Refusal := .next (s.applyRecord ext 3 applyAdd)

/-! ### LAUNCH (R102, R105) -/

/-- The fields of a LAUNCH record are within their limits (R102). -/
def launchOk (r : LoopRecord) : Bool :=
  let f (o n : Nat) : Nat := recField r o n
  f 8 8 % 256 == 0 && f 0x18 8 % 64 == 0 && 1 ≤ f 0x20 2 && 1 ≤ f 0x22 2 && 1 ≤ f 0x24 2 &&
    f 0x20 2 * f 0x22 2 * f 0x24 2 ≤ 2 ^ 32 && f 0x26 1 ≤ 16 && 1 ≤ f 0x27 1 / 16 && f 0x27 1 / 4 % 4 == 0 && f 0x28 1 ≤ 63 &&
    f 0x29 1 / 2 == 0 && f 0x2A 1 ≤ 63 && f 0x2B 1 / 16 == 0 && f 0x2C 4 == 0 && f 0x38 8 % 8 == 0
/-- The launch of an accepted record (R102). -/
def launchOf (n k : Nat) (r : LoopRecord) : Launch :=
  let f (o n : Nat) : Nat := recField r o n
  { seq := n, ctx := recCtx r, queue := f 0x28 1, slot := k, image := BitVec.ofNat 64 (f 8 8), params := BitVec.ofNat 64 (f 0x10 8),
    spill := BitVec.ofNat 64 (f 0x18 8), gx := f 0x20 2, gy := f 0x22 2, gz := f 0x24 2, nb := f 0x26 1, weight := f 0x27 1 / 16,
    cls := f 0x27 1 % 4, serial := f 0x29 1 % 2 == 1, dies := BitVec.ofNat 4 (f 0x2B 1), dep := f 0x30 8,
    done := BitVec.ofNat 64 (f 0x38 8), stage := .pending, kernel := none, nextUnit := 0, roundMem := none }
/-- The effect of a LAUNCH record (R105): the causes of a rejection in their order. -/
def applyLaunch (n : Nat) (r : LoopRecord) (s : State) : State :=
  let c := recCtx r
  let q := recField r 0x28 1
  if 63 < q then s.ignore c n 5
  else
    let b := statusBlock c q
    let posted := s.ens64 b
    let k := posted % 16
    let st := s.ens64 (stateOff c q k) % 256
    let cause :=
      if st == 1 || st == 2 then 16
      else if s.host.pkgs ≤ recField r 0x2A 1 then 17
      else if !launchOk r then 18
      else if n ≤ recField r 0x30 8 then 19
      else 0
    if cause != 0 then (s.ensPut (b + 0x10) (s.ens64 (b + 0x10) + 1)).ensPut (b + 0x18) (n % 2 ^ 56 * 2 ^ 8 + cause)
    else
      let s := { s with mem := Memory.write s.mem (ensKey (0x1100000 + ((64 * c + q) * 16 + k) * 64)) 64 r.toNat }
      let s := (s.ensPut (stateOff c q k) (n % 2 ^ 48 * 2 ^ 16 + 1)).ensPut b (posted + 1)
      if recField r 0x2A 1 == s.pkgNo then { s with launches := s.launches ++ [launchOf n k r] } else s
/-- LAUNCH. -/
def execLaunchRec (ext : Option LoopRecord) (s : State) : Host.Outcome State Fault Refusal := .next (s.applyRecord ext 4 applyLaunch)

/-! ### PTE (R245 to R247) -/

/-- The fields of a PTE record are within their limits: the same verdict at every receiver (notes/assumptions/29.md). -/
def pteFieldsOk (r : LoopRecord) : Bool :=
  let f (o n : Nat) : Nat := recField r o n
  let lvl := f 0x2C 1
  let fl := f 0x2D 1
  let loc := natBits fl 1 1 == 1
  let ack := f 0x28 4
  f 8 8 % 8 == 0 && lvl ≤ 3 && f 0x10 8 % 2 ^ levelShift lvl == 0 && f 0x10 8 < 2 ^ 52 && (natBits (f 0x10 8) 51 1 == 1) == !loc &&
    (natBits fl 0 1 == 1 || f 0x20 8 == 0) && (ack == 0 || (ack % 8 == 0 && inGeneral (recCtx r) ack 8)) && fl / 4 == 0 &&
    (loc || f 0x2E 1 == 0) && f 0x2F 17 == 0
/-- The table at level `lvl` on the way of an address, from table `t` at level 3 (R239): none where the way ends before. -/
def State.tableAt (s : State) (c : Nat) (shared : Bool) (va lvl : Nat) : Nat → Nat → Option Nat
  | 0, t => if lvl == 0 then some t else none
  | l + 1, t =>
    if lvl == l + 1 then some t
    else
      let e := Memory.read s.mem (flatKey (if shared then spENS else spHBM) (t + 8 * levelIndex va (l + 1))) 8
      if natBits e 0 1 == 0 || natBits e 1 1 == 1 || s.malformed c shared (l + 1) e then none
      else s.tableAt c shared va lvl l (natBits e 8 50 * 2 ^ 8)
/-- ENTRY lies in a table of the sender's context of the half and level, at the place of VA (R237, R245; notes/assumptions/29.md). -/
def State.pteInTable (s : State) (r : LoopRecord) : Bool :=
  let c := recCtx r
  let va := recField r 0x10 8
  let lvl := recField r 0x2C 1
  let shared := natBits (recField r 0x2D 1) 1 1 == 0
  match s.tableAt c shared va lvl 3 (s.root c shared) with
  | none => false
  | some t => recField r 8 8 == t + 8 * levelIndex va lvl && (shared || s.inBounds c spHBM (recField r 8 8))
/-- The physical runs that a leaf entry maps (R236, R238). -/
def entryRuns (e lvl : Nat) : List (Nat × Nat) :=
  let sp := natBits e 2 3
  let k := natBits e 9 3
  let pa := natBits e 16 42 * 2 ^ 16
  let span := 2 ^ levelShift lvl
  if k == 0 then [(flatKey sp pa, span)]
  else (List.range (2 ^ k)).map fun i => (flatKey sp ((natBits pa 42 5 + i) * 2 ^ 42 + pa % 2 ^ 42), span / 2 ^ k)
/-- Physical runs that an operation has been translated for: its accesses, the ranges of a stream or an engine operation, those beside the
items among them (R243, R245). A line on its way home no longer uses a translation. -/
def OpKind.translated (k : OpKind) : List (Nat × Nat) :=
  match k with
  | .engine e => e.allRuns
  | .stream st => st.items.flatMap Rng.known
  | .tsrd _ _ key _ => [(key, 32)]
  | k => k.runs
/-- The operation may use a translation through an entry: through a leaf when its bytes lie in the page, through a valid non-leaf
always. -/
def opUses (e lvl : Nat) (o : Op) : Bool :=
  natBits e 0 1 == 1 && !o.kind.translated.isEmpty && (natBits e 1 1 == 0 || runsMeet o.kind.translated (entryRuns e lvl))
/-- A buffered store of a region was translated through an entry. -/
def State.bufferUses (s : State) (c e lvl : Nat) : Bool :=
  natBits e 0 1 == 1 && s.teams.any fun t => t.ctx == c && t.frags.any fun f => f.region.buf.any fun b =>
    natBits e 1 1 == 0 || runsMeet [(32 * b.sector, 32)] (entryRuns e lvl)
/-- Streams of control that wait on MIG in a span translate again (R246). -/
def State.wakeMig (s : State) (c va lvl : Nat) : State :=
  let wake (f : Fragment) : Fragment := match f.wait with
    | .mig a => if spanCovers va lvl a.toNat then { f with wait := .ready } else f
    | _ => f
  { s with teams := s.teams.map fun t =>
      if t.ctx == c then { t with frags := t.frags.map wake, threads := t.threads.map fun x => { x with frag := wake x.frag } } else t }
/-- Where the entry of a PTE record stands. -/
def pteKey (r : LoopRecord) : Nat := flatKey (if natBits (recField r 0x2D 1) 1 1 == 1 then spHBM else spENS) (recField r 8 8)
/-- The effect of a PTE record (R245): a local one acts at its package only. -/
def applyPte (n : Nat) (r : LoopRecord) (s : State) : State :=
  let c := recCtx r
  let fl := recField r 0x2D 1
  let va := recField r 0x10 8
  let lvl := recField r 0x2C 1
  let key := pteKey r
  let old := Memory.read s.mem key 8
  if !pteFieldsOk r then s.ignore c n 4
  else if natBits fl 1 1 == 1 && recField r 0x2E 1 != s.pkgNo then s
  else if !s.pteInTable r || (natBits fl 0 1 == 1 && old != recField r 0x20 8) then s.ignore c n 4
  else
    let s := { s with mem := Memory.write s.mem key 8 (recField r 0x18 8) }
    let s := (s.dropTierSpan c va (2 ^ levelShift lvl)).wakeMig c va lvl
    let s := s.ops.foldl (fun s o => if o.ctx == c then s.settleOp (fun p => p.any fun a => spanCovers va lvl a) o else s) s
    if recField r 0x28 4 == 0 then s
    else
      let ids := (s.ops.filter fun o => o.ctx == c && opUses old lvl o).map fun o => o.id
      { s with loop := { s.loop with acks := s.loop.acks ++ [{ id := n, ack := recField r 0x28 4, ctx := c, old := old, lvl := lvl, va := va, ops := ids }] } }
/-- PTE. -/
def execPteRec (ext : Option LoopRecord) (s : State) : Host.Outcome State Fault Refusal := .next (s.applyRecord ext 5 applyPte)
/-- PTE_ACK_POST: what used the old entry has completed: the package posts an ADD of 1 to ACK. -/
def execPteAckPost (id : Nat) (s : State) : Host.Outcome State Fault Refusal :=
  match s.loop.acks.find? fun a => a.id == id with
  | none => .next s
  | some a =>
    if (a.ops.any fun i => (s.opAt i).isSome) || s.bufferUses a.ctx a.old a.lvl then .next s
    else
      let s := { s with loop := { s.loop with acks := s.loop.acks.filter fun x => x.id != id } }
      .next (s.devicePost a.ctx (deviceRecord 3 [(8, 4, a.ack), (0x0C, 1, 8), (0x10, 8, 1)]))

/-! ### SLOT, FREE and ABORT (R313, R359 to R362) -/

/-- The ensign offset of a slot word. -/
def slotOff (node slot : Nat) : Nat := 0xD00000 + (node * 4096 + slot) * 8
/-- The claimed slot words, as (node, slot, word). -/
def State.slotWords (s : State) : List (Nat × Nat × Nat) :=
  let offs := (s.mem.filterMap fun e =>
    let k := e.1
    if ensKey 0xD00000 ≤ k && k < ensKey 0xE00000 then some ((k - ensKey 0xD00000) / 8) else none).eraseDups
  (offs.map fun i => (i / 4096, i % 4096, s.ens64 (0xD00000 + 8 * i))).filter fun x => natBits x.2.2 24 1 == 1
/-- The slots that a COLLID holds for a context. -/
def State.slotsOf (s : State) (c coll : Nat) : List (Nat × Nat) :=
  (s.slotWords.filter fun x => natBits x.2.2 32 32 == coll && natBits x.2.2 26 6 == c).map fun x => (x.1, x.2.1)
/-- Write HEAD of a claim result. -/
def State.claimHead (s : State) (c coll n verdict : Nat) : State :=
  s.ensPut (0xF00000 + c * 0x1000 + coll % 64 * 64) (n % 2 ^ 24 * 2 ^ 40 + verdict * 2 ^ 32 + coll)
/-- The reserved fields and limits of a SLOT record (R360). -/
def State.slotRecOk (s : State) (r : LoopRecord) : Bool :=
  let f (o n : Nat) : Nat := recField r o n
  let count := f 0x0C 1
  1 ≤ count && count ≤ 8 && f 0x0D 1 ≤ 1 && f 0x0E 2 < 1024 && 1 ≤ f 0x10 2 && f 0x10 2 ≤ 4096 && 1 ≤ f 0x12 2 && f 0x12 2 ≤ 1024 &&
    f 0x14 4 == 0 && f 0x38 8 == 0 &&
    (List.range 8).all fun k =>
      let e := f (0x18 + 4 * k) 4
      if count ≤ k then e == 0
      else natBits e 18 14 == 0 && natBits e 12 5 < s.host.nodes && (natBits e 17 1 == 0 || natBits e 0 12 == 0)
/-- Parking room that claims of a node reserve (R313). -/
def parkOf (l : List SlotClaim) (node : Nat) : Nat :=
  l.foldl (fun n c => if c.node == node && c.rankMode then n + c.ranks * c.elems * 4 else n) 0
/-- Take the entries of a SLOT record in order: none when one fails (R360). `new` gives the claim of a slot. -/
def State.takeSlots (s : State) (used : List (Nat × Nat)) (rank : Bool) (room : Nat) (new : Nat → Nat → SlotClaim) :
    List Nat → List SlotClaim → Option (List SlotClaim)
  | [], got => some got
  | e :: l, got =>
    let node := natBits e 12 5
    let taken (k : Nat) : Bool := used.contains (node, k) || got.any fun c => c.node == node && c.slot == k
    let slot := if natBits e 17 1 == 1 then (List.range Config.nodeSlots).find? fun k => !taken k
      else if taken (natBits e 0 12) then none else some (natBits e 0 12)
    match slot with
    | none => none
    | some k =>
      if rank && Config.parkBytes < parkOf s.claims node + parkOf got node + room then none
      else State.takeSlots s used rank room new l (got ++ [new node k])
/-- Send a slot's configuration to its node, if the port is up (R362). -/
def State.sendConfig (s : State) (c n node slot : Nat) (word : DWord) (anchor : Int) (elems ranks : Nat) : State :=
  match s.ports[node]? with
  | none => s
  | some p =>
    if !p.up then s
    else
      let pkt : Packet := { ctx := c, src := s.pkgNo, dst := 0xFF, pts := s.pts, addr := 0, load := .config n slot word anchor elems ranks,
                            op := s.nextOp, item := 0, lease := 0, tagOk := true, reservedOk := true }
      { (s.onPort node fun x => { x with toNode := x.toNode ++ [pkt] }) with nextOp := s.nextOp + 1 }
/-- The word of a claimed slot (R359). -/
def claimWord (c n coll : Nat) (rank : Bool) : Nat := coll * 2 ^ 32 + c * 2 ^ 26 + (if rank then 2 ^ 25 else 0) + 2 ^ 24 + n % 2 ^ 24
/-- The effect of a SLOT record (R360). -/
def applySlot (n : Nat) (r : LoopRecord) (s : State) : State :=
  let c := recCtx r
  let coll := recField r 8 4
  let count := recField r 0x0C 1
  let rank := recField r 0x0D 1 == 1
  let elems := recField r 0x10 2
  let ranks := recField r 0x12 2
  let anchor := natSigned 10 (recField r 0x0E 2)
  if !s.slotRecOk r then s.claimHead c coll n 6
  else if !(s.slotsOf c coll).isEmpty then s.claimHead c coll n 3
  else
    let new (node k : Nat) : SlotClaim :=
      { node := node, slot := k, ctx := c, recNo := n, elems := elems, anchor := anchor, ranks := ranks, rankMode := rank }
    let used := s.slotWords.map fun x => (x.1, x.2.1)
    match s.takeSlots used rank (ranks * elems * 4) new ((List.range count).map fun k => recField r (0x18 + 4 * k) 4) [] with
    | none => s.claimHead c coll n 2
    | some got =>
      let w := claimWord c n coll rank
      let s := got.foldl (fun s x => (s.ensPut (slotOff x.node x.slot) w).sendConfig c n x.node x.slot (BitVec.ofNat 64 w) anchor elems ranks)
        { s with claims := s.claims ++ got }
      let s := s.claimHead c coll n 1
      let at_ := 0xF00000 + c * 0x1000 + coll % 64 * 64 + 8
      { s with mem := Memory.writeBytes s.mem (ensKey at_) ((List.range 8).flatMap fun k =>
          match got[k]? with
          | some x => natLe 4 (x.slot + 2 ^ 12 * x.node)
          | none => natLe 4 0) }
/-- SLOT. -/
def execSlotRec (ext : Option LoopRecord) (s : State) : Host.Outcome State Fault Refusal := .next (s.applyRecord ext 6 applySlot)
/-- Clear every slot of a COLLID and write the verdict (R361, R362). -/
def State.clearSlots (s : State) (n : Nat) (r : LoopRecord) (verdict : Nat) : State :=
  let c := recCtx r
  let coll := recField r 8 4
  if recField r 0x0C 52 != 0 then s.claimHead c coll n 6
  else
    let s := (s.slotsOf c coll).foldl (fun s x =>
      ({ s.ensPut (slotOff x.1 x.2) 0 with claims := s.claims.filter fun y => !(y.node == x.1 && y.slot == x.2) }).sendConfig
        c n x.1 x.2 0 0 0 0) s
    s.claimHead c coll n verdict
/-- FREE. -/
def execFreeRec (ext : Option LoopRecord) (s : State) : Host.Outcome State Fault Refusal :=
  .next (s.applyRecord ext 7 fun n r s => s.clearSlots n r 4)
/-- ABORT. -/
def execAbortRec (ext : Option LoopRecord) (s : State) : Host.Outcome State Fault Refusal :=
  .next (s.applyRecord ext 8 fun n r s => s.clearSlots n r 5)

/-! ### The pennant, refetch, leaving, windows (R328 to R330, R334, R336) -/

/-- The key of a function's registers: 0 for the PF, v + 1 for VF v. -/
def fnKey (f : HostFn) : Nat := match f with | .pf => 0 | .vf v => v + 1
/-- Send one record of the tap queue (R329, R331, R334, R336, R392): PTS is filled as it leaves, ORIGIN with the number that the package
has then; the tap keeps the last 4,096 records it has sent (R330); the number goes to s[D] of its BCAST, or to DBSEQ of the function that
posted it. -/
def State.tapSend (s : State) (pos : Nat) (e : TapEntry) : State :=
  let n := s.loop.received + 1
  let r := recPut (recPut e.record 4 2 s.pts.toNat) 2 1 s.pkgNo
  let s := { s with loop := { s.loop with
    queue := s.loop.queue.eraseIdx pos, inbox := s.loop.inbox ++ [(r, e.op)], received := n,
    kept := (s.loop.kept ++ [(n, r)]).drop (s.loop.kept.length + 1 - 4096),
    sent := cellPut 0 s.loop.sent e.ctx (cellGet 0 s.loop.sent e.ctx + 1), pointer := (e.ctx + 1) % 48 } }
  let s := s.chargeRecord e.ctx
  let s := match e.fn with
    | none => s
    | some fn => { s with host := { s.host with dbseq := cellPut 0 s.host.dbseq (fnKey fn) (BitVec.ofNat 64 n) } }
  match e.op.bind s.opAt with
  | none => s
  | some o =>
    match o.kind with
    | .bcast g d rec q _ => (s.putOp { o with writes := [], kind := .bcast g d rec q (some n) }).putSreg o.team g d (BitVec.ofNat 64 n)
    | _ => s
/-- Send records that may be sent, at most `k`. -/
def State.tapHold (s : State) : Nat → State
  | 0 => s
  | k + 1 =>
    match s.tapNext with
    | none => s
    | some (pos, e) => State.tapHold (s.tapSend pos e) k
/-- A context being dissolved whose resources have been scrubbed and whose ABORT records have left has gone: its final ENERGY is read into the
PF's log, and its number may be used again (R386). -/
def State.dissolveDone (s : State) : State :=
  let open_ (c : Nat) : Bool := (s.host.changes.any fun x => x.ctx == c) ||
    ((s.loop.queue ++ s.loop.backlog).any fun e => e.dev && e.ctx == c)
  let gone := s.host.dissolving.filter fun c => !open_ c
  { s with host := { s.host with
      dissolving := s.host.dissolving.filter open_,
      finalEnergy := gone.foldl (fun l c => cellPut 0 l c (cellGet 0 s.energy.total c)) s.host.finalEnergy } }
/-- PENNANT_ARRIVE: at most 16 records leave the tap queue, and the pennant goes on. -/
def execPennantArrive (s : State) : Host.Outcome State Fault Refusal :=
  let s := s.tapAdmit
  if !s.loop.joined || s.host.stage != 7 then .next s
  else
    let s := s.tapHold 16
    .next ((s.tapFill s.loop.backlog.length).passBroken).dissolveDone
/-- RECORD_REFETCH: the oldest record received is uncorrectable and is being fetched again; `ok` says that the fetch has succeeded. -/
def execRecordRefetch (ok : Bool) (s : State) : Host.Outcome State Fault Refusal :=
  if s.loop.inbox.isEmpty then .next s
  else .next ({ s with loop := { s.loop with refetch := !ok } }).passBroken
/-- LOOP_LEAVE: a fetch that has not succeeded takes the tap off the loop: unsent BCASTs fail, and the loss is reported to every
context with resources here (R387). -/
def execLoopLeave (s : State) : Host.Outcome State Fault Refusal :=
  if !s.loop.joined || !s.loop.refetch then .next s
  else
    let s := s.ops.foldl (fun s o => s.failBcast o) s
    let s := { s with loop := { s.loop with joined := false, left := true, refetch := false, inbox := [], queue := [], backlog := [] } }
    .next (s.deliverError s.ctxsHere (unitCode 7 0) 0).dissolveDone
/-- LOOP_BUDGET_WINDOW: at the end of each µs of pod time deficits are settled and the next allowances set (R334). -/
def execLoopBudgetWindow (s : State) : Host.Outcome State Fault Refusal :=
  let deficit (c : Nat) : Nat := cellGet 0 s.loop.deficit c + s.sentBy c - s.lbudget c
  let cs := List.range Config.numCtx
  if s.ns / 1000 ≤ s.loop.windows then .next s
  else .next { s with loop := { s.loop with
    windows := s.loop.windows + 1,
    deficit := cs.foldl (fun d c => cellPut 0 d c (deficit c)) [], sent := [],
    allowance := cs.foldl (fun a c => if (s.ctxDesc c).isSome then a ++ [(c, s.lbudget c - deficit c)] else a) [] } }

end Sys2Proof.Machine
end

