-- ==== Sys2Proof/Machine/EvMatrix.lean ====
section
/-! DEFINITION. The events of the matrix array, the tile datapaths and the operand streams (R174 to R194, R199 to R203). -/

namespace Sys2Proof.Machine
open Sys2Proof

/-! ### Matrix operations (R177 to R181, R186) -/

/-- Rows of a step: M, and the first row m0 (R177). -/
def MatrixOp.rows (m : MatrixOp) : Nat × Nat := match m.rowh with | none => (64, 0) | some h => (32, 32 * h)
/-- Kstep (R177). -/
def kStep (t : NumTy) : Nat := if numWidth t == 16 then 16 else if numWidth t == 4 then 64 else 32
/-- The format of B. -/
def MatrixOp.tyB (m : MatrixOp) : NumTy := if m.partner then (m.ty.partner).getD m.ty else m.ty
/-- Element B(k, n) of a step with base b (R178). -/
def Team.matrixB (t : Team) (m : MatrixOp) (b k n : Nat) : FVal :=
  let e := packedCount m.ty
  let r := k / e
  let g := m.group / 4 * 4 + n / 16
  packedVal m.tyB (k % e) (((t.group g).vget (b + r / 4)).lane (16 * (r % 4) + n % 16)).toNat
/-- Add one step's products to the tile: one contribution per element, the exact sum of its products (R186). -/
def Team.matrixStep (t : Team) (m : MatrixOp) (recs : List QRec) : Team :=
  let b := m.base + m.done * m.inc
  let ks := List.range (kStep m.ty)
  let cols := laneList.map fun n => ks.map fun k => t.matrixB m b k n
  let rows := recs.map fun r => ks.map fun k => packedVal m.ty k r.data.toNat
  let x := t.tile m.tile
  let y := x.map fun i n e =>
    if i < m.rows.2 || m.rows.2 + m.rows.1 ≤ i then e
    else e.contribute x.anchor (contribOf (((rows.getD (i - m.rows.2) []).zip (cols.getD n [])).map fun p => p.1.mul p.2))
  t.putTile m.tile { y with steps := m.done + 1, err := false }
/-- The charge class of a step (R373). -/
def stepClass (t : NumTy) : Nat := if numWidth t == 16 then 4 else if numWidth t == 4 then 6 else 5
/-- Count on a half's counters: j = 0 steps, 1 waiting (R181, R393). -/
def State.countMatrix (s : State) (core : Nat) (halves : List Nat) (j : Nat) : State :=
  { s with host := { s.host with mcnt := halves.foldl (fun c h =>
      cellPut 0 c (4 * core + 2 * h + j) (cellGet 0 c (4 * core + 2 * h + j) + 1)) s.host.mcnt } }
/-- MATRIX_STEP: the next step of an operation at the head of its halves begins, waits for records, or ends the operation early
(R180, R181, R200). -/
def execMatrixStep (op : Nat) (s : State) : Host.Outcome State Fault Refusal :=
  match s.opAt op with
  | none => .next s
  | some o =>
    match o.kind, s.teamAt o.team with
    | .matrix m, some t =>
      if m.ended || !s.matrixDue o m then .next s
      else
        let q := (t.group m.group).queue m.queue
        let n := m.rows.1
        if q.depth != 0 && q.store then .next (s.matrixEnd o m 0x13)
        else if q.depth != 0 && q.depth < n then .next (s.matrixEnd o m 0x12)
        else if q.recs.length < n then
          .next (if s.queueHopeless t m.group m.queue true then s.matrixEnd o m 0x10 else s.countMatrix o.core m.halves 1)
        else
          let m' := { m with done := m.done + 1, ended := m.done + 1 == m.count }
          let s := s.onTeam o.team fun t =>
            (t.matrixStep m (q.recs.take n)).onGroup m.group fun x => x.onQueue m.queue fun q => { q with recs := q.recs.drop n }
          let s := (s.countMatrix o.core m.halves 0).charge o.ctx (some o.team) (stepClass m.ty) (coreDie o.core) (n / 16)
          .next (s.putOp { o with kind := .matrix m' })
    | _, _ => .next s
/-- MATRIX_OP_COMPLETE: an operation whose last step has ended, or that ended early, releases its flag (R180). -/
def execMatrixOpComplete (op : Nat) (s : State) : Host.Outcome State Fault Refusal :=
  match s.opAt op with
  | none => .next s
  | some o => match o.kind with
    | .matrix m => .next (if m.ended then s.endOp op else s)
    | _ => .next s
/-- The contexts that own a half of a core. -/
def State.halfOwners (s : State) (core h : Nat) : List Nat :=
  ((s.host.ctxs.filter fun d => d.halfmap.getLsbD (2 * core + h) &&
      s.host.ctxs.all fun k => k.parent != some d.ctx || !k.halfmap.getLsbD (2 * core + h)).map fun d => d.ctx) ++
    (s.host.changes.filter fun x => x.halves.contains (2 * core + h)).map fun x => x.ctx
/-- MATRIX_OP_EARLY_END with REASON 0x02: a soft error in a half of the operation, reported to the owner too (R181, R387). The other
reasons arise in MATRIX_STEP and QDRAIN. -/
def execMatrixOpEarlyEnd (op reason : Nat) (s : State) : Host.Outcome State Fault Refusal :=
  match s.opAt op with
  | none => .next s
  | some o => match o.kind with
    | .matrix m =>
      if m.ended || reason != 0x02 then .next s
      else .next ((s.matrixEnd o m 0x02).deliverError (m.halves.flatMap fun h => s.halfOwners o.core h).eraseDups (unitCode 1 o.core) 0)
    | _ => .next s

/-! ### TILE_DATAPATH_EXECUTE (R174, R185, R187 to R194) -/

/-- The oldest instruction queued on a datapath. -/
def State.tileHead (s : State) (core half : Nat) : Option Op :=
  s.ops.find? fun o => o.core == core && (match o.kind with | .tile _ h => h == half | _ => false)
/-- Add contributions to elements. -/
def Tile.contribAll (t : Tile) (l : List (Nat × Nat × Int × Int × Nat)) : Tile :=
  l.foldl (fun t x => t.put x.1 x.2.1 ((t.at x.1 x.2.1).contribute t.anchor x.2.2)) t
/-- The elements of row `r` of a resolve, each with its FSTAT bits (R190). -/
def Tile.resolveRow (t : Tile) (m : ArslvArgs) (r : Nat) : List (Nat × FBits) :=
  laneList.map fun n => resolveElem m.ty m.rm m.sat t.anchor (t.at (m.row.toNat + r) n)
/-- The registers of a resolve (R190). -/
def Group.resolve (x : Group) (t : Tile) (m : ArslvArgs) : Group :=
  (List.range m.nrows.toNat).foldl (fun (x : Group) r =>
    x.vput (m.d.toNat + r) (.general ((t.resolveRow m r).map fun e => BitVec.ofNat 32 e.1))) x
/-- The FSTAT bits of a resolve (R190). -/
def Tile.resolveFlags (t : Tile) (m : ArslvArgs) : FBits :=
  (List.range m.nrows.toNat).foldl (fun b r => (t.resolveRow m r).foldl (fun f e => f ||| e.2) b) 0
/-- The region in which an operation was issued is still open in a fragment that holds its lanes of group `g` (R216). -/
def Fragment.stillOpen (f : Fragment) (o : Op) (g : Nat) : Bool :=
  (maskAt f.m g &&& maskAt o.lanes g) != 0 && f.region.since ≤ o.id
/-- Raise FSTAT bits of an operation issued in a region: into P(g) while that region is open, else into the committed word (R217). -/
def Team.raiseLater (t : Team) (o : Op) (g : Nat) (bits : FBits) (inRegion : Bool) : Team :=
  if bits == 0 then t
  else if inRegion && t.frags.any fun f => f.stillOpen o g then
    { t with frags := t.frags.map fun f => if f.stillOpen o g then
        { f with region := { f.region with pend := f.region.pend.set g (f.region.pend.getD g 0 ||| bits) } } else f }
  else t.onGroup g fun x => { x with fstat := x.fstat ||| bits }
/-- The masks of a compare (R192). -/
def Group.compare (x : Group) (t : Tile) (m : AcmpArgs) (thr : List Word) : Group :=
  (List.range m.nrows.toNat).foldl (fun (x : Group) r =>
    x.sput (m.d.toNat + r) (maskOf fun n => compareElem m.cond t.anchor (t.at (m.row.toNat + r) n) (thr.getD n 0))) x
/-- ASTAT (R193). -/
def Group.astat (x : Group) (t : Tile) : AstatArgs → Group
  | .t d _ _ => x.sput d.toNat t.status
  | .r d _ row _ => x.vput d.toNat (VReg.ofLanes fun n => BitVec.ofNat 32 (t.at row.toNat n).flags)
/-- A row of ASAVE or ALOAD: its runs, or the fault that ends the operation, or a wait on MIG (R194). Range locks count (R261). -/
inductive RowCheck
  | runs (l : List (Nat × Nat))
  | fault (cause : Nat) (va : Nat)
  | wait
  deriving DecidableEq, Repr
/-- The first address of a range whose byte lies in a range that conflicts with the access (R261). -/
def State.lockAt (s : State) (ctx : Nat) (store : Bool) (va n : Nat) : Option Nat :=
  (List.range ((va % 32 + n + 31) / 32)).findSome? fun k =>
    let a := max va (va / 32 * 32 + 32 * k)
    match s.check ctx (if store then .store else .load) 1 a with
    | .ok key _ => if s.lockConflict store (key, 1) then some a else none
    | _ => none
/-- Check the row at `va`. -/
def State.rowCheck (s : State) (ctx : Nat) (store : Bool) (va : Nat) : RowCheck :=
  match s.rangeOn ctx (if store then .store else .load) 64 va 1600 with
  | .bad c a => .fault c a
  | .mig .. => .wait
  | .runs l =>
    match s.lockAt ctx store va 1600 with
    | some bad => .fault 0x23 bad
    | none => if store && s.writeHeld l then .wait else .runs l
/-- Move one row of ASAVE or ALOAD; the operation ends after its last row, or at a row that fails (R194). -/
def State.moveRow (s : State) (o : Op) (store : Bool) (g a : Nat) (addr : DWord) (row left half : Nat) (runs : List (Nat × Nat)) : State :=
  if left == 0 then s.endOp o.id
  else
    match s.rowCheck o.ctx store addr.toNat with
    | .wait => s
    | .fault c va => s.failOp o c (BitVec.ofNat 64 va)
    | .runs l =>
      if store && !s.wayClear o.team [g] l then s
      else
      let s := s.chargeRuns o.ctx (some o.team) l
      let next : Op := { o with kind := .tile (if store then .save g a (addr + 1600) (row + 1) (left - 1) runs
        else .load g a (addr + 1600) (row + 1) (left - 1) runs) half }
      let s :=
        if store then
          match s.teamAt o.team with
          | none => s
          | some t => s.engineWrite l ((t.tile a).rowBytes row)
        else
          let r := s.engineRead o.ctx true l
          let bytes := match (s.launchAt o.launch).bind fun l => l.roundMem with
            | some m => Memory.runBytes m l
            | none => overlay l r.2 (r.1.shadow o.team g)
          r.1.onTeam o.team fun t => t.putTile a ((t.tile a).putRow row bytes)
      if left == 1 then s.endOp o.id else s.putOp next
/-- Execute the queued command of an operation on its team. -/
def Team.tileRun (t : Team) (o : Op) (c : TileCmd) : Team :=
  match c with
  | .clear d anchor => t.putTile d (Tile.clear anchor)
  | .shift d n => t.putTile d ((t.tile d).shift n)
  | .contrib d items => t.putTile d ((t.tile d).contribAll items)
  | .add d a => t.putTile d ((t.tile d).addTile (t.tile a))
  | .move d a => t.putTile d (t.tile a)
  | .scale d a fa fb rows cols => t.putTile d ((t.tile d).scale (t.tile a) fa fb rows cols)
  | .resolve g m inRegion =>
    let x := t.tile m.a.toNat
    (t.onGroup g fun y => y.resolve x m).raiseLater o g (x.resolveFlags m) inRegion
  | .canon d => t.putTile d (t.tile d).canon
  | .compare g m thr => t.onGroup g fun x => x.compare (t.tile m.a.toNat) m thr
  | .stat g m => t.onGroup g fun x => x.astat (t.tile (match m with | .t _ a _ => a.toNat | .r _ a _ _ => a.toNat)) m
  | .save .. => t
  | .load .. => t
/-- TILE_DATAPATH_EXECUTE: the oldest instruction of the datapath executes once what R173 names is done; ASAVE and ALOAD move one row
each time. -/
def execTileDatapathExecute (core half : Nat) (s : State) : Host.Outcome State Fault Refusal :=
  match s.tileHead core half with
  | none => .next s
  | some o =>
    if !s.depsDone o then .next s
    else
      match o.kind with
      | .tile c h =>
        let s := s.charge o.ctx (some o.team) 7 (coreDie core) 1
        (match c with
         | .save g a addr row left runs => .next (s.moveRow o true g a addr row left h runs)
         | .load g a addr row left runs => .next (s.moveRow o false g a addr row left h runs)
         | _ => .next ((s.onTeam o.team fun t => t.tileRun o c).endOp o.id))
      | _ => .next s

/-! ### Streams (R199, R202, R203) -/

/-- The queues of a team take and give records: it is resident and its image is not being made (R204, R222). -/
def Team.queuesLive (t : Team) : Bool := t.phase == .running || t.phase == .stopping
/-- A stream is the oldest of its kind on its queue. -/
def State.streamFirst (s : State) (o : Op) (st : StreamOp) : Bool :=
  ((s.streamsOf o.team st.group st.queue).filter fun p => match p.kind with | .stream x => x.store == st.store | _ => false).head?.map
    (fun p => p.id) == some o.id
/-- A record that fails ends its stream: FAULT is set, the flag is released and the fault is held (R203). -/
def State.streamFault (s : State) (o : Op) (st : StreamOp) (va : DWord) : State :=
  ((s.onQueue o.team st.group st.queue fun q => { q with fault := true }).imprecise o 0x15 va).endOp o.id
/-- The stream goes on after a record, or ends after its last one. -/
def State.streamNext (s : State) (o : Op) (st : StreamOp) : State :=
  if st.next + 1 == st.n then s.endOp o.id else s.putOp { o with kind := .stream { st with next := st.next + 1 } }
/-- What the next record of a stream meets: its runs, its failure, or a wait on MIG. -/
def State.streamRec (s : State) (st : StreamOp) : RowCheck :=
  match st.items[st.next]? with
  | none => .fault 0x15 (st.bad.getD 0).toNat
  | some r =>
    match r with
    | .bad _ va => .fault 0x15 va
    | .mig .. => .wait
    | .runs l => if st.store && s.writeHeld l then .wait else .runs l
/-- A record may move: its stream is the oldest of its kind on the queue, its order is kept, and no store to its bytes that its thread sees
is still on its way home (R202, R255). -/
def State.streamDue (s : State) (o : Op) (st : StreamOp) : Bool :=
  s.streamFirst o st && s.depsDone o && s.wayClear o.team [st.group] ((st.items.getD st.next (.runs [])).known)
/-- A stream as it stands once ranges that wait for room in the range-lock table have been tried again (R246, R287). -/
def State.settleStream (s : State) (op : Nat) : State :=
  match s.opAt op with
  | none => s
  | some o => s.settleOp (fun p => p.isNone) o
/-- STREAM_RECORD_ARRIVE: the next record of the oldest QLD stream of its queue enters it when there is room. -/
def execStreamRecordArrive (op : Nat) (s : State) : Host.Outcome State Fault Refusal :=
  let s := s.settleStream op
  match s.opAt op with
  | none => .next s
  | some o =>
    match o.kind, s.teamAt o.team with
    | .stream st, some t =>
      let q := (t.group st.group).queue st.queue
      if st.store || !t.queuesLive || !s.streamDue o st then .next s
      else
        match s.streamRec st with
        | .wait => .next s
        | .fault _ va => .next (s.streamFault o st (BitVec.ofNat 64 va))
        | .runs l =>
          if q.depth ≤ q.recs.length then .next s
          else
            let r := (s.chargeRuns o.ctx (some o.team) l).engineRead o.ctx true l
            let x : QRec := { src := some { stream := o.id, pc := o.pc, va := BitVec.ofNat 64 (st.addr st.next), w24 := st.w24 },
                              data := BitVec.ofNat 256 (leNat r.2) }
            .next ((r.1.onQueue o.team st.group st.queue fun q => { q with recs := q.recs ++ [x] }).streamNext o st)
    | _, _ => .next s
/-- STREAM_WRITE_PERFORM: the next record of the oldest QST stream of its queue leaves it for memory. -/
def execStreamWritePerform (op : Nat) (s : State) : Host.Outcome State Fault Refusal :=
  let s := s.settleStream op
  match s.opAt op with
  | none => .next s
  | some o =>
    match o.kind, s.teamAt o.team with
    | .stream st, some t =>
      let q := (t.group st.group).queue st.queue
      if !st.store || !t.queuesLive || !s.streamDue o st then .next s
      else
        match s.streamRec st with
        | .wait => .next s
        | .fault _ va => .next (s.streamFault o st (BitVec.ofNat 64 va))
        | .runs l =>
          match q.recs with
          | [] => .next s
          | r :: rest =>
            let s := (s.chargeRuns o.ctx (some o.team) l).engineWrite l (natLe st.width r.data.toNat)
            .next ((s.onQueue o.team st.group st.queue fun q => { q with recs := rest }).streamNext o st)
    | _, _ => .next s

end Sys2Proof.Machine
end

