-- ==== Sys2Proof/Machine/EvHost.lean ====
section
/-! DEFINITION. The events of the host side (R381 to R396): registers, doorbells, partition commands, errors, freezes, reset, boot,
link IDE and the SPDM responder. An event whose condition does not hold leaves the machine as it is. -/

namespace Sys2Proof.Machine
open Sys2Proof

/-! ### Registers (R393) -/

/-- The registers of the BARs answer: the link has trained and boot has not failed (R395). -/
def State.barsLive (s : State) : Bool := 2 ≤ s.host.stage && s.host.error == 0
/-- A VF is frozen (R389): its writes are discarded. -/
def State.fnFrozen (s : State) (f : HostFn) : Bool := match f with | .pf => false | .vf v => s.host.frozenVfs.contains v
/-- The context of a function, none for the PF or an unmapped VF (R383). -/
def State.fnCtx (s : State) (f : HostFn) : Option Nat := match f with | .pf => none | .vf v => s.ctxOfVf v
/-- LEASE(c) takes a value of 1 to 255; another is ignored (R393). -/
def State.writeLease (s : State) (c : Nat) (value : DWord) : State :=
  if c < Config.numCtx && value != 0 && value.toNat ≤ 255 then
    { s with host := { s.host with lease := cellPut 10 s.host.lease c value } }
  else s
/-- LEASE_WRITE. -/
def execLeaseWrite (ctx : Nat) (value : DWord) (s : State) : Host.Outcome State Fault Refusal := .next (s.writeLease ctx value)
/-- Clear DBERR of a function. -/
def State.clearDberr (s : State) (f : HostFn) : State :=
  { s with host := { s.host with dberr := s.host.dberr.filter fun k => k != fnKey f } }
/-- DBSTAT_CLEAR. -/
def execDbstatClear (fn : HostFn) (s : State) : Host.Outcome State Fault Refusal :=
  if s.fnFrozen fn then .next s else .next (s.clearDberr fn)
/-- Set CMDSTAT: 0 done, 1 refused. -/
def State.cmdDone (s : State) (code : Nat) : State := { s with host := { s.host with cmdstat := BitVec.ofNat 64 (code * 2 ^ 8) } }
/-- A write of CMD: ignored while a command runs; an opcode that R394 does not list is refused. -/
def State.writeCmd (s : State) (value : DWord) : State :=
  if s.host.cmdstat.getLsbD 0 then s
  else
    let op := natBits value.toNat 0 8
    { s with host := { s.host with cmd := value, cmdstat := if 1 ≤ op && op ≤ 5 then 1 else 0x100 } }
/-- REGISTER_WRITE: a host write to a register, by its selector. A write that breaks a field's limits, that goes to a read-only or
unassigned register, or that the function may not make, is ignored. -/
def execRegisterWrite (fn : HostFn) (sel : Nat) (value : DWord) (s : State) : Host.Outcome State Fault Refusal :=
  let pf := fn == .pf
  if !s.barsLive || s.fnFrozen fn then .next s
  else if sel == 0x0003 then (if value.getLsbD 0 then .next (s.clearDberr fn) else .next s)
  else if sel == 0x0008 then (if pf then .next (s.writeCmd value) else .next s)
  else if 0x100 ≤ sel && sel < 0x130 then
    (if pf && value.toNat % 0x8000 == 0 then .next { s with host := { s.host with lroot := cellPut 0 s.host.lroot (sel - 0x100) value } }
     else .next s)
  else if 0x200 ≤ sel && sel < 0x230 then
    (if pf || s.fnCtx fn == some (sel - 0x200) then .next (s.writeLease (sel - 0x200) value) else .next s)
  else if 0x1000 ≤ sel && sel < 0x1800 then (if pf then .next (s.setQuota (sel - 0x1000) value) else .next s)
  else .next s
/-- RECORD_DOORBELL: a record enters the tap queue with DEV = 0; a refused one sets DBERR (R383, R392). -/
def execRecordDoorbell (fn : HostFn) (rec : LoopRecord) (s : State) : Host.Outcome State Fault Refusal :=
  let c := match fn with
    | .pf => if recCtx rec ≤ 47 then some (recCtx rec) else none
    | .vf v => if s.fnFrozen fn then none else s.ctxOfVf v
  if !s.barsLive then .next s
  else match c with
    | none => .next { s.clearDberr fn with host := { (s.clearDberr fn).host with dberr := (s.clearDberr fn).host.dberr ++ [fnKey fn] } }
    | some c =>
      if recType rec == 0 || 8 < recType rec then
        .next { s.clearDberr fn with host := { (s.clearDberr fn).host with dberr := (s.clearDberr fn).host.dberr ++ [fnKey fn] } }
      else .next (s.tapPut c false rec none (some fn))

/-! ### Ending work and changing owners (R385, R386, R390) -/

/-- The half-cores, slices and window units of a descriptor. -/
def ctxResources (d : CtxDesc) : List Nat × List Nat × List Nat :=
  ((List.range 384).filter fun i => d.halfmap.getLsbD i, (List.range 576).filter fun i => d.hbmmap.getLsbD i,
    (List.range d.window).map fun i => d.winbase + i)
/-- Take resources from a context: they belong to nobody until their scrub ends, and its teams on a removed half-core are pre-empted (R385). -/
def State.removeResources (s : State) (c : Nat) (halves slices units : List Nat) : State :=
  if halves.isEmpty && slices.isEmpty && units.isEmpty then s
  else
    let s := s.teams.foldl (fun s t => if t.ctx == c && t.usesHalf halves then s.preemptTeam t.id else s) s.settleOwned
    { s with nextScrub := s.nextScrub + 1,
             host := { s.host with changes := s.host.changes ++
               [{ id := s.nextScrub, ctx := c, halves := halves, slices := slices, units := units }] } }
/-- Items of an operation that R390 abandons: those of engine, fabric and collective work not completed, and an unapplied record. -/
def abandoned (o : Op) : Nat :=
  match o.kind with
  | .engine e => max 1 (e.items.filter fun i => !i.done).length
  | .bcast .. => 1
  | .tsrd .. => 1
  | _ => 0
/-- End the work of a context at once (R390): teams, items, launches; each abandoned item goes to the PF's failure log. -/
def State.endContext (s : State) (c : Nat) : State :=
  let mine := s.ops.filter fun o => o.ctx == c
  let s := mine.foldl (fun s o => (List.range (abandoned o)).foldl (fun s _ => s.logPf c 2 0x21 0 0) s) s
  let ids := mine.map fun o => o.id
  let ts := (s.teams.filter fun t => t.ctx == c).map fun t => t.id
  { s with
    teams := s.teams.filter fun t => t.ctx != c, ops := s.ops.filter fun o => o.ctx != c,
    update := s.update.filter fun e => e.ctx != c, launches := s.launches.filter fun l => l.ctx != c,
    forced := s.forced.filter fun p => !ts.contains p.1,
    loop := { s.loop with queue := s.loop.queue.filter fun e => match e.op with | none => true | some i => !ids.contains i },
    tiers := { s.tiers with pins := s.tiers.pins.filter (fun x => x.ctx != c), copies := s.tiers.copies.filter fun x => x.ctx != c, counters := s.tiers.counters.filter fun x => x.ctx != c } }
/-- End the work of a context and scrub what it holds (R385, R390). -/
def State.endAndScrub (s : State) (c : Nat) : State :=
  match s.ctxDesc c with
  | none => s
  | some d => let r := ctxResources d; (s.endContext c).removeResources c r.1 r.2.1 r.2.2
/-- OWNER_CHANGE_SCRUB_COMPLETE: once no team stands on a removed half-core and no range lock lies in a removed slice or window
range, the resources are zero and pass on. -/
def execOwnerChangeScrubComplete (id : Nat) (s : State) : Host.Outcome State Fault Refusal :=
  match s.host.changes.find? fun x => x.id == id with
  | none => .next s
  | some x =>
    let inside (k : Nat) : Bool := (keySpace k == spHBM && x.slices.contains (keyOff k / 2 ^ 30)) ||
      (keySpace k == spSRAM && x.units.contains (keyOff k / 2 ^ 21))
    if (s.teams.any fun t => t.usesHalf x.halves) || (s.ops.any fun o => o.locks.any fun l => inside (32 * l.1) || inside (32 * l.2.1)) then
      .next s
    else
      let s := s.settleOwned.book x.ctx none (Config.scrubCost id)
      .next ({ s with mem := s.mem.filter fun e => !inside e.1,
                      host := { s.host with changes := s.host.changes.filter fun y => y.id != id } } : State).dissolveDone

/-! ### Partition commands (R381 to R383, R386, R394) -/

/-- The descriptor in the 256-byte block of a command (R381); reserved bits and bytes are ignored (R9). -/
def CtxDesc.ofBlock (b : BitVec 2048) : CtxDesc :=
  let f (o n : Nat) : Nat := natBits b.toNat (8 * o) (8 * n)
  { ctx := f 0 1, parent := if f 1 1 == 0xFF then none else some (f 1 1), weight := f 2 1 % 16, cew := f 3 1 % 16, tslice := f 4 4,
    lbudget := f 8 2, window := f 0x0A 2, ways := BitVec.ofNat 32 (f 0x0C 4), fabcap := f 0x10 4, hostcap := f 0x14 4, stage := f 0x18 4,
    nstage := f 0x1C 4, frbase := f 0x20 2, frcount := f 0x22 2, winbase := f 0x24 2, arena := f 0x28 8, arenasz := f 0x30 8,
    errlog := f 0x38 8, halfmap := BitVec.ofNat 384 (f 0x40 48), hbmmap := BitVec.ofNat 576 (f 0x70 72) }
/-- The limits of a descriptor's fields (R381). -/
def ctxFieldsOk (d : CtxDesc) : Bool :=
  d.ctx ≤ 47 && 1 ≤ d.weight && d.weight ≤ 15 && 1 ≤ d.cew && d.cew ≤ 15 && 10 ≤ d.tslice && d.tslice ≤ 1000000 &&
    d.lbudget ≤ 65535 && d.window ≤ 512 && d.winbase + d.window ≤ 512 && d.frbase + d.frcount ≤ 2688 && d.arena % 0x10000 == 0 &&
    d.arenasz % 0x10000 == 0 && d.errlog % 0x2000 == 0
/-- Ranges [a, a + n) and [b, b + m) overlap. -/
def spansMeet (a n b m : Nat) : Bool := a < b + m && b < a + n
/-- Two contexts share a half-core, a slice, a window range or a frame. -/
def ctxOverlaps (a b : CtxDesc) : Bool :=
  a.halfmap &&& b.halfmap != 0 || a.hbmmap &&& b.hbmmap != 0 || spansMeet a.winbase a.window b.winbase b.window ||
    spansMeet a.frbase a.frcount b.frbase b.frcount
/-- A range lies within another; an empty one does. -/
def rangeWithin (a n b m : Nat) : Bool := n == 0 || (b ≤ a && a + n ≤ b + m)
/-- A child lies within its parent (R382). -/
def ctxWithin (k p : CtxDesc) : Bool :=
  k.halfmap &&& p.halfmap == k.halfmap && k.hbmmap &&& p.hbmmap == k.hbmmap && k.ways &&& p.ways == k.ways &&
    rangeWithin k.winbase k.window p.winbase p.window && rangeWithin k.frbase k.frcount p.frbase p.frcount &&
    rangeWithin k.arena k.arenasz p.arena p.arenasz && k.weight ≤ p.weight && k.cew ≤ p.cew && k.tslice ≤ p.tslice
/-- The sums of the children's rates do not exceed the parent's (R382); a cap of 0 is none (R381). -/
def ratesOk (p : CtxDesc) (kids : List CtxDesc) : Bool :=
  let sum (f : CtxDesc → Nat) : Nat := kids.foldl (fun n k => n + f k) 0
  sum (fun k => k.lbudget) ≤ p.lbudget && (p.fabcap == 0 || sum (fun k => k.fabcap) ≤ p.fabcap) &&
    (p.hostcap == 0 || sum (fun k => k.hostcap) ≤ p.hostcap)
/-- The rules of R381 and R382 for all descriptors of a package together. -/
def ctxsOk (l : List CtxDesc) : Bool :=
  let tops := l.filter fun d => d.parent.isNone
  tops.length ≤ 16 && l.length ≤ 48 && (l.all ctxFieldsOk) &&
    (tops.all fun a => tops.all fun b => a.ctx == b.ctx || !ctxOverlaps a b) &&
    (tops.all fun p => let kids := l.filter fun k => k.parent == some p.ctx; kids.length ≤ 8 && kids.all (fun k => ctxWithin k p) && ratesOk p kids) &&
    l.all fun d => match d.parent with | none => true | some p => tops.any fun t => t.ctx == p
/-- The function may write a descriptor (R381): the PF a top-level one, a VF of the parent a child's. -/
def State.mayWrite (s : State) (fn : HostFn) (d : CtxDesc) : Bool :=
  match d.parent with
  | none => fn == .pf
  | some p => fn != .pf && s.fnCtx fn == some p && !s.fnFrozen fn
/-- Elements of one list that another lacks. -/
def lacking (a b : List Nat) : List Nat := a.filter fun x => !b.contains x
/-- The copies of a context go from the tiers in which a change takes capacity away: those of a removed way are scrubbed with it (R343, R385;
notes/assumptions/20.md). -/
def State.cutTiers (s : State) (old new : CtxDesc) : State :=
  let less (tier : Nat) : Bool :=
    if tier == 0 then old.ways &&& new.ways != old.ways || old.window < new.window
    else if tier == 1 then new.stage < old.stage else new.nstage < old.nstage
  { s with tiers := { s.tiers with copies := s.tiers.copies.filter fun c => !(c.ctx == old.ctx && less c.tier) } }
/-- Take from a context the half-cores, slices and window units that one descriptor has and another has not. -/
def State.takeFrom (s : State) (c : Nat) (old new : CtxDesc) : State :=
  let a := ctxResources old
  let b := ctxResources new
  s.removeResources c (lacking a.1 b.1) (lacking a.2.1 b.2.1) (lacking a.2.2 b.2.2)
/-- A descriptor without resources. -/
def CtxDesc.bare (d : CtxDesc) : CtxDesc := { d with halfmap := 0, hbmmap := 0, window := 0, ways := 0, stage := 0, nstage := 0 }
/-- What a child's descriptor gains comes from its parent (R382): it is taken from it as R385 lays down. -/
def State.takeFromParent (s : State) (old new : CtxDesc) : State :=
  match new.parent.bind s.ctxDesc with
  | none => s
  | some p =>
    let s := if new.ways &&& old.ways != new.ways then
        { s with tiers := { s.tiers with copies := s.tiers.copies.filter fun c => !(c.ctx == p.ctx && c.tier == 0) } }
      else s
    s.takeFrom p.ctx new old
/-- CREATE_CONTEXT: create or change a context. Creating one zeroes its energy account, its error-log pointers and its deficit;
resources that a change takes away, from the context or for a child from its parent, follow R385. -/
def execCreateContext (fn : HostFn) (block : BitVec 2048) (s : State) : Host.Outcome State Fault Refusal :=
  let desc := CtxDesc.ofBlock block
  let others := s.host.ctxs.filter fun d => d.ctx != desc.ctx
  if !s.barsLive then .next s
  else if !s.mayWrite fn desc || !ctxsOk (others ++ [desc]) || s.host.dissolving.contains desc.ctx ||
      (s.ctxDesc desc.ctx).any fun d => !s.mayWrite fn d then .next (s.cmdDone 1)
  else
    let put (s : State) : State := { s.settleOwned with host := { s.host with ctxs := others ++ [desc] } }
    match s.ctxDesc desc.ctx with
    | none =>
      let s := (put s).takeFromParent (CtxDesc.bare desc) desc
      .next (({ s with
        energy := { s.energy with live := cellPut 0 s.energy.live desc.ctx 0, total := cellPut 0 s.energy.total desc.ctx 0 },
        loop := { s.loop with deficit := cellPut 0 s.loop.deficit desc.ctx 0 },
        host := { s.host with errSeq := cellPut 0 s.host.errSeq desc.ctx 0,
                              errOver := s.host.errOver.filter fun c => c != desc.ctx } } : State).cmdDone 0)
    | some old =>
      .next ((((put (s.cutTiers old desc)).takeFrom desc.ctx old desc).takeFromParent old desc).cmdDone 0)
/-- COLLIDs of the slots whose words name a context as owner. -/
def State.collsOf (s : State) (c : Nat) : List Nat :=
  ((s.slotWords.filter fun x => natBits x.2.2 26 6 == c).map fun x => natBits x.2.2 32 32).eraseDups
/-- DISSOLVE_CONTEXT: the context's work ends, its resources are scrubbed, its keys are zeroised, and an ABORT is posted for each of
its collectives (R386); its packet counters start again (R308). A context that has children is not dissolved before them. -/
def execDissolveContext (fn : HostFn) (ctx : Nat) (s : State) : Host.Outcome State Fault Refusal :=
  if !s.barsLive then .next s
  else match s.ctxDesc ctx with
    | none => .next (s.cmdDone 1)
    | some d =>
      if !(fn == .pf || s.mayWrite fn d) || s.host.ctxs.any fun k => k.parent == some ctx then .next (s.cmdDone 1)
      else
        let s := s.settleOwned.endAndScrub ctx
        let s := (s.collsOf ctx).foldl (fun s coll => s.devicePost ctx (deviceRecord 8 [(8, 4, coll)])) s
        .next ((({ s with
          ports := s.ports.map fun p => { p with
            keys := tableDrop p.keys ctx, txCount := cellPut 0 p.txCount ctx 0, rxCount := cellPut 0 p.rxCount ctx 0 },
          host := { s.host with
            ctxs := s.host.ctxs.filter fun k => k.ctx != ctx, vfmap := s.host.vfmap.filter fun e => e.2 != ctx,
            dissolving := s.host.dissolving ++ [ctx] } } : State).dissolveDone).cmdDone 0)
/-- MAP_VF. -/
def execMapVf (fn : HostFn) (vf : Nat) (ctx : Option Nat) (s : State) : Host.Outcome State Fault Refusal :=
  if !s.barsLive then .next s
  else if fn != .pf || 2048 ≤ vf || (match ctx with | none => false | some c => (s.ctxDesc c).isNone) then .next (s.cmdDone 1)
  else
    let m := match ctx with
      | none => tableDrop s.host.vfmap vf
      | some c => tablePut s.host.vfmap vf c
    .next (({ s with host := { s.host with vfmap := m } } : State).cmdDone 0)
/-- INSTALL_PORT_KEY: the unwrapped key enters the context's slot of a port, and its packet counters start again, unless the slot already
holds that key, under which no counter may repeat; a key that does not unwrap is refused (R306, R307; notes/assumptions/18.md). -/
def execInstallPortKey (fn : HostFn) (ctx port : Nat) (key : Option (BitVec 256)) (s : State) : Host.Outcome State Fault Refusal :=
  if !s.barsLive then .next s
  else match key with
    | none => .next (s.cmdDone 1)
    | some k =>
      if fn != .pf || 48 ≤ ctx || Config.numPorts ≤ port then .next (s.cmdDone 1)
      else if (s.ports[port]?.bind fun x => tableFind x.keys ctx) == some k then .next (s.cmdDone 0)
      else
        .next ((s.onPort port fun x => { x with
          keys := tablePut x.keys ctx k, txCount := cellPut 0 x.txCount ctx 0, rxCount := cellPut 0 x.rxCount ctx 0 }).cmdDone 0)
/-- STAGE_FIRMWARE: the image waits for the next reset (R394, R395); the verdict on its signature is the environment's
(notes/assumptions/18.md). -/
def execStageFirmware (fn : HostFn) (image : DWord) (len : Nat) (sigOk : Bool) (version : Nat) (s : State) :
    Host.Outcome State Fault Refusal :=
  if !s.barsLive then .next s
  else if fn != .pf then .next (s.cmdDone 1)
  else .next (({ s with host := { s.host with staged := some (image, len, sigOk, version) } } : State).cmdDone 0)

/-! ### Errors, freezes, VF Enable (R387 to R391) -/

/-- Contexts with items queued or running on a core's engine (R282). -/
def State.engineCtxs (s : State) (core : Nat) : List Nat :=
  ((s.ops.filter fun o => match o.kind with | .engine e => e.engine == core || e.items.any fun i => i.engine == core && !i.done | _ => false).map
    fun o => o.ctx).eraseDups
/-- The blast set of an error in a structure (R387). Kind 1 numbers a half-core as 2n + h; for a way that no context holds, for routers and
links, and for the lines of an atomic cache it is the environment's (notes/assumptions/19.md). -/
def State.blastSet (s : State) (kind unit : Nat) (given : BitVec 48) : List Nat :=
  match kind with
  | 1 => s.halfOwners (unit / 2) (unit % 2)
  | 2 => (s.halfOwners unit 0 ++ s.halfOwners unit 1).eraseDups
  | 3 => s.engineCtxs unit
  | 4 =>
    let l := (s.host.ctxs.filter fun d => d.ways.getLsbD unit).map fun d => d.ctx
    if l.isEmpty then (List.range 48).filter fun c => given.getLsbD c else l
  | 5 => (((s.host.ctxs.filter fun d => d.hbmmap.getLsbD unit && s.host.ctxs.all fun k => k.parent != some d.ctx || !k.hbmmap.getLsbD unit).map
      fun d => d.ctx) ++ (s.host.changes.filter fun x => x.slices.contains unit).map fun x => x.ctx).eraseDups
  | 7 => s.ctxsHere
  | 8 => (((List.range 48).filter fun c => given.getLsbD c) ++ (s.claims.filter fun x => x.node == unit).map fun x => x.ctx).eraseDups
  | _ => (List.range 48).filter fun c => given.getLsbD c
/-- The error strikes an item (R295): in its copy engine, or in an HBM slice at a byte of its ranges. -/
def Item.struck (i : Item) (kind unit : Nat) (addr : DWord) : Bool :=
  (kind == 3 && i.engine == unit) || (kind == 5 && runsMeet [(flatKey spHBM addr.toNat, 1)] (i.src.known ++ i.dst.known))
/-- The item in movement that an error strikes, the first of several: its operation and number. -/
def State.struckItem (s : State) (kind unit : Nat) (addr : DWord) : Option (Op × EngOp × Nat × Item) :=
  s.ops.findSome? fun o => match o.kind with
    | .engine e => e.items.zipIdx.findSome? fun x =>
        if x.1.struck kind unit addr && (x.1.stage != .idle || s.itemDue o e x.2 x.1) && !x.1.done then some (o, e, x.2, x.1) else none
    | _ => none
/-- The item that an error strikes fails (R295), with a cause that the spec does not name (notes/assumptions/19.md). -/
def State.strike (s : State) (kind unit : Nat) (addr : DWord) : State :=
  match s.struckItem kind unit addr with
  | none => s
  | some (o, e, k, i) =>
    { (s.putItem o e k { i.failed (1 + (Config.errorCause s.nextOp).val) (BitVec.ofNat 64 (if i.sva != 0 then i.sva else i.dva)) with
        pend := i.pend }) with nextOp := s.nextOp + 1 }
/-- ERROR_DELIVERY: the blast set is told, and an item that met the error fails (R295, R387). -/
def execErrorDelivery (kind unit : Nat) (blast : BitVec 48) (addr : DWord) (s : State) : Host.Outcome State Fault Refusal :=
  let s := s.strike kind unit addr
  .next (s.deliverError (s.blastSet kind unit blast) (unitCode kind (if kind == 1 then unit / 2 else unit)) addr)
/-- MASTER_FREEZE: a VF, or a port and context pair, is frozen; KIND 3 records go to the context's log and the PF's, and a frozen VF
holds its context's teams. -/
def execMasterFreeze (vf : Option Nat) (ctx port : Nat) (s : State) : Host.Outcome State Fault Refusal :=
  match vf with
  | none => .next (s.freezePort port ctx)
  | some v =>
    if s.host.frozenVfs.contains v then .next s
    else
      let c := (s.ctxOfVf v).getD ctx
      let s := { s with host := { s.host with frozenVfs := s.host.frozenVfs ++ [v] } }
      .next ((s.logError c 3 0 0 0).logPf c 3 0 0 0).preemptHeld
/-- VF_DISABLE: every context reached only through the VF, or the context of a frozen one, is ended at once without a save (R389,
R390). The context stays defined. -/
def execVfDisable (vf : Nat) (s : State) : Host.Outcome State Fault Refusal :=
  match s.ctxOfVf vf with
  | none => .next { s with host := { s.host with frozenVfs := s.host.frozenVfs.filter fun v => v != vf } }
  | some c =>
    let only := (s.vfsOf c).all fun v => v == vf
    let s := if only || s.host.frozenVfs.contains vf then s.endAndScrub c else s
    .next { s with host := { s.host with frozenVfs := s.host.frozenVfs.filter fun v => v != vf } }
/-- ATS_INVALIDATE: it waits for the operations that use a HOST translation of the range (R391). -/
def execAtsInvalidate (addr : DWord) (len : Nat) (s : State) : Host.Outcome State Fault Refusal :=
  let run := [(flatKey spHOST addr.toNat, len)]
  let ids := (s.ops.filter fun o => runsMeet o.kind.translated run).map fun o => o.id
  let waiting := (s.host.ats.map fun l => l.filter fun i => (s.opAt i).isSome).filter fun l => !l.isEmpty
  .next { s with host := { s.host with ats := if ids.isEmpty then waiting else waiting ++ [ids] } }
/-- IDE_KM: the keys of the link IDE stream are set, over an SPDM session. -/
def execIdeKm (established : Bool) (s : State) : Host.Outcome State Fault Refusal :=
  if s.host.spdm.session then .next { s with host := { s.host with ideUp := established } } else .next s

/-! ### Reset and boot (R395) -/

/-- A cell of memory that a reset of the package leaves: pool, trays and host memory lie outside it. -/
def outsidePackage (e : Host.Cell) : Bool := keySpace e.1 == spPOOL || keySpace e.1 == spTRAY || keySpace e.1 == spHOST
/-- RESET: the package is as right after reset; what lies outside it goes on: nodes, trays, host memory, pod time. A staged image
waits for stage 1. -/
def execReset (s : State) : Host.Outcome State Fault Refusal :=
  .next { State.reset with
    nextOp := s.nextOp, nextTeam := s.nextTeam, nextScrub := s.nextScrub, nextGrow := s.nextGrow, stepNo := s.stepNo, turn := s.turn, ns := s.ns,
    ticks := s.ticks,
    loop := { State.reset.loop with windows := s.ns / 1000 }, tiers := { State.reset.tiers with decays := s.ns / 1000000 },
    energy := { State.reset.energy with
      kvtRound := s.ns / 100000, interval := s.ns / 1000000, begun := s.ns, ownedTo := s.ns },
    mem := s.mem.filter outsidePackage, nodes := s.nodes,
    host := { State.reset.host with staged := s.host.staged, version := s.host.version, installs := s.host.installs } }
/-- Stage 1 for a staged image: it runs from now on when its signature and version pass (R395). -/
def HostIf.takeStaged (h : HostIf) : HostIf :=
  match h.staged with
  | none => h
  | some (_, _, ok, v) =>
    if ok && Config.minVersion ≤ v then { h with staged := none, version := some v, installs := h.installs + 1 }
    else { h with staged := none }
/-- The sequence number of which bits [47:0] stand in a STATE word: the last one up to record `n` (R104). -/
def fullSeq (n w : Nat) : Nat := n - (n % 2 ^ 48 + 2 ^ 48 - w) % 2 ^ 48
/-- The pending launches of this package in its copy of ensign memory, which it admits as any other (R108, R330). -/
def State.takeLaunches (s : State) (n : Nat) : State :=
  let offs := (s.mem.filterMap fun e =>
    if ensKey 0x1000000 ≤ e.1 && e.1 < ensKey 0x10C0000 then some ((e.1 - ensKey 0) / 8 * 8) else none).eraseDups.filter isStateWord
  { s with launches := s.launches ++ offs.filterMap fun off =>
      let w := s.ens64 off
      let rel := off - 0x1000000
      let k := (rel % 256 - 0x20) / 8
      let r : LoopRecord := BitVec.ofNat 512 (Memory.read s.mem (ensKey (0x1100000 + (rel / 256 * 16 + k) * 64)) 64)
      if w % 256 == 1 && recField r 0x2A 1 == s.pkgNo then some (launchOf (fullSeq n (w / 2 ^ 16)) k r) else none }
/-- The effect of completing a boot stage (R395): 3 scrubs HBM, 4 enables the ports that have a node and fixes PKGINFO, 6 copies
ensign memory as of record n, or starts the loop. -/
def State.stageDone (s : State) (snapshot : Option Snapshot) : State :=
  match s.host.stage with
  | 1 => { s with host := s.host.takeStaged }
  | 3 => { s with mem := s.mem.filter fun e => keySpace e.1 != spHBM }
  | 4 => { s with
      ports := s.ports.mapIdx fun i p => { p with up := i < Config.numNodes },
      host := { s.host with pkg := Config.pkg.toNat, nodes := Config.numNodes, pkgs := Config.numPkgs } }
  | 6 =>
    let r := snapshot.getD { n := 0, pts := 0, bytes := [], claims := [] }
    let mem := s.mem.filter fun e => keySpace e.1 != spENS
    let mem := r.bytes.foldl (fun (m : Memory) e => if e.1 < Config.ensBytes then Memory.setByte m (ensKey e.1) e.2 else m) mem
    let s := { s with mem := mem, claims := r.claims, loop := { s.loop with joined := true, left := false, inbox := [], received := r.n, applied := r.n } }
    (if snapshot.isSome then s.raisePts r.pts else s).takeLaunches r.n
  | _ => s
/-- BOOT_STAGE_ADVANCE: the present stage ends and the next one begins; a result other than 0 stops the sequence at its stage with
that error code. From BOOTSTAT 0 the first stage begins. -/
def execBootStageAdvance (result : Nat) (snapshot : Option Snapshot) (s : State) :
    Host.Outcome State Fault Refusal :=
  if 7 ≤ s.host.stage || s.host.error != 0 then .next s
  else if result != 0 && s.host.stage != 0 then .next { s with host := { s.host with error := result % 16 } }
  else
    let s := s.stageDone snapshot
    .next { s with host := { s.host with stage := s.host.stage + 1 } }

/-! ### SPDM (R396) -/

/-- The DOE mailbox answers from stage 3 on (R395): config space and DOE are live once stage 2 is done. -/
def State.doeLive (s : State) : Bool := 3 ≤ s.host.stage
/-- Answer an SPDM request: an error when the negotiation has not come as far as `need`. -/
def State.spdmAnswer (s : State) (need : Nat) (r : SpdmReply) (f : Spdm → Spdm) : State :=
  if !s.doeLive then s
  else
    let x := s.host.spdm
    let x := if x.stage < need then { x with replies := x.replies ++ [.error] } else f { x with replies := x.replies ++ [r] }
    { s with host := { s.host with spdm := x } }
/-- GET_VERSION: SPDM 1.3; it starts the negotiation again. -/
def execGetVersion (s : State) : Host.Outcome State Fault Refusal :=
  .next (s.spdmAnswer 0 (.version 0x13) fun x => { x with stage := 1, session := false })
/-- GET_CAPABILITIES. -/
def execGetCapabilities (s : State) : Host.Outcome State Fault Refusal :=
  .next (s.spdmAnswer 1 .capabilities fun x => { x with stage := max x.stage 2 })
/-- NEGOTIATE_ALGORITHMS: ECDSA P-256 and SHA-256 only. -/
def execNegotiateAlgorithms (ecdsaP256 sha256 : Bool) (s : State) : Host.Outcome State Fault Refusal :=
  let ok := ecdsaP256 && sha256
  .next (s.spdmAnswer 2 (.algorithms ok) fun x => if ok then { x with stage := max x.stage 3 } else x)
/-- GET_DIGESTS. -/
def execGetDigests (s : State) : Host.Outcome State Fault Refusal := .next (s.spdmAnswer 3 (.digests Config.certDigest) id)
/-- The bytes of the certificate chain from an offset. -/
def certBytes (offset len : Nat) : List Byte := (List.range (min len (Config.certLen - offset))).map fun i => Config.certByte (offset + i)
/-- GET_CERTIFICATE. -/
def execGetCertificate (offset len : Nat) (s : State) : Host.Outcome State Fault Refusal :=
  .next (s.spdmAnswer 3 (.certificate (certBytes offset len)) id)
/-- CHALLENGE: signed with the identity key over the nonce. -/
def execChallenge (nonce : BitVec 256) (s : State) : Host.Outcome State Fault Refusal :=
  .next (s.spdmAnswer 3 (.challengeAuth (Config.sign nonce)) id)
/-- Measurement `i` (R396). -/
def State.measurement (s : State) (i : Nat) : BitVec 256 :=
  match i with
  | 1 => Config.digest 0
  | 2 => Config.digest (s.host.installs + 1)
  | 3 => BitVec.ofNat 256 (s.host.version.getD Config.flashVersion)
  | 4 => devId.setWidth 256
  | _ => BitVec.ofNat 256 (s.host.stage % 16 + 16 * (s.host.error % 16))
/-- GET_MEASUREMENTS: one measurement, or all of them for index 0xFF. -/
def execGetMeasurements (index : Nat) (nonce : BitVec 256) (s : State) : Host.Outcome State Fault Refusal :=
  let is := if index == 0xFF then [1, 2, 3, 4, 5] else if 1 ≤ index && index ≤ 5 then [index] else []
  .next (s.spdmAnswer 3 (if is.isEmpty then .error else .measurements (is.map fun i => (i, s.measurement i)) (Config.sign nonce)) id)
/-- KEY_EXCHANGE: the responder's ephemeral key of this exchange. -/
def execKeyExchange (_pub : BitVec 512) (s : State) : Host.Outcome State Fault Refusal :=
  .next (s.spdmAnswer 3 (.keyExchange (Config.spdmKey s.host.spdm.exchanges)) fun x => { x with stage := 4, exchanges := x.exchanges + 1 })
/-- FINISH: the session stands when the requester's HMAC verifies. -/
def execFinish (hmacOk : Bool) (s : State) : Host.Outcome State Fault Refusal :=
  .next (s.spdmAnswer 4 (if hmacOk then .finish else .error) fun x => { x with session := hmacOk, stage := if hmacOk then 5 else 3 })

end Sys2Proof.Machine
end

