-- ==== Sys2Proof/Machine/Dispatch.lean ====
section
/-! DEFINITION. One arm per row of the table: each calls that row's meaning. -/

namespace Sys2Proof.Machine
open Sys2Proof

/-- The effect of a row on the state. -/
def exec (i : Instr) (s : State) : Host.Outcome State Fault Refusal :=
  match i with
  | .issueSelect x1 => Sys2Proof.Machine.execIssueSelect x1 s
  | .spillWaitExpiry x1 x2 => Sys2Proof.Machine.execSpillWaitExpiry x1 x2 s
  | .fragmentRefill x1 => Sys2Proof.Machine.execFragmentRefill x1 s
  | .barrierWaitEnd x1 x2 => Sys2Proof.Machine.execBarrierWaitEnd x1 x2 s
  | .teamLeave x1 => Sys2Proof.Machine.execTeamLeave x1 s
  | .scrubComplete x1 => Sys2Proof.Machine.execScrubComplete x1 s
  | .arbiterGrant x1 => Sys2Proof.Machine.execArbiterGrant x1 s
  | .clockThrottle x1 => Sys2Proof.Machine.execClockThrottle x1 s
  | .launchAdmit => Sys2Proof.Machine.execLaunchAdmit s
  | .launchRefuse x1 => Sys2Proof.Machine.execLaunchRefuse x1 s
  | .launchComplete x1 => Sys2Proof.Machine.execLaunchComplete x1 s
  | .reggrowGrant x1 x2 => Sys2Proof.Machine.execReggrowGrant x1 x2 s
  | .reggrowDeny x1 x2 => Sys2Proof.Machine.execReggrowDeny x1 x2 s
  | .accessIssue x1 => Sys2Proof.Machine.execAccessIssue x1 s
  | .matrixStep x1 => Sys2Proof.Machine.execMatrixStep x1 s
  | .matrixOpComplete x1 => Sys2Proof.Machine.execMatrixOpComplete x1 s
  | .matrixOpEarlyEnd x1 x2 => Sys2Proof.Machine.execMatrixOpEarlyEnd x1 x2 s
  | .tileDatapathExecute x1 x2 => Sys2Proof.Machine.execTileDatapathExecute x1 x2 s
  | .streamRecordArrive x1 => Sys2Proof.Machine.execStreamRecordArrive x1 s
  | .streamWritePerform x1 => Sys2Proof.Machine.execStreamWritePerform x1 s
  | .preempt x1 => Sys2Proof.Machine.execPreempt x1 s
  | .teamSave x1 => Sys2Proof.Machine.execTeamSave x1 s
  | .teamRestore x1 => Sys2Proof.Machine.execTeamRestore x1 s
  | .watchdog x1 x2 x3 => Sys2Proof.Machine.execWatchdog x1 x2 x3 s
  | .detRoundCommit x1 => Sys2Proof.Machine.execDetRoundCommit x1 s
  | .impreciseFaultDelivery x1 => Sys2Proof.Machine.execImpreciseFaultDelivery x1 s
  | .loadComplete x1 => Sys2Proof.Machine.execLoadComplete x1 s
  | .storePerform x1 => Sys2Proof.Machine.execStorePerform x1 s
  | .atomApply x1 => Sys2Proof.Machine.execAtomApply x1 s
  | .updateOnlyFlush x1 x2 => Sys2Proof.Machine.execUpdateOnlyFlush x1 x2 s
  | .cwaitPoll x1 x2 x3 => Sys2Proof.Machine.execCwaitPoll x1 x2 x3 s
  | .flushMarkerAck x1 => Sys2Proof.Machine.execFlushMarkerAck x1 s
  | .pteAckPost x1 => Sys2Proof.Machine.execPteAckPost x1 s
  | .copyItemComplete x1 x2 => Sys2Proof.Machine.execCopyItemComplete x1 x2 s
  | .copyFinalWord x1 => Sys2Proof.Machine.execCopyFinalWord x1 s
  | .workSteal x1 => Sys2Proof.Machine.execWorkSteal x1 s
  | .cpmcLanding x1 x2 => Sys2Proof.Machine.execCpmcLanding x1 x2 s
  | .leaseTick => Sys2Proof.Machine.execLeaseTick s
  | .nodeRead x1 x2 => Sys2Proof.Machine.execNodeRead x1 x2 s
  | .nodeWrite x1 x2 => Sys2Proof.Machine.execNodeWrite x1 x2 s
  | .nodeAtomic x1 x2 => Sys2Proof.Machine.execNodeAtomic x1 x2 s
  | .heldWriteRelease x1 => Sys2Proof.Machine.execHeldWriteRelease x1 s
  | .atomicCacheWriteback x1 x2 => Sys2Proof.Machine.execAtomicCacheWriteback x1 x2 s
  | .replyReceive x1 x2 => Sys2Proof.Machine.execReplyReceive x1 x2 s
  | .remotePacketApply x1 => Sys2Proof.Machine.execRemotePacketApply x1 s
  | .packetIntegrityFailure x1 x2 => Sys2Proof.Machine.execPacketIntegrityFailure x1 x2 s
  | .linkFailure x1 => Sys2Proof.Machine.execLinkFailure x1 s
  | .reductionContribution x1 x2 => Sys2Proof.Machine.execReductionContribution x1 x2 s
  | .reductionRead x1 x2 => Sys2Proof.Machine.execReductionRead x1 x2 s
  | .timestampQuery x1 x2 => Sys2Proof.Machine.execTimestampQuery x1 x2 s
  | .slotConfigApply x1 x2 => Sys2Proof.Machine.execSlotConfigApply x1 x2 s
  | .pennantArrive => Sys2Proof.Machine.execPennantArrive s
  | .storeRec x1 => Sys2Proof.Machine.execStoreRec x1 s
  | .claimRec x1 => Sys2Proof.Machine.execClaimRec x1 s
  | .addRec x1 => Sys2Proof.Machine.execAddRec x1 s
  | .launchRec x1 => Sys2Proof.Machine.execLaunchRec x1 s
  | .pteRec x1 => Sys2Proof.Machine.execPteRec x1 s
  | .slotRec x1 => Sys2Proof.Machine.execSlotRec x1 s
  | .freeRec x1 => Sys2Proof.Machine.execFreeRec x1 s
  | .abortRec x1 => Sys2Proof.Machine.execAbortRec x1 s
  | .recordRefetch x1 => Sys2Proof.Machine.execRecordRefetch x1 s
  | .loopLeave => Sys2Proof.Machine.execLoopLeave s
  | .loopBudgetWindow => Sys2Proof.Machine.execLoopBudgetWindow s
  | .tierCarryOut x1 x2 x3 => Sys2Proof.Machine.execTierCarryOut x1 x2 x3 s
  | .tierLeaseRenew x1 => Sys2Proof.Machine.execTierLeaseRenew x1 s
  | .sampleDecay => Sys2Proof.Machine.execSampleDecay s
  | .hotGranuleCopy x1 x2 => Sys2Proof.Machine.execHotGranuleCopy x1 x2 s
  | .kvtRecompute => Sys2Proof.Machine.execKvtRecompute s
  | .reconcile x1 => Sys2Proof.Machine.execReconcile x1 s
  | .quotaExhausted x1 => Sys2Proof.Machine.execQuotaExhausted x1 s
  | .quotaWrite x1 x2 => Sys2Proof.Machine.execQuotaWrite x1 x2 s
  | .leaseWrite x1 x2 => Sys2Proof.Machine.execLeaseWrite x1 x2 s
  | .dbstatClear x1 => Sys2Proof.Machine.execDbstatClear x1 s
  | .registerWrite x1 x2 x3 => Sys2Proof.Machine.execRegisterWrite x1 x2 x3 s
  | .recordDoorbell x1 x2 => Sys2Proof.Machine.execRecordDoorbell x1 x2 s
  | .createContext x1 x2 => Sys2Proof.Machine.execCreateContext x1 x2 s
  | .dissolveContext x1 x2 => Sys2Proof.Machine.execDissolveContext x1 x2 s
  | .mapVf x1 x2 x3 => Sys2Proof.Machine.execMapVf x1 x2 x3 s
  | .installPortKey x1 x2 x3 x4 => Sys2Proof.Machine.execInstallPortKey x1 x2 x3 x4 s
  | .stageFirmware x1 x2 x3 x4 x5 => Sys2Proof.Machine.execStageFirmware x1 x2 x3 x4 x5 s
  | .errorDelivery x1 x2 x3 x4 => Sys2Proof.Machine.execErrorDelivery x1 x2 x3 x4 s
  | .masterFreeze x1 x2 x3 => Sys2Proof.Machine.execMasterFreeze x1 x2 x3 s
  | .vfDisable x1 => Sys2Proof.Machine.execVfDisable x1 s
  | .atsInvalidate x1 x2 => Sys2Proof.Machine.execAtsInvalidate x1 x2 s
  | .reset => Sys2Proof.Machine.execReset s
  | .bootStageAdvance x1 x2 => Sys2Proof.Machine.execBootStageAdvance x1 x2 s
  | .getVersion => Sys2Proof.Machine.execGetVersion s
  | .getCapabilities => Sys2Proof.Machine.execGetCapabilities s
  | .negotiateAlgorithms x1 x2 => Sys2Proof.Machine.execNegotiateAlgorithms x1 x2 s
  | .getDigests => Sys2Proof.Machine.execGetDigests s
  | .getCertificate x1 x2 => Sys2Proof.Machine.execGetCertificate x1 x2 s
  | .challenge x1 => Sys2Proof.Machine.execChallenge x1 s
  | .getMeasurements x1 x2 => Sys2Proof.Machine.execGetMeasurements x1 x2 s
  | .keyExchange x1 => Sys2Proof.Machine.execKeyExchange x1 s
  | .finish x1 => Sys2Proof.Machine.execFinish x1 s
  | .nop => Sys2Proof.Machine.execNop s
  | .bra x1 => Sys2Proof.Machine.execBra x1 s
  | .brc x1 x2 x3 x4 => Sys2Proof.Machine.execBrc x1 x2 x3 x4 s
  | .brx x1 x2 => Sys2Proof.Machine.execBrx x1 x2 s
  | .call x1 x2 => Sys2Proof.Machine.execCall x1 x2 s
  | .ret x1 => Sys2Proof.Machine.execRet x1 s
  | .join x1 => Sys2Proof.Machine.execJoin x1 s
  | .exit x1 => Sys2Proof.Machine.execExit x1 s
  | .role x1 => Sys2Proof.Machine.execRole x1 s
  | .yield x1 => Sys2Proof.Machine.execYield x1 s
  | .yieldcR x1 x2 => Sys2Proof.Machine.execYieldcR x1 x2 s
  | .yieldcF x1 x2 => Sys2Proof.Machine.execYieldcF x1 x2 s
  | .trap x1 => Sys2Proof.Machine.execTrap x1 s
  | .bara x1 x2 x3 => Sys2Proof.Machine.execBara x1 x2 x3 s
  | .barw x1 x2 => Sys2Proof.Machine.execBarw x1 x2 s
  | .bars x1 x2 x3 => Sys2Proof.Machine.execBars x1 x2 x3 s
  | .emset x1 => Sys2Proof.Machine.execEmset x1 s
  | .emget x1 x2 => Sys2Proof.Machine.execEmget x1 x2 s
  | .emand x1 => Sys2Proof.Machine.execEmand x1 s
  | .rgn => Sys2Proof.Machine.execRgn s
  | .mark x1 x2 => Sys2Proof.Machine.execMark x1 x2 s
  | .markS x1 x2 => Sys2Proof.Machine.execMarkS x1 x2 s
  | .cwait x1 => Sys2Proof.Machine.execCwait x1 s
  | .eretT x1 => Sys2Proof.Machine.execEretT x1 s
  | .eretSave => Sys2Proof.Machine.execEretSave s
  | .eretRst => Sys2Proof.Machine.execEretRst s
  | .mov x1 => Sys2Proof.Machine.execMov x1 s
  | .movi x1 => Sys2Proof.Machine.execMovi x1 s
  | .movs x1 => Sys2Proof.Machine.execMovs x1 s
  | .gmovsRdf x1 => Sys2Proof.Machine.execGmovsRdf x1 s
  | .gmovsWrf x1 => Sys2Proof.Machine.execGmovsWrf x1 s
  | .gmovsClf x1 => Sys2Proof.Machine.execGmovsClf x1 s
  | .movl x1 => Sys2Proof.Machine.execMovl x1 s
  | .aff x1 => Sys2Proof.Machine.execAff x1 s
  | .shape x1 => Sys2Proof.Machine.execShape x1 s
  | .ldx x1 => Sys2Proof.Machine.execLdx x1 s
  | .stx x1 => Sys2Proof.Machine.execStx x1 s
  | .perm x1 => Sys2Proof.Machine.execPerm x1 s
  | .perm2 x1 => Sys2Proof.Machine.execPerm2 x1 s
  | .lbcast x1 => Sys2Proof.Machine.execLbcast x1 s
  | .redl x1 => Sys2Proof.Machine.execRedl x1 s
  | .scanl x1 => Sys2Proof.Machine.execScanl x1 s
  | .ballot x1 => Sys2Proof.Machine.execBallot x1 s
  | .mpop x1 => Sys2Proof.Machine.execMpop x1 s
  | .reggrow x1 x2 => Sys2Proof.Machine.execReggrow x1 x2 s
  | .reggrowNb x1 x2 => Sys2Proof.Machine.execReggrowNb x1 x2 s
  | .regshrink x1 x2 => Sys2Proof.Machine.execRegshrink x1 x2 s
  | .regqry x1 => Sys2Proof.Machine.execRegqry x1 s
  | .iadd x1 => Sys2Proof.Machine.execIadd x1 s
  | .isub x1 => Sys2Proof.Machine.execIsub x1 s
  | .imul x1 => Sys2Proof.Machine.execImul x1 s
  | .imulh x1 => Sys2Proof.Machine.execImulh x1 s
  | .imad x1 => Sys2Proof.Machine.execImad x1 s
  | .imin x1 => Sys2Proof.Machine.execImin x1 s
  | .imax x1 => Sys2Proof.Machine.execImax x1 s
  | .iabs x1 => Sys2Proof.Machine.execIabs x1 s
  | .iand x1 => Sys2Proof.Machine.execIand x1 s
  | .ior x1 => Sys2Proof.Machine.execIor x1 s
  | .ixor x1 => Sys2Proof.Machine.execIxor x1 s
  | .inot x1 => Sys2Proof.Machine.execInot x1 s
  | .shl x1 => Sys2Proof.Machine.execShl x1 s
  | .shr x1 => Sys2Proof.Machine.execShr x1 s
  | .sha x1 => Sys2Proof.Machine.execSha x1 s
  | .rot x1 => Sys2Proof.Machine.execRot x1 s
  | .bfx x1 => Sys2Proof.Machine.execBfx x1 s
  | .bfi x1 => Sys2Proof.Machine.execBfi x1 s
  | .popc x1 => Sys2Proof.Machine.execPopc x1 s
  | .clz x1 => Sys2Proof.Machine.execClz x1 s
  | .brev x1 => Sys2Proof.Machine.execBrev x1 s
  | .icmp x1 => Sys2Proof.Machine.execIcmp x1 s
  | .sel x1 => Sys2Proof.Machine.execSel x1 s
  | .lea x1 => Sys2Proof.Machine.execLea x1 s
  | .fadd x1 => Sys2Proof.Machine.execFadd x1 s
  | .fsub x1 => Sys2Proof.Machine.execFsub x1 s
  | .fmul x1 => Sys2Proof.Machine.execFmul x1 s
  | .ffma x1 => Sys2Proof.Machine.execFfma x1 s
  | .fmin x1 => Sys2Proof.Machine.execFmin x1 s
  | .fmax x1 => Sys2Proof.Machine.execFmax x1 s
  | .fcmp x1 => Sys2Proof.Machine.execFcmp x1 s
  | .fclass x1 => Sys2Proof.Machine.execFclass x1 s
  | .frnd x1 => Sys2Proof.Machine.execFrnd x1 s
  | .fscl x1 => Sys2Proof.Machine.execFscl x1 s
  | .frcp x1 => Sys2Proof.Machine.execFrcp x1 s
  | .frsq x1 => Sys2Proof.Machine.execFrsq x1 s
  | .fsqrt x1 => Sys2Proof.Machine.execFsqrt x1 s
  | .fexp2 x1 => Sys2Proof.Machine.execFexp2 x1 s
  | .flog2 x1 => Sys2Proof.Machine.execFlog2 x1 s
  | .ftanh x1 => Sys2Proof.Machine.execFtanh x1 s
  | .cvt x1 => Sys2Proof.Machine.execCvt x1 s
  | .packn x1 => Sys2Proof.Machine.execPackn x1 s
  | .unpkn x1 => Sys2Proof.Machine.execUnpkn x1 s
  | .dotq x1 => Sys2Proof.Machine.execDotq x1 s
  | .dotx x1 => Sys2Proof.Machine.execDotx x1 s
  | .dotb x1 => Sys2Proof.Machine.execDotb x1 s
  | .doth x1 => Sys2Proof.Machine.execDoth x1 s
  | .aclr x1 x2 x3 => Sys2Proof.Machine.execAclr x1 x2 x3 s
  | .ashift x1 x2 x3 => Sys2Proof.Machine.execAshift x1 x2 x3 s
  | .mma x1 => Sys2Proof.Machine.execMma x1 s
  | .mmloop x1 x2 x3 => Sys2Proof.Machine.execMmloop x1 x2 x3 s
  | .arow x1 => Sys2Proof.Machine.execArow x1 s
  | .aadd x1 x2 x3 => Sys2Proof.Machine.execAadd x1 x2 x3 s
  | .amov x1 x2 x3 => Sys2Proof.Machine.execAmov x1 x2 x3 s
  | .scacc x1 => Sys2Proof.Machine.execScacc x1 s
  | .arslv x1 => Sys2Proof.Machine.execArslv x1 s
  | .arslvi x1 x2 => Sys2Proof.Machine.execArslvi x1 x2 s
  | .acmp x1 => Sys2Proof.Machine.execAcmp x1 s
  | .astat x1 => Sys2Proof.Machine.execAstat x1 s
  | .asave x1 => Sys2Proof.Machine.execAsave x1 s
  | .aload x1 => Sys2Proof.Machine.execAload x1 s
  | .qdef x1 x2 x3 x4 => Sys2Proof.Machine.execQdef x1 x2 x3 x4 s
  | .qpop x1 x2 x3 => Sys2Proof.Machine.execQpop x1 x2 x3 s
  | .qpush x1 x2 x3 => Sys2Proof.Machine.execQpush x1 x2 x3 s
  | .qstat x1 x2 => Sys2Proof.Machine.execQstat x1 x2 s
  | .qdrainDisc x1 => Sys2Proof.Machine.execQdrainDisc x1 s
  | .qdrainFlush x1 => Sys2Proof.Machine.execQdrainFlush x1 s
  | .qld x1 => Sys2Proof.Machine.execQld x1 s
  | .qst x1 => Sys2Proof.Machine.execQst x1 s
  | .ld x1 => Sys2Proof.Machine.execLd x1 s
  | .st x1 => Sys2Proof.Machine.execSt x1 s
  | .atom x1 => Sys2Proof.Machine.execAtom x1 s
  | .fence x1 x2 x3 => Sys2Proof.Machine.execFence x1 x2 x3 s
  | .pref x1 => Sys2Proof.Machine.execPref x1 s
  | .cpl x1 => Sys2Proof.Machine.execCpl x1 s
  | .cpbox x1 => Sys2Proof.Machine.execCpbox x1 s
  | .cpmc x1 => Sys2Proof.Machine.execCpmc x1 s
  | .cpst x1 => Sys2Proof.Machine.execCpst x1 s
  | .rlkq x1 x2 x3 => Sys2Proof.Machine.execRlkq x1 x2 x3 s
  | .put x1 => Sys2Proof.Machine.execPut x1 s
  | .putsig x1 x2 x3 => Sys2Proof.Machine.execPutsig x1 x2 x3 s
  | .get x1 => Sys2Proof.Machine.execGet x1 s
  | .redm x1 => Sys2Proof.Machine.execRedm x1 s
  | .redr x1 => Sys2Proof.Machine.execRedr x1 s
  | .tsrdH x1 x2 x3 x4 => Sys2Proof.Machine.execTsrdH x1 x2 x3 x4 s
  | .tsrdP x1 x2 x3 => Sys2Proof.Machine.execTsrdP x1 x2 x3 s
  | .bcast x1 => Sys2Proof.Machine.execBcast x1 s
  | .seqrd x1 => Sys2Proof.Machine.execSeqrd x1 s
  | .seqfence x1 => Sys2Proof.Machine.execSeqfence x1 s
  | .coll x1 => Sys2Proof.Machine.execColl x1 s
  | .rsort x1 => Sys2Proof.Machine.execRsort x1 s
  | .clkrd x1 x2 => Sys2Proof.Machine.execClkrd x1 x2 s
  | .idrd x1 x2 => Sys2Proof.Machine.execIdrd x1 x2 s
  | .enrd x1 x2 x3 => Sys2Proof.Machine.execEnrd x1 x2 x3 s
  | .ttq x1 x2 x3 => Sys2Proof.Machine.execTtq x1 x2 x3 s
  | .crd x1 x2 => Sys2Proof.Machine.execCrd x1 x2 s
  | .cwr x1 x2 => Sys2Proof.Machine.execCwr x1 x2 s
  | .ideKm x1 => Sys2Proof.Machine.execIdeKm x1 s
  | .remoteRead x1 => Sys2Proof.Machine.execRemoteRead x1 s
  | .ownerChangeScrubComplete x1 => Sys2Proof.Machine.execOwnerChangeScrubComplete x1 s
  | .retransmissionRequest x1 x2 => Sys2Proof.Machine.execRetransmissionRequest x1 x2 s

end Sys2Proof.Machine
end

