-- ==== Sys2Proof/Machine/Schedule.lean ====
section
/-! DEFINITION. What happens in a step that no agenda names (notes/assumptions/2.md, 7.md): the passing of time, and the event the
machine performs by itself. -/

namespace Sys2Proof.Machine
open Sys2Proof

/-! ### Time -/

/-- How many multiples of `p` lie in (a, b]. -/
def crossed (p a b : Nat) : Nat := b / p - a / p
/-- The events of fixed period that fall due as pod time goes from a to b: lease ticks (R309), budget windows (R334), KVT (R373),
sample decay (R350). -/
def periodic (a b : Nat) : List Instr :=
  List.replicate (crossed 1024 a b) .leaseTick ++ List.replicate (crossed 1000 a b) .loopBudgetWindow ++
    List.replicate (crossed 100000 a b) .kvtRecompute ++ List.replicate (crossed 1000000 a b) .sampleDecay
/-- A fragment or access thread is not ready: it waits, or its next instruction cannot issue or has issued and waits (R31, R93). Inside
a deterministic round a stopped fragment counts as ready. -/
def State.stands (s : State) (w : Who) : Bool :=
  w.frag.wait != .round && (w.frag.blocked || !s.waitOver w || !s.slotFree w)
/-- The watchdog count of a fragment that is not ready rises by `n` (R225). -/
def State.waitCount (s : State) (t : Team) (n : Nat) (f : Fragment) : Fragment :=
  { f with wdog := f.wdog + (if n == 0 then 0 else if s.stands (t.whoOf f none) then n else 0) }
/-- The watchdog count of an access thread that is not ready rises by `n` (R195, R225). -/
def State.waitThread (s : State) (t : Team) (n : Nat) (x : Thread) : Thread :=
  { x with frag := { x.frag with
      wdog := x.frag.wdog + (if n == 0 then 0 else if x.running && s.stands (t.whoOf x.frag (some x)) then n else 0) } }
/-- Watchdog counts of fragments that are not ready rise by 1 in each 16 cc (R225). -/
def State.tickWatchdogs (s : State) (n : Nat) : State :=
  { s with teams := s.teams.map fun t =>
      if t.resident && t.phase != .reserved then { t with frags := t.frags.map (s.waitCount t n), threads := t.threads.map (s.waitThread t n) } else t }
/-- Contexts with an admitted team or an outstanding engine operation (R375). -/
def State.busyCtxs (s : State) : List Nat :=
  (s.teams.map fun t => t.ctx) ++
    s.ops.filterMap fun o => match o.kind with | .engine _ => some o.ctx | _ => none
/-- Time passes with every step (R5, R231): the counts, the watchdogs, the active contexts of the interval, and the periodic events
that fall due. -/
def State.tick (s : State) : State :=
  let cc := s.cc + Config.ccStep s.stepNo
  let ns := s.ns + Config.nsStep s.stepNo
  let t := s.tickWatchdogs (crossed 16 s.cc cc)
  { t with stepNo := s.stepNo + 1, cc := cc, ns := ns, agenda := periodic s.ns ns ++ s.agenda,
           energy := { s.energy with active := (s.energy.active ++ s.busyCtxs).eraseDups } }

/-! ### The events that may be due -/

/-- The events of an outstanding operation. -/
def opEvents (o : Op) : List Instr :=
  match o.kind with
  | .load .. => [.loadComplete o.id]
  | .store .. => [.storePerform o.id]
  | .atom .. => [.atomApply o.id]
  | .fence => []
  | .matrix m => [if m.ended then .matrixOpComplete o.id else .matrixStep o.id]
  | .tile _ h => [.tileDatapathExecute o.core h]
  | .stream st => [if st.store then .streamWritePerform o.id else .streamRecordArrive o.id]
  | .engine e =>
    let due := e.items.zipIdx.filter fun x => !x.1.done
    (match e.kind with
     | .cpmc _ _ _ pieces => due.map fun x => if x.2 < pieces then .copyItemComplete o.id x.2 else .cpmcLanding o.id x.1.lane
     | _ => due.map fun x => .copyItemComplete o.id x.2) ++ [.copyFinalWord o.id]
  | .flush .. => []
  | .bcast .. => []
  | .tsrd .. => []
  | .station _ => []
/-- The event in which a node takes a packet. -/
def nodeEvent (n : Nat) (p : Packet) : List Instr :=
  match p.load with
  | .read _ => [.nodeRead n none]
  | .write _ => [.nodeWrite n none]
  | .atomic _ => [.nodeAtomic n none]
  | .contrib .. => [.reductionContribution n none]
  | .redRead .. => [.reductionRead n none]
  | .tsQuery => [.timestampQuery n none]
  | .config .. => [.slotConfigApply n none]
  | _ => []
/-- The events of a port and of the node behind it. -/
def State.portEvents (s : State) (i : Nat) (p : Port) : List Instr :=
  List.flatten [
    match p.fromNode with | [] => [] | _ :: _ => [.replyReceive i none],
    match p.toNode with | [] => [] | x :: _ => nodeEvent i x,
    p.dropped.map fun d => .retransmissionRequest i d.1,
    if s.ops.any fun o => o.markers.contains i then [.flushMarkerAck i] else []]
/-- The events of a node. -/
def State.nodeEvents (s : State) (n : Nat) (x : Node) : List Instr :=
  List.flatten [
    if x.heldWrites.isEmpty then [] else [.heldWriteRelease n],
    match x.dueRead with | none => [] | some _ => [.reductionRead n none],
    x.cache.filterMap fun e => if e.2 ≤ s.tickNo then some (.atomicCacheWriteback n e.1) else none]
/-- The event in which the oldest record received is applied. -/
def recordEvent (r : LoopRecord) : List Instr :=
  match recType r with
  | 1 => [.storeRec none]
  | 2 => [.claimRec none]
  | 3 => [.addRec none]
  | 4 => [.launchRec none]
  | 5 => [.pteRec none]
  | 6 => [.slotRec none]
  | 7 => [.freeRec none]
  | 8 => [.abortRec none]
  | _ => []
/-- The events of the loop tap. -/
def State.loopEvents (s : State) : List Instr :=
  List.flatten [
    if s.loop.joined then [.pennantArrive] else [],
    match s.loop.inbox with | [] => [] | r :: _ => recordEvent r.1,
    if s.loop.refetch then [.recordRefetch true] else [],
    s.loop.acks.map fun a => .pteAckPost a.id]
/-- The events of one fragment. -/
def fragEvents (t : Team) (f : Fragment) : List Instr :=
  List.flatten [
    match f.wait with
    | .barrier .. => [.barrierWaitEnd t.id f.id]
    | .cwait _ _ false => [.cwaitPoll t.id f.id false]
    | .grow .. => [.reggrowGrant t.core t.ctx, .reggrowDeny t.core t.ctx]
    | _ => [],
    if f.limit < f.wdog then [.watchdog t.id f.id false] else [],
    if f.entry.isNone then [.spillWaitExpiry t.id f.id] else []]
/-- The timetable entries of a team on which the tier engine works (R346). -/
def State.tierEvents (s : State) (t : Team) : List Instr :=
  if t.phase == .reserved then []
  else (s.ttEntries t).filterMap fun e => if e.2.due (s.ttHead t).2 t then some (.tierCarryOut t.id e.1 (e.2.len / 32)) else none
/-- The events of one access thread. -/
def threadEvents (t : Team) (x : Thread) : List Instr :=
  List.flatten [
    match x.frag.wait with | .cwait _ _ false => [.cwaitPoll t.id x.group true] | _ => [],
    if x.running && x.frag.limit < x.frag.wdog then [.watchdog t.id x.group true] else []]
/-- The events of one team. -/
def State.teamEvents (s : State) (t : Team) : List Instr :=
  List.flatten [
    t.frags.flatMap fun f => fragEvents t f,
    t.threads.flatMap fun x => threadEvents t x,
    if t.frags.any fun f => f.entry.isNone then [.fragmentRefill t.id] else [],
    if t.frags.isEmpty then [.teamLeave t.id] else [],
    if t.held.isEmpty then [] else [.impreciseFaultDelivery t.id],
    if s.preemptDue t then [.preempt t.id] else [],
    match t.phase with
    | .stopping => [.teamSave t.id]
    | .saving => [.teamSave t.id]
    | .saved => [.teamRestore t.id]
    | _ => [],
    s.tierEvents t]
/-- The events of a core. -/
def coreEvents (core : Nat) : List Instr := [.issueSelect core, .accessIssue core]
/-- The events of one launch. -/
def launchEvents (l : Launch) : List Instr :=
  [.launchRefuse l.seq, .launchComplete l.seq] ++
    (if (l.kernel.map fun k => k.determ).getD false then [.detRoundCommit l.seq] else [])
/-- The engines of this package that could take work from another (R283). -/
def State.stealEvents (s : State) : List Instr :=
  if s.ops.any fun o => match o.kind with | .engine e => e.items.any fun i => !i.done && !i.taken | _ => false then
    [.workSteal (s.turn % Config.numCores)]
  else []
/-- The events of the node and loop side. -/
def State.outerEvents (s : State) : List Instr :=
  List.flatten [
    s.ports.zipIdx.flatMap fun x => s.portEvents x.2 x.1,
    s.nodes.flatMap fun x => s.nodeEvents x.1 x.2,
    s.arbiters.filterMap fun x => if x.2.waiting.isEmpty then none else some (.arbiterGrant x.1),
    s.loopEvents]
/-- The events of admission, scrubs, tiers and quotas. -/
def State.deviceEvents (s : State) : List Instr :=
  List.flatten [
    if s.launches.isEmpty then [] else .launchAdmit :: s.launches.flatMap launchEvents,
    s.scrubs.map fun x => .scrubComplete x.id,
    s.host.changes.map fun x => .ownerChangeScrubComplete x.id,
    s.tiers.copies.zipIdx.filterMap fun x => if s.copyKept x.1 then some (.tierLeaseRenew x.2) else none,
    s.tiers.counters.filterMap fun c => if 8 ≤ c.count then some (.hotGranuleCopy c.ctx c.granule) else none,
    s.quotaVfs.filterMap fun v => if s.vfOver v && !s.energy.qx.contains v then some (.quotaExhausted v) else none]
/-- Every event that the machine may perform by itself now. Each checks its own condition, so one that is not due does nothing. -/
def State.dueEvents (s : State) : List Instr :=
  List.flatten [
    (s.teams.map fun t => t.core).eraseDups.flatMap coreEvents,
    s.teams.flatMap fun t => s.teamEvents t,
    s.ops.flatMap opEvents,
    s.stealEvents,
    s.updateLines.map fun l => .updateOnlyFlush l.1 l.2,
    s.outerEvents,
    s.deviceEvents]
/-- The event performed when the agenda is empty: the events that may be due take turns (notes/assumptions/2.md). With nothing due the selector of core 0 looks for a candidate. -/
def State.nextEvent (s : State) : Instr :=
  let l := s.dueEvents
  l.getD (s.turn % l.length) (.issueSelect 0)

end Sys2Proof.Machine
end

