-- ==== Sys2Proof/WellFormed.lean ====
section
/-! DEFINITION. Which terms of `Instr` are instructions and events: the register files of R39, the values of R41 to R44 and of
each chapter's table (checks 3 and 4 of R46), and the ranges of the numbers that events carry. Operand limits (check 5) are
no part of it: an instruction that breaks one issues and traps. -/

namespace Sys2Proof

/-- A format B target names slot 0 to 4 (R37). -/
def Target.wf (t : Target) : Bool := t.ts.toNat ≤ 4
/-- A v field of a vector form, or an s field of a G form (R39). -/
def gReg (g : Bool) (r : BitVec 11) : Bool := inV g r
/-- MK is 0 in a G form (R141, R270). -/
def gMask (g : Bool) (m : MaskField) : Bool := !g || m == 0
/-- A type of chapter 7: any but .B128 (R146). -/
def elemTy (t : IntTy) : Bool := t != .b128
/-- A type of one of the tables but .B128 (R162). -/
def numTy : NumTy → Bool
  | .int t => elemTy t
  | .flt _ => true
/-- TY 0x0 to 0x3. -/
def wide (t : IntTy) : Bool := t == .i32 || t == .n32 || t == .i64 || t == .n64
/-- A mode of R42 other than .RS. -/
def Round.plain : Round → Bool
  | .rs _ => false
  | _ => true
/-- A width of R269. -/
def memTy : MemTy → Bool
  | .ty t => t != .i4 && t != .n4
  | .b24 => true

/-- Two-source integer forms; `sat` where the row allows SAT. -/
def Int2.wf (m : Int2) (sat : Bool) : Bool :=
  elemTy m.ty && (sat || !m.sat) && gReg m.g m.d && gReg m.g m.a && gReg m.g m.b && gMask m.g m.msk
/-- One-source integer forms. -/
def Int1.wf (m : Int1) (sat : Bool) : Bool :=
  elemTy m.ty && (sat || !m.sat) && gReg m.g m.d && gReg m.g m.a && gMask m.g m.msk
/-- IMAD. -/
def Int3.wf (m : Int3) : Bool :=
  elemTy m.ty && gReg m.g m.d && gReg m.g m.a && gReg m.g m.b && gReg m.g m.c && gMask m.g m.msk
/-- Two-source rounding forms. -/
def Flt2.wf (m : Flt2) : Bool :=
  gReg m.g m.d && gReg m.g m.a && gReg m.g m.b && gReg m.g m.rm.reg && gMask m.g m.msk
/-- One-source rounding forms: `all` where every RM is legal. -/
def Flt1.wf (m : Flt1) (all sat : Bool) : Bool :=
  (all || m.rm == .rne) && (sat || !m.sat) && gReg m.g m.d && gReg m.g m.a && gReg m.g m.rm.reg && gMask m.g m.msk
/-- FMIN and FMAX. -/
def FMinArgs.wf (m : FMinArgs) : Bool := gReg m.g m.d && gReg m.g m.a && gReg m.g m.b && gMask m.g m.msk
/-- REDL and SCANL (R133). -/
def RedArgs.wf (m : RedArgs) : Bool :=
  match m.op with
  | .fadd rm => m.ty == .i32 && rm.plain
  | .fmin | .fmax => m.ty == .i32
  | .add | .min | .max | .and | .or | .xor => wide m.ty
/-- The dot products (R165) under opcode `op`. -/
def DotArgs.wf (m : DotArgs) (op : Nat) : Bool :=
  numTy m.ty && (op != 0x74 || m.ty.isFlt) && (!m.partner || ((dotTys op).contains m.ty && m.ty.partner.isSome)) &&
    (match m.dst with
     | .vec _ _ rm _ => m.ty.isFlt || rm == .rne
     | .acc _ _ => true)
/-- MMA and MMLOOP (R183). -/
def MmaArgs.wf (m : MmaArgs) : Bool := (mmaTy m.ty.isFlt m.ty.code).isSome && (!m.partner || m.ty.partner.isSome)
/-- ATOM (R270, R273). -/
def AtomArgs.wf (m : AtomArgs) : Bool :=
  (wide m.ty || (m.ty == .b128 && (match m.op with | .exch => true | .cas _ => true | _ => false))) &&
    gReg m.g m.d && gReg m.g m.a && gReg m.g m.b && gReg m.g m.op.reg && gMask m.g m.msk

/-- A core number (R12). -/
def coreOk (c : Nat) : Bool := c < Config.numCores
/-- A context number (R381). -/
def ctxOk (c : Nat) : Bool := c < Config.numCtx
/-- A fabric port (R11). -/
def portOk (p : Nat) : Bool := p < Config.numPorts
/-- A node number (R20). -/
def nodeOk (n : Nat) : Bool := n < 32

/-- Well-formedness of an instruction or event. -/
def Instr.wf (i : Instr) : Bool :=
  match i with
  | .issueSelect c => coreOk c
  | .reggrowGrant c x => coreOk c && ctxOk x
  | .reggrowDeny c x => coreOk c && ctxOk x
  | .accessIssue c => coreOk c
  | .tileDatapathExecute c h => coreOk c && h < 2
  | .updateOnlyFlush c _ => coreOk c
  | .flushMarkerAck p => portOk p
  | .workSteal e => e < Config.numCores
  | .nodeRead n _ => nodeOk n
  | .nodeWrite n _ => nodeOk n
  | .nodeAtomic n _ => nodeOk n
  | .heldWriteRelease n => nodeOk n
  | .atomicCacheWriteback n _ => nodeOk n
  | .replyReceive p _ => portOk p
  | .packetIntegrityFailure p _ => portOk p
  | .linkFailure p => portOk p
  | .reductionContribution n _ => nodeOk n
  | .reductionRead n _ => nodeOk n
  | .timestampQuery n _ => nodeOk n
  | .slotConfigApply n _ => nodeOk n
  | .hotGranuleCopy x _ => ctxOk x
  | .leaseWrite x _ => ctxOk x
  | .dissolveContext _ x => ctxOk x
  | .installPortKey _ x p _ => ctxOk x && portOk p
  | .bra t => t.wf
  | .brc _ _ t _ => t.wf
  | .call _ t => t.wf
  | .join t => t.wf
  | .role r => r.t.wf && r.gen.toNat ≤ 128 && (!r.keep || r.gen == 0)
  | .yieldcR _ t => t.wf
  | .yieldcF _ t => t.wf
  | .bara _ _ n => n.toNat ≤ 1024
  | .bars _ _ n => n.toNat ≤ 1024
  | .mov m => (if m.g then m.ty == .i32 else wide m.ty) && gReg m.g m.d && gReg m.g m.a && gMask m.g m.msk
  | .movi m => gReg m.g m.d && gMask m.g m.msk
  | .movl m => gReg m.g m.d && gMask m.g m.msk
  | .aff m => gReg m.g m.d && gReg m.g m.a && gMask m.g m.msk
  | .redl m => m.wf && !m.exc
  | .scanl m => m.wf
  | .iadd m => m.wf true
  | .isub m => m.wf true
  | .imul m => m.wf true
  | .imulh m => m.wf false
  | .imad m => m.wf
  | .imin m => m.wf false
  | .imax m => m.wf false
  | .iabs m => m.wf true
  | .iand m => m.wf false
  | .ior m => m.wf false
  | .ixor m => m.wf false
  | .inot m => m.wf false
  | .shl m => m.wf false
  | .shr m => m.wf false
  | .sha m => m.wf false
  | .rot m => m.wf false
  | .bfx m => elemTy m.ty && gReg m.g m.d && gReg m.g m.a && gMask m.g m.msk
  | .bfi m => elemTy m.ty && gReg m.g m.d && gReg m.g m.a && gReg m.g m.b && gMask m.g m.msk
  | .popc m => m.wf false
  | .clz m => m.wf false
  | .brev m => m.wf false
  | .icmp m => elemTy m.ty && (!m.g || m.mode == .set) && gReg m.g m.a && gReg m.g m.b && gMask m.g m.msk
  | .sel m => elemTy m.ty && gReg m.g m.d && gReg m.g m.a && gReg m.g m.b && gMask m.g m.msk
  | .lea m => elemTy m.ty && gReg m.g m.d && gReg m.g m.a && gReg m.g m.b && gMask m.g m.msk
  | .fadd m => m.wf
  | .fsub m => m.wf
  | .fmul m => m.wf
  | .ffma m => gReg m.g m.d && gReg m.g m.a && gReg m.g m.b && gReg m.g m.c && gReg m.g m.rm.reg && gMask m.g m.msk
  | .fmin m => m.wf
  | .fmax m => m.wf
  | .fcmp m => (!m.g || m.mode == .set) && gReg m.g m.a && gReg m.g m.b && gMask m.g m.msk
  | .fclass m => gReg m.g m.d && gReg m.g m.a && gMask m.g m.msk
  | .frnd m => m.wf true false
  | .fscl m => m.wf
  | .frcp m => m.wf true true
  | .frsq m => m.wf false true
  | .fsqrt m => m.wf true true
  | .fexp2 m => m.wf false true
  | .flog2 m => m.wf false true
  | .ftanh m => m.wf false true
  | .cvt m => numTy m.dty && numTy m.sty && gReg m.g m.d && gReg m.g m.a && gReg m.g m.rm.reg && gMask m.g m.msk
  | .packn m => (packTy m.ty.isFlt m.ty.code).isSome
  | .unpkn m => (packTy m.ty.isFlt m.ty.code).isSome
  | .dotq m => m.wf 0x73
  | .dotx m => m.wf 0x74
  | .dotb m => m.wf 0x75
  | .doth m => m.wf 0x76
  | .mma m => m.wf
  | .mmloop m _ _ => m.wf
  | .arow m => (arowTy m.ty.isFlt m.ty.code).isSome
  | .scacc m => (scaleTy m.fa.code).isSome && (scaleTy m.fb.code).isSome
  | .arslv m => (arslvTy m.ty.isFlt m.ty.code).isSome && m.rm.plain && rowsOk m.nrows
  | .acmp m => rowsOk m.nrows
  | .asave m => rowsOk m.nrows
  | .aload m => rowsOk m.nrows
  | .qdef _ _ n _ => n.toNat ≤ 16
  | .qld m => m.col == 0
  | .ld m => memTy m.ty && (m.ord == .rlx || m.ord == .acq || m.ord == .sc) && gReg m.g m.d && gReg m.g m.a && gReg m.g m.c &&
      gMask m.g m.msk
  | .st m => memTy m.ty && (m.ord == .rlx || m.ord == .rel || m.ord == .sc) && (m.ord != .rlx || m.km == 0) && gReg m.g m.a &&
      gReg m.g m.b && gReg m.g m.c && gMask m.g m.msk
  | .atom m => m.wf
  | .pref m => gReg m.g m.a && gReg m.g m.c && gMask m.g m.msk
  | .cpl m => wide m.ty || m.ty == .b128
  | .cpbox m => m.ty != .i4 && m.ty != .n4
  | .get m => !m.rel && m.col == 0
  | .bcast m => m.rel || m.km == 0
  | .coll m => wide m.ty
  | .enrd _ a k => k == 4 || a == 0
  | .retransmissionRequest p _ => portOk p
  | .spillWaitExpiry .. | .fragmentRefill .. | .barrierWaitEnd .. | .teamLeave .. | .scrubComplete ..
  | .arbiterGrant .. | .clockThrottle .. | .launchAdmit | .launchRefuse .. | .launchComplete .. | .matrixStep ..
  | .matrixOpComplete .. | .matrixOpEarlyEnd .. | .streamRecordArrive .. | .streamWritePerform .. | .preempt ..
  | .teamSave .. | .teamRestore .. | .watchdog .. | .detRoundCommit .. | .impreciseFaultDelivery ..
  | .loadComplete .. | .storePerform .. | .atomApply .. | .cwaitPoll .. | .pteAckPost .. | .copyItemComplete ..
  | .copyFinalWord .. | .cpmcLanding .. | .leaseTick | .remotePacketApply .. | .pennantArrive | .storeRec ..
  | .claimRec .. | .addRec .. | .launchRec .. | .pteRec .. | .slotRec .. | .freeRec .. | .abortRec ..
  | .recordRefetch .. | .loopLeave | .loopBudgetWindow | .tierCarryOut .. | .tierLeaseRenew .. | .sampleDecay
  | .kvtRecompute | .reconcile .. | .quotaExhausted .. | .quotaWrite .. | .dbstatClear .. | .registerWrite ..
  | .recordDoorbell .. | .createContext .. | .mapVf .. | .stageFirmware .. | .errorDelivery .. | .masterFreeze .. | .vfDisable ..
  | .atsInvalidate .. | .reset | .bootStageAdvance .. | .getVersion | .getCapabilities | .negotiateAlgorithms ..
  | .getDigests | .getCertificate .. | .challenge .. | .getMeasurements .. | .keyExchange .. | .finish .. | .nop
  | .brx .. | .ret .. | .exit .. | .yield .. | .trap .. | .barw .. | .emset .. | .emget .. | .emand .. | .rgn
  | .mark .. | .markS .. | .cwait .. | .eretT .. | .eretSave | .eretRst | .movs .. | .gmovsRdf .. | .gmovsWrf ..
  | .gmovsClf .. | .shape .. | .ldx .. | .stx .. | .perm .. | .perm2 .. | .lbcast .. | .ballot .. | .mpop ..
  | .regqry .. | .reggrow .. | .reggrowNb .. | .regshrink .. | .aclr .. | .ashift .. | .aadd .. | .amov .. | .arslvi .. | .astat .. | .qpop .. | .qpush ..
  | .qstat .. | .qdrainDisc .. | .qdrainFlush .. | .qst .. | .fence .. | .cpmc .. | .cpst .. | .rlkq .. | .put ..
  | .putsig .. | .redm .. | .redr .. | .tsrdH .. | .tsrdP .. | .seqrd .. | .seqfence .. | .rsort .. | .clkrd ..
  | .idrd .. | .ttq .. | .crd .. | .cwr .. | .ideKm .. | .remoteRead .. | .ownerChangeScrubComplete .. => true

/-- The row is an event: no instruction word encodes it. -/
def Instr.isEvent (i : Instr) : Bool := (encode i).isNone

end Sys2Proof
end

