-- ==== Sys2Proof/Machine/Step.lean ====
section
/-! DEFINITION. One step of the machine: the issue that the latch names, else the next event of the agenda, else the event the
machine performs by itself (notes/assumptions/2.md). -/

namespace Sys2Proof.Machine
open Sys2Proof

/-- Book the work of an instruction that has retired (R374). -/
def booked (i : Instr) (s : State) (o : Host.Outcome State Fault Refusal) : Host.Outcome State Fault Refusal :=
  match o with
  | .next t =>
    (match s.who with
     | some w => if t.last == .retired then .next (t.bookWork w i) else .next t
     | none => .next t)
  | .fault r => .fault r
  | .refused r => .refused r
/-- What a step does before time passes. -/
def stepRaw (s : State) : Host.Outcome State Fault Refusal :=
  match s.issue with
  | some _ =>
    match s.prepare with
    | .settled s' => .next s'
    | .one i s' => booked i s' (exec i s')
    | .pair v vs p ps s' => booked p s' (booked v s' (runPair exec v vs p ps s'))
  | none =>
    match s.agenda with
    | [] => exec s.nextEvent { s with turn := s.turn + 1 }
    | e :: rest => if e.isEvent then exec e { s with agenda := rest } else .refused .agendaHoldsInstruction
/-- One step. -/
def step (s : State) : Host.Outcome State Fault Refusal :=
  match stepRaw s with
  | .next s' => .next s'.tick
  | .fault r => .fault r
  | .refused r => .refused r

/-- The state in which the next step runs the instruction whose bits are `w` (notes/assumptions/6.md). -/
def State.withFetchWord (s : State) (_nbits w : Nat) : State := s.loadWord (BitVec.ofNat 96 w)

end Sys2Proof.Machine
end

