-- ==== Sys2Proof/Safety.lean ====
section
/-! DEFINITION. The terms that statements about the machine are made in: who issues, what it means that an instruction completes, what
of a state an instruction may change, and the shapes of instructions that share a frame. -/

namespace Sys2Proof.Machine
open Sys2Proof

/-! ### Issuing and completing -/

/-- `w` issues the next instruction, and reads the registers as its team holds them: alone, or as the first of its pair (R29). -/
def State.Issuer (s : State) (w : Who) : Prop := s.who = some w ∧ w.groups = w.team.groups
/-- The same for a fragment of the execute slice. -/
def State.FragIssues (s : State) (w : Who) : Prop := s.Issuer w ∧ w.thr = none
/-- The instruction has its own effect and retires: `exec` answers `t`, nothing is left to issue. -/
def Retires (i : Instr) (s t : State) : Prop := exec i s = .next t ∧ t.last = .retired ∧ t.issue = none
/-- The instruction traps: the issuer takes the trap from the state as it stands (R29, R229, R230). -/
def Traps (i : Instr) (s : State) (w : Who) (cause : Nat) (info : DWord) : Prop :=
  exec i s = .next (s.trapWho w cause info w.iss.pc)

/-! ### What a later state holds for the issuer -/

/-- The issuing team in a later state. -/
def State.teamNow (t : State) (w : Who) : Team := (t.teamAt w.team.id).getD w.team
/-- v[r] of group `g` of the issuing team in a later state. -/
def State.vNow (t : State) (w : Who) (g r : Nat) : VReg := ((t.teamNow w).group g).vget r
/-- s[r] of group `g` in a later state: of the access thread where one issues (R195). -/
def State.sNow (t : State) (w : Who) (g r : Nat) : DWord :=
  match w.thr with
  | none => ((t.teamNow w).group g).sget r
  | some x => (((t.teamNow w).threadAt x.group).getD x).sget r
/-- The issuing fragment in a later state. -/
def State.fragNow (t : State) (w : Who) : Fragment :=
  match w.thr with
  | none => ((t.teamNow w).fragAt w.frag.id).getD w.frag
  | some x => (((t.teamNow w).threadAt x.group).getD x).frag

/-! ### Frames -/

/-- Everything outside the issuing team is as before: memory, the outstanding operations, every other team, and every other part of the
machine; the latch and the record of the last issue are the model's own. -/
def OnlyTeam (s t : State) (w : Who) : Prop :=
  { t with teams := s.teams, issue := s.issue, last := s.last } = s ∧ ∀ k, k ≠ w.team.id → t.teamAt k = s.teamAt k
/-- A fragment without its PC, the line it has entered, its retirement counts and the FSTAT bits it has yet to commit: what an
arithmetic instruction leaves of it. -/
def Fragment.core (f : Fragment) : Fragment :=
  { f with pc := 0, line := none, retired := 0, inRound := 0, wdog := 0, safe := false, roundGo := false, blocked := false,
           region := { f.region with pend := [] } }
/-- An access thread without its registers, and of its fragment the core. -/
def Thread.core (x : Thread) : Thread := { x with s := [], frag := x.frag.core }
/-- Of the issuing team, its groups' registers and FSTAT, and of its fragments and access threads what `core` leaves out, may have
changed. -/
def OnlyRegisters (u : Team) (w : Who) : Prop :=
  { u with groups := w.team.groups, frags := w.team.frags, threads := w.team.threads } = w.team ∧
  u.groups.length = w.team.groups.length ∧
  (∀ g, { u.group g with s := (w.team.group g).s, v := (w.team.group g).v, fstat := (w.team.group g).fstat } = w.team.group g) ∧
  u.frags.map Fragment.core = w.team.frags.map Fragment.core ∧
  ∀ g, (u.threadAt g).map Thread.core = (w.team.threadAt g).map Thread.core
/-- The frame of an instruction that writes registers and the PC alone: `vs g r` and `ss g r` say which registers it may write; the
issuer goes on at `pc`; no FSTAT bit is cleared. -/
def RegFrameAt (s t : State) (w : Who) (pc : DWord) (vs ss : Nat → Nat → Prop) : Prop :=
  OnlyTeam s t w ∧ OnlyRegisters (t.teamNow w) w ∧
  (∀ g r, ¬ vs g r → t.vNow w g r = (w.team.group g).vget r) ∧
  (∀ g r, ¬ ss g r → t.sNow w g r = w.s g r) ∧
  (w.thr.isSome → ∀ g r, ((t.teamNow w).group g).sget r = (w.team.group g).sget r) ∧
  (∀ g, (w.team.group g).fstat ||| ((t.teamNow w).group g).fstat = ((t.teamNow w).group g).fstat) ∧
  (t.fragNow w).pc = pc
/-- The same where the issuer goes on at the next slot. -/
def RegFrame (s t : State) (w : Who) (vs ss : Nat → Nat → Prop) : Prop := RegFrameAt s t w w.iss.next vs ss
/-- The registers and FSTAT of every group of the issuing team are as before. -/
def SameGroups (t : State) (w : Who) : Prop :=
  (t.teamNow w).groups.length = w.team.groups.length ∧
  ∀ g, ((t.teamNow w).group g).v = (w.team.group g).v ∧ ((t.teamNow w).group g).s = (w.team.group g).s ∧
    ((t.teamNow w).group g).fstat = (w.team.group g).fstat ∧ ((t.teamNow w).group g).genmax = (w.team.group g).genmax ∧
    ((t.teamNow w).group g).queues = (w.team.group g).queues
/-- Memory, the operations outstanding before, and every other team are as before. -/
def SameOutside (s t : State) (w : Who) : Prop :=
  t.mem = s.mem ∧ (∀ o ∈ s.ops, o ∈ t.ops) ∧ ∀ k, k ≠ w.team.id → t.teamAt k = s.teamAt k
/-- No FSTAT changes, nor what any fragment has yet to commit to it. -/
def SameFstat (t : State) (w : Who) : Prop :=
  (∀ g, ((t.teamNow w).group g).fstat = (w.team.group g).fstat) ∧
  (t.teamNow w).frags.map (fun f => f.region.pend) = w.team.frags.map (fun f => f.region.pend)

/-! ### Vector forms -/

/-- The operand of a vector form: its mask field, its first destination register, how many it writes, and the operand limits of check 5
of R46. -/
structure VecForm where
  msk : MaskField
  d : Nat
  n : Nat
  legal : Bool
  deriving DecidableEq, Repr

end Sys2Proof.Machine

namespace Sys2Proof
open Sys2Proof.Machine

/-- One register or, for a 64-bit type, a pair (R64). -/
def regCount (w64 : Bool) : Nat := if w64 then 2 else 1
/-- A two-source integer form. -/
def Int2.vec (m : Int2) (tys regs : Bool) : Option VecForm :=
  if m.g then none else some ⟨m.msk, m.d.toNat, regCount (ty64 m.ty), tys && regs⟩
/-- A one-source integer form. -/
def Int1.vec (m : Int1) (w64 legal : Bool) : Option VecForm :=
  if m.g then none else some ⟨m.msk, m.d.toNat, regCount w64, legal⟩
/-- A one-source floating form. -/
def Flt1.vec (m : Flt1) : Option VecForm := if m.g then none else some ⟨m.msk, m.d.toNat, 1, fltTyOk m.ty⟩
/-- A two-source floating form. -/
def Flt2.vec (m : Flt2) : Option VecForm := if m.g then none else some ⟨m.msk, m.d.toNat, 1, fltTyOk m.ty⟩
/-- A packed dot product into a vector register. -/
def DotArgs.vec (m : DotArgs) (op : Nat) : Option VecForm :=
  match m.dst with
  | .vec d _ _ _ => some ⟨m.msk, d.toNat, 1, (dotTys op).contains m.ty⟩
  | .acc _ _ => none

/-- The vector forms of the arithmetic and move instructions that write consecutive registers. -/
def Instr.vecForm : Instr → Option VecForm
  | .mov m => if m.g then none else
      some ⟨m.msk, m.d.toNat, regCount (ty64 m.ty), evenPair (ty64 m.ty) m.d && evenPair (ty64 m.ty) m.a⟩
  | .movi m => if m.g then none else some ⟨m.msk, m.d.toNat, 1, true⟩
  | .movs m => some ⟨m.msk, m.d.toNat, 1, true⟩
  | .movl m => if m.g then none
      else if m.kind == .h then some ⟨m.msk, m.d.toNat + 1, 1, m.d.toNat < 2047⟩
      else some ⟨m.msk, m.d.toNat, 2, m.d.toNat % 2 == 0⟩
  | .aff m => if m.g then none else some ⟨m.msk, m.d.toNat, 1, true⟩
  | .perm m => some ⟨m.msk, m.d.toNat, 1, true⟩
  | .perm2 m => some ⟨m.msk, m.d.toNat, 1, true⟩
  | .lbcast m => some ⟨m.msk, m.d.toNat, 1, true⟩
  | .redl m => some ⟨m.msk, m.d.toNat, regCount (ty64 m.ty), evenPair (ty64 m.ty) m.d && evenPair (ty64 m.ty) m.a⟩
  | .scanl m => some ⟨m.msk, m.d.toNat, regCount (ty64 m.ty), evenPair (ty64 m.ty) m.d && evenPair (ty64 m.ty) m.a⟩
  | .mpop m => match m with
    | .cnt d _ msk => some ⟨msk, d.toNat, 1, true⟩
    | _ => none
  | .iadd m | .isub m | .imul m | .imin m | .imax m => m.vec (intTyOk m.ty) (int2RegsOk m)
  | .imulh m | .iand m | .ior m | .ixor m => m.vec (wordTyOk m.ty) (int2RegsOk m)
  | .shl m | .shr m | .sha m | .rot m => m.vec (wordTyOk m.ty) (shiftRegsOk m)
  | .imad m => if m.g then none else some ⟨m.msk, m.d.toNat, regCount (ty64 m.ty), intTyOk m.ty && evenPair (ty64 m.ty) m.d &&
      evenPair (ty64 m.ty) m.a && evenPair (ty64 m.ty) m.b && evenPair (ty64 m.ty) m.c⟩
  | .iabs m => m.vec (ty64 m.ty) (intTyOk m.ty && tySigned m.ty && int1RegsOk m)
  | .inot m | .brev m => m.vec (ty64 m.ty) (wordTyOk m.ty && int1RegsOk m)
  | .popc m | .clz m => m.vec false (wordTyOk m.ty && evenPair (ty64 m.ty) m.a)
  | .bfx m => if m.g then none else some ⟨m.msk, m.d.toNat, regCount (ty64 m.ty), wordTyOk m.ty && evenPair (ty64 m.ty) m.d &&
      evenPair (ty64 m.ty) m.a && fieldOk m.ty m.pos m.len⟩
  | .bfi m => if m.g then none else some ⟨m.msk, m.d.toNat, regCount (ty64 m.ty), wordTyOk m.ty && evenPair (ty64 m.ty) m.d &&
      evenPair (ty64 m.ty) m.a && evenPair (ty64 m.ty) m.b && fieldOk m.ty m.pos m.len⟩
  | .sel m => if m.g then none else some ⟨m.msk, m.d.toNat, regCount (ty64 m.ty), wordTyOk m.ty && evenPair (ty64 m.ty) m.d &&
      evenPair (ty64 m.ty) m.a && evenPair (ty64 m.ty) m.b⟩
  | .lea m => if m.g then none else some ⟨m.msk, m.d.toNat, 2, wordTyOk m.ty && m.sh.toNat ≤ 4 && evenPair true m.d &&
      evenPair true m.a && evenPair (ty64 m.ty) m.b⟩
  | .fadd m | .fsub m | .fmul m | .fscl m => m.vec
  | .ffma m => if m.g then none else some ⟨m.msk, m.d.toNat, 1, fltTyOk m.ty⟩
  | .fmin m | .fmax m => if m.g then none else some ⟨m.msk, m.d.toNat, 1, fltTyOk m.ty⟩
  | .fclass m => if m.g then none else some ⟨m.msk, m.d.toNat, 1, true⟩
  | .frnd m | .frcp m | .frsq m | .fsqrt m | .fexp2 m | .flog2 m | .ftanh m => m.vec
  | .cvt m => if m.g then none else
      some ⟨m.msk, m.d.toNat, regCount (num64 m.dty), evenPair (num64 m.dty) m.d && evenPair (num64 m.sty) m.a⟩
  | .packn m => some ⟨m.msk, m.d.toNat, 1, m.a.toNat + packedCount m.ty ≤ 2048⟩
  | .unpkn m => some ⟨m.msk, m.d.toNat, packedCount m.ty, m.d.toNat + packedCount m.ty ≤ 2048⟩
  | .dotq m => m.vec 0x73
  | .dotx m => m.vec 0x74
  | .dotb m => m.vec 0x75
  | .doth m => m.vec 0x76
  | _ => none

/-! ### Group-wide forms -/

/-- The operand of a G form: its destination s register and the operand limits of check 5 of R46. -/
structure GroupForm where
  d : Nat
  legal : Bool
  deriving DecidableEq, Repr

/-- The G form of a two-source integer instruction. -/
def Int2.grp (m : Int2) (tys : Bool) : Option GroupForm := if m.g then some ⟨m.d.toNat, tys⟩ else none
/-- The G form of a one-source integer instruction. -/
def Int1.grp (m : Int1) (legal : Bool) : Option GroupForm := if m.g then some ⟨m.d.toNat, legal⟩ else none
/-- The G form of a two-source floating instruction. -/
def Flt2.grp (m : Flt2) : Option GroupForm := if m.g then some ⟨m.d.toNat, fltTyOk m.ty⟩ else none
/-- The G form of a one-source floating instruction. -/
def Flt1.grp (m : Flt1) : Option GroupForm := if m.g then some ⟨m.d.toNat, fltTyOk m.ty⟩ else none

/-- The G forms that write s[D] of every present group, and may issue in access threads too (R196). -/
def Instr.groupForm : Instr → Option GroupForm
  | .mov m => if m.g then some ⟨m.d.toNat, true⟩ else none
  | .movi m => if m.g then some ⟨m.d.toNat, true⟩ else none
  | .movl m => if m.g then some ⟨m.d.toNat, true⟩ else none
  | .aff m => if m.g then some ⟨m.d.toNat, true⟩ else none
  | .gmovsRdf d => some ⟨d.toNat, true⟩
  | .iadd m | .isub m | .imul m | .imin m | .imax m => m.grp (intTyOk m.ty)
  | .imulh m | .iand m | .ior m | .ixor m | .shl m | .shr m | .sha m | .rot m => m.grp (wordTyOk m.ty)
  | .imad m => if m.g then some ⟨m.d.toNat, intTyOk m.ty⟩ else none
  | .iabs m => m.grp (intTyOk m.ty && tySigned m.ty)
  | .inot m | .brev m | .popc m | .clz m => m.grp (wordTyOk m.ty)
  | .bfx m => if m.g then some ⟨m.d.toNat, wordTyOk m.ty && fieldOk m.ty m.pos m.len⟩ else none
  | .bfi m => if m.g then some ⟨m.d.toNat, wordTyOk m.ty && fieldOk m.ty m.pos m.len⟩ else none
  | .icmp m => if m.g then some ⟨m.d.toNat, intTyOk m.ty⟩ else none
  | .sel m => if m.g then some ⟨m.d.toNat, wordTyOk m.ty⟩ else none
  | .lea m => if m.g then some ⟨m.d.toNat, wordTyOk m.ty && m.sh.toNat ≤ 4⟩ else none
  | .qstat d _ => some ⟨d.toNat, true⟩
  | _ => none
/-- The G forms that the execute slice alone may issue. -/
def Instr.groupFormExec : Instr → Option GroupForm
  | .mpop m => match m with
    | .cnt _ _ _ => none
    | .gcnt d _ => some ⟨d.toNat, true⟩
    | .gfirst d _ => some ⟨d.toNat, true⟩
    | .gnext d _ => some ⟨d.toNat, true⟩
  | .fadd m | .fsub m | .fmul m | .fscl m => m.grp
  | .ffma m => if m.g then some ⟨m.d.toNat, fltTyOk m.ty⟩ else none
  | .fmin m | .fmax m => if m.g then some ⟨m.d.toNat, fltTyOk m.ty⟩ else none
  | .fcmp m => if m.g then some ⟨m.d.toNat, true⟩ else none
  | .fclass m => if m.g then some ⟨m.d.toNat, true⟩ else none
  | .frnd m | .frcp m | .frsq m | .fsqrt m | .fexp2 m | .flog2 m | .ftanh m => m.grp
  | .cvt m => if m.g then some ⟨m.d.toNat, true⟩ else none
  | .emget _ d => some ⟨d.toNat, true⟩
  | .regqry d => some ⟨d.toNat, true⟩
  | _ => none
/-- The instructions that write a lane mask to s[D] of the qualifying groups (R145). -/
def Instr.maskForm : Instr → Option (MaskField × Nat × Bool)
  | .icmp m => if m.g then none else
      some (m.msk, m.d.toNat, intTyOk m.ty && evenPair (ty64 m.ty) m.a && evenPair (ty64 m.ty) m.b)
  | .fcmp m => if m.g then none else some (m.msk, m.d.toNat, true)
  | .ballot m => some (m.msk, m.d.toNat, true)
  | _ => none

end Sys2Proof
end

