-- ==== Sys2Proof/Certificates/Slice0/Obligations.lean ====
section
/-! DEFINITION. The statements of the row, one definition each. -/

open Sys2Proof Sys2Proof.Machine

/-! ### Encoding -/

/-- R21, R34 to R38: what some words mean, one of every format and class, as the spec writes them out. -/
def Obligations.WordsDecode : Prop :=
  decode 0x63000600400A030000000000#96 = .ok (.ffma ⟨false, .plain, .f32, .rne, false, 12, 4, 5, 12, 0⟩) ∧
  decode 0x240014000000000040000000#96 = .ok (.aff ⟨false, 40, 0, 4, 0⟩) ∧
  decode 0x8304018C800200080000103F#96 = .ok (.mmloop ⟨true, none, .flt .bf16, false, 3, 200, 1, 0⟩ 63 1) ∧
  decode 0xA5000080400A018180000000#96 = .ok (.qld ⟨false, false, .pkg, false, 0, 1, 4, 5, 6, 0⟩) ∧
  decode 0xB00003803000000090000040#96 = .ok (.ld ⟨false, false, .ty .i32, .team, .acq, 7, 3, 0, 0, 0x40⟩) ∧
  decode 0xB2000500400A0005800E0000#96 = .ok (.atom ⟨false, false, .add, .n32, .pkg, .rlx, 10, 4, 5, 7, 0⟩) ∧
  decode 0x031000005FFFFFFFE6000000#96 = .ok (.brc true 5 ⟨0xFFFFFFFE, 3⟩ 0) ∧
  decode 0xE20003000000000200000000#96 = .ok (.enrd 6 0 1) ∧
  decode 0x0A0000000000000000000028#96 = .ok (.yield 40)
/-- Decoding the word of a well-formed instruction gives the instruction, with every operand at every value that its encoding admits
(R34 to R46). -/
def Obligations.DecodeEncode : Prop :=
  ∀ (i : Instr) (x : IWord), i.wf = true → encode i = some x → decode x = .ok i
/-- What the decoder accepts is a well-formed instruction and no event, and its word is the one word that means it (R46). -/
def Sys2Proof.Claims.EncodeDecode : Prop :=
  ∀ (i : Instr) (x : IWord), decode x = .ok i → i.wf = true ∧ encode i = some x
/-- R46, check 1: the operation codes that the map of R45 gives no instruction are refused as such. -/
def Sys2Proof.Claims.ReservedRefused : Prop :=
  ∀ x : IWord, issueClass x = none → ∃ e, decode x = .error e ∧ e.number = 1
/-- Every word that decodes is the word of its instruction, and reserved fields are refused. -/
def Obligations.EncodingIsExact : Prop := Claims.EncodeDecode ∧ Claims.ReservedRefused

/-! ### Vector and group forms -/

/-- The vector forms of moves, permutes, lane reductions, integer, floating, conversion, packing and dot-product instructions complete
where their operand limits hold and their destinations lie below genmax (R46, R79, R122, R123, R134 to R138, R147 to R149, R154 to
R166): they write their destination registers in the qualifying groups, may raise FSTAT bits, and change nothing else. -/
def Obligations.VectorFormsComplete : Prop :=
  ∀ (i : Instr) (f : VecForm) (s : State) (w : Who), i.vecForm = some f → f.legal = true → s.FragIssues w →
    (∀ g ∈ w.qual f.msk, ∀ k < f.n, f.d + k = 0 ∨ f.d + k < (w.group g).genmax) →
    ∃ t, Retires i s t ∧
      RegFrame s t w (fun g r => g ∈ w.qual f.msk ∧ f.d ≤ r ∧ r < f.d + f.n) (fun _ _ => False)
/-- R123: a vector form whose result would be general in a register at or above genmax takes the shape fault; here the forms of one
register with a general source under the plain rule of R121. -/
def Sys2Proof.Claims.ShapeFault : Prop :=
  ∀ (m : PermArgs) (s : State) (w : Who) (g : Nat), s.FragIssues w →
    w.qual m.msk = [g] → m.d ≠ 0 → (w.group g).genmax ≤ m.d.toNat → (w.v g m.a.toNat).isGeneral = true →
    Traps (.perm m) s w 0x06 (BitVec.ofNat 64 g)
/-- The G forms complete where their operand limits hold (R39, R79, R141, R196): they write s[D] of every present group, or of the access
thread, may raise FSTAT bits, and change nothing else. -/
def Sys2Proof.Claims.GroupFormsComplete : Prop :=
  ∀ (i : Instr) (f : GroupForm) (s : State) (w : Who),
    (i.groupForm = some f ∨ (i.groupFormExec = some f ∧ w.thr = none)) → f.legal = true → s.Issuer w →
    ∃ t, Retires i s t ∧
      RegFrame s t w (fun _ _ => False) (fun g r => (g ∈ w.present ∨ w.thr.isSome = true) ∧ r = f.d)
/-- The compares and BALLOT complete where their operand limits hold (R138, R145, R150): they write s[D] of the qualifying groups, and
change no FSTAT bit and nothing else. -/
def Sys2Proof.Claims.MaskFormsComplete : Prop :=
  ∀ (i : Instr) (msk : MaskField) (d : Nat) (s : State) (w : Who), i.maskForm = some (msk, d, true) → s.FragIssues w →
    ∃ t, Retires i s t ∧ SameFstat t w ∧ RegFrame s t w (fun _ _ => False) (fun g r => g ∈ w.qual msk ∧ r = d)
/-- The forms with one word in a group and the mask forms complete. -/
def Obligations.ExecutionForms : Prop := Claims.GroupFormsComplete ∧ Claims.MaskFormsComplete

/-- The 32-bit lane values of the arithmetic, logic and shift instructions (R147, R148). -/
def Sys2Proof.Instr.laneWord : Instr → Option (Who → Nat → Nat → Word)
  | .iadd m => if m.g || tyWidth m.ty != 32 || m.sat then none else
      some fun w g j => (w.v g m.a.toNat).lane j + (w.v g m.b.toNat).lane j
  | .isub m => if m.g || tyWidth m.ty != 32 || m.sat then none else
      some fun w g j => (w.v g m.a.toNat).lane j - (w.v g m.b.toNat).lane j
  | .imul m => if m.g || tyWidth m.ty != 32 || m.sat then none else
      some fun w g j => (w.v g m.a.toNat).lane j * (w.v g m.b.toNat).lane j
  | .imad m => if m.g || tyWidth m.ty != 32 || m.sat then none else
      some fun w g j => (w.v g m.a.toNat).lane j * (w.v g m.b.toNat).lane j + (w.v g m.c.toNat).lane j
  | .imulh m => if m.g || tyWidth m.ty != 32 then none else
      some fun w g j =>
        if tySigned m.ty then
          (((w.v g m.a.toNat).lane j).signExtend 64 * ((w.v g m.b.toNat).lane j).signExtend 64).extractLsb' 32 32
        else (((w.v g m.a.toNat).lane j).setWidth 64 * ((w.v g m.b.toNat).lane j).setWidth 64).extractLsb' 32 32
  | .imin m => if m.g || tyWidth m.ty != 32 then none else
      some fun w g j =>
        let a := (w.v g m.a.toNat).lane j
        let b := (w.v g m.b.toNat).lane j
        if (if tySigned m.ty then a.slt b else a.ult b) then a else b
  | .imax m => if m.g || tyWidth m.ty != 32 then none else
      some fun w g j =>
        let a := (w.v g m.a.toNat).lane j
        let b := (w.v g m.b.toNat).lane j
        if (if tySigned m.ty then a.slt b else a.ult b) then b else a
  | .iabs m => if m.g || m.ty != .i32 || m.sat then none else
      some fun w g j => let a := (w.v g m.a.toNat).lane j; if a.msb then 0 - a else a
  | .iand m => if m.g || tyWidth m.ty != 32 then none else
      some fun w g j => (w.v g m.a.toNat).lane j &&& (w.v g m.b.toNat).lane j
  | .ior m => if m.g || tyWidth m.ty != 32 then none else
      some fun w g j => (w.v g m.a.toNat).lane j ||| (w.v g m.b.toNat).lane j
  | .ixor m => if m.g || tyWidth m.ty != 32 then none else
      some fun w g j => (w.v g m.a.toNat).lane j ^^^ (w.v g m.b.toNat).lane j
  | .inot m => if m.g || tyWidth m.ty != 32 then none else some fun w g j => ~~~(w.v g m.a.toNat).lane j
  | .shl m => if m.g || tyWidth m.ty != 32 then none else
      some fun w g j => (w.v g m.a.toNat).lane j <<< (((w.v g m.b.toNat).lane j).toNat % 32)
  | .shr m => if m.g || tyWidth m.ty != 32 then none else
      some fun w g j => (w.v g m.a.toNat).lane j >>> (((w.v g m.b.toNat).lane j).toNat % 32)
  | .sha m => if m.g || tyWidth m.ty != 32 then none else
      some fun w g j => ((w.v g m.a.toNat).lane j).sshiftRight (((w.v g m.b.toNat).lane j).toNat % 32)
  | .rot m => if m.g || tyWidth m.ty != 32 then none else
      some fun w g j => ((w.v g m.a.toNat).lane j).rotateLeft (((w.v g m.b.toNat).lane j).toNat % 32)
  | .bfx m => if m.g || tyWidth m.ty != 32 then none else
      some fun w g j =>
        let f := ((w.v g m.a.toNat).lane j).extractLsb' m.pos.toNat m.len.toNat
        if tySigned m.ty then f.signExtend 32 else f.setWidth 32
  | .sel m => if m.g || tyWidth m.ty != 32 then none else
      some fun w g j => if (w.s g m.c.toNat).getLsbD j then (w.v g m.a.toNat).lane j else (w.v g m.b.toNat).lane j
  | .mov m => if m.g || ty64 m.ty then none else some fun w g j => (w.v g m.a.toNat).lane j
  | .movi m => if m.g then none else some fun _ _ _ => m.imm
  | .movs m => some fun w g _ => if m.hi then (w.s g m.a.toNat).extractLsb' 32 32 else (w.s g m.a.toNat).extractLsb' 0 32
  | .aff m => if m.g then none else some fun w g j => (w.v g m.a.toNat).lane j + m.imm * BitVec.ofNat 32 j
  | .perm m => some fun w g j => (w.v g m.a.toNat).lane (((w.v g m.b.toNat).lane j).toNat % 64)
  | .perm2 m => some fun w g j =>
      let k := ((w.v g m.c.toNat).lane j).toNat % 128
      if k < 64 then (w.v g m.a.toNat).lane k else (w.v g m.b.toNat).lane (k - 64)
  | _ => none
/-- R134, R135, R137, R147, R148, R151: the results of the moves, permutes, arithmetic, logic, shifts and selection with 32-bit types and
without SAT, in the words of the lanes themselves. The shape that R121 gives a result changes no lane. Lanes that are not active keep
their contents unless they have exited (R122). -/
def Obligations.WordResults : Prop :=
  ∀ (i : Instr) (f : VecForm) (val : Who → Nat → Nat → Word) (s : State) (w : Who), i.vecForm = some f → f.legal = true →
    i.laneWord = some val → s.FragIssues w →
    (∀ g ∈ w.qual f.msk, f.d = 0 ∨ f.d < (w.group g).genmax) →
    ∃ t, Retires i s t ∧ SameFstat t w ∧
      ∀ g ∈ w.qual f.msk, g < w.team.groups.length → f.d ≠ 0 → ∀ j < 64,
        ((w.eff f.msk g).getLsbD j = true → (t.vNow w g f.d).lane j = val w g j) ∧
        ((w.eff f.msk g).getLsbD j = false → (w.group g).exited.getLsbD j = false →
          (t.vNow w g f.d).lane j = (w.v g f.d).lane j)

/-- A 32-bit word read as a value of its type (R62). -/
def Sys2Proof.Machine.wordVal (t : IntTy) (x : Word) : Int := if tySigned t then x.toInt else x.toNat
/-- The least and the greatest 32-bit value of a type (R62). -/
def Sys2Proof.Machine.wordLow (t : IntTy) : Int := if tySigned t then -2147483648 else 0
/-- The greatest 32-bit value of a type (R62). -/
def Sys2Proof.Machine.wordHigh (t : IntTy) : Int := if tySigned t then 2147483647 else 4294967295
/-- The exact results of the arithmetic that SAT clamps, for 32-bit types (R147). -/
def Sys2Proof.Instr.exactLane : Instr → Option (IntTy × (Who → Nat → Nat → Int))
  | .iadd m => if m.g || tyWidth m.ty != 32 || !m.sat then none else
      some (m.ty, fun w g j => wordVal m.ty ((w.v g m.a.toNat).lane j) + wordVal m.ty ((w.v g m.b.toNat).lane j))
  | .isub m => if m.g || tyWidth m.ty != 32 || !m.sat then none else
      some (m.ty, fun w g j => wordVal m.ty ((w.v g m.a.toNat).lane j) - wordVal m.ty ((w.v g m.b.toNat).lane j))
  | .imul m => if m.g || tyWidth m.ty != 32 || !m.sat then none else
      some (m.ty, fun w g j => wordVal m.ty ((w.v g m.a.toNat).lane j) * wordVal m.ty ((w.v g m.b.toNat).lane j))
  | .iabs m => if m.g || m.ty != .i32 || !m.sat then none else
      some (m.ty, fun w g j => (wordVal m.ty ((w.v g m.a.toNat).lane j)).natAbs)
  | _ => none
/-- R147 with SAT = 1 and a 32-bit type: each active lane receives the exact result clamped to the range of the type, and FSTAT of the
group gains SA exactly when the clamp changes the result of some active lane; no other bit. -/
def Sys2Proof.Claims.SaturatedResults : Prop :=
  ∀ (i : Instr) (f : VecForm) (ty : IntTy) (val : Who → Nat → Nat → Int) (s : State) (w : Who), i.vecForm = some f →
    f.legal = true → i.exactLane = some (ty, val) → s.FragIssues w →
    (∀ g ∈ w.qual f.msk, f.d = 0 ∨ f.d < (w.group g).genmax) →
    ∃ t, Retires i s t ∧
      ∀ g ∈ w.qual f.msk, g < w.team.groups.length →
        (f.d ≠ 0 → ∀ j < 64, (w.eff f.msk g).getLsbD j = true →
          wordVal ty ((t.vNow w g f.d).lane j) = max (wordLow ty) (min (wordHigh ty) (val w g j))) ∧
        (w.regioned = false → ((t.teamNow w).group g).fstat =
          (w.team.group g).fstat ||| (if (laneList.any fun j => (w.eff f.msk g).getLsbD j &&
            (decide (val w g j < wordLow ty) || decide (wordHigh ty < val w g j))) then 0x20#6 else 0#6))

/-- The 64-bit value of a pair of registers in a lane (R64). -/
def Sys2Proof.Machine.Who.pair (w : Who) (g : Nat) (r : BitVec 11) (j : Nat) : DWord :=
  (w.v g (r.toNat + 1)).lane j ++ (w.v g r.toNat).lane j
/-- The results of the arithmetic, logic and shift instructions with 64-bit types (R147, R148). -/
def Sys2Proof.Instr.laneDword : Instr → Option (Who → Nat → Nat → DWord)
  | .iadd m => if m.g || !ty64 m.ty || m.sat then none else some fun w g j => w.pair g m.a j + w.pair g m.b j
  | .isub m => if m.g || !ty64 m.ty || m.sat then none else some fun w g j => w.pair g m.a j - w.pair g m.b j
  | .imul m => if m.g || !ty64 m.ty || m.sat then none else some fun w g j => w.pair g m.a j * w.pair g m.b j
  | .imad m => if m.g || !ty64 m.ty || m.sat then none else
      some fun w g j => w.pair g m.a j * w.pair g m.b j + w.pair g m.c j
  | .iand m => if m.g || !ty64 m.ty then none else some fun w g j => w.pair g m.a j &&& w.pair g m.b j
  | .ior m => if m.g || !ty64 m.ty then none else some fun w g j => w.pair g m.a j ||| w.pair g m.b j
  | .ixor m => if m.g || !ty64 m.ty then none else some fun w g j => w.pair g m.a j ^^^ w.pair g m.b j
  | .inot m => if m.g || !ty64 m.ty then none else some fun w g j => ~~~w.pair g m.a j
  | .shl m => if m.g || !ty64 m.ty then none else
      some fun w g j => w.pair g m.a j <<< (((w.v g m.b.toNat).lane j).toNat % 64)
  | .shr m => if m.g || !ty64 m.ty then none else
      some fun w g j => w.pair g m.a j >>> (((w.v g m.b.toNat).lane j).toNat % 64)
  | .sha m => if m.g || !ty64 m.ty then none else
      some fun w g j => (w.pair g m.a j).sshiftRight (((w.v g m.b.toNat).lane j).toNat % 64)
  | .rot m => if m.g || !ty64 m.ty then none else
      some fun w g j => (w.pair g m.a j).rotateLeft (((w.v g m.b.toNat).lane j).toNat % 64)
  | .mov m => if m.g || !ty64 m.ty then none else some fun w g j => w.pair g m.a j
  | .movl m => if m.g || m.kind == .h then none else
      some fun _ _ _ => if m.kind == .s then m.imm.signExtend 64 else m.imm.setWidth 64
  | .lea m => if m.g || m.ty != .i32 then none else
      some fun w g j => w.pair g m.a j + (((w.v g m.b.toNat).lane j).signExtend 64 <<< m.sh.toNat) + m.disp.signExtend 64
  | _ => none
/-- R64, R134, R147 to R149: the results of the 64-bit forms without SAT, in pairs of registers. -/
def Sys2Proof.Claims.PairResults : Prop :=
  ∀ (i : Instr) (f : VecForm) (val : Who → Nat → Nat → DWord) (s : State) (w : Who), i.vecForm = some f → f.legal = true →
    i.laneDword = some val → s.FragIssues w →
    (∀ g ∈ w.qual f.msk, ∀ k < 2, f.d + k = 0 ∨ f.d + k < (w.group g).genmax) →
    ∃ t, Retires i s t ∧ SameFstat t w ∧
      ∀ g ∈ w.qual f.msk, g < w.team.groups.length → ∀ j < 64, (w.eff f.msk g).getLsbD j = true →
        (f.d ≠ 0 → (t.vNow w g f.d).lane j = (val w g j).extractLsb' 0 32) ∧
        (t.vNow w g (f.d + 1)).lane j = (val w g j).extractLsb' 32 32
/-- Saturated words, and the words of register pairs. -/
def Obligations.SaturationAndPairs : Prop := Claims.SaturatedResults ∧ Claims.PairResults

/-- The results of G forms on the 64-bit s registers (R134, R135, R138, R147, R148, R150). -/
def Sys2Proof.Instr.groupWord : Instr → Option (Who → Nat → DWord)
  | .mov m => if !m.g then none else some fun w g => w.s g m.a.toNat
  | .movi m => if !m.g then none else some fun _ _ => m.imm.setWidth 64
  | .movl m => if !m.g then none else
      some fun w g => match m.kind with
        | .s => m.imm.signExtend 64
        | .z => m.imm.setWidth 64
        | .h => m.imm ++ (w.s g m.d.toNat).extractLsb' 0 32
  | .aff m => if !m.g then none else some fun w g => w.s g m.a.toNat + m.imm.signExtend 64 * BitVec.ofNat 64 g
  | .iadd m => if !m.g || !ty64 m.ty || m.sat then none else some fun w g => w.s g m.a.toNat + w.s g m.b.toNat
  | .isub m => if !m.g || !ty64 m.ty || m.sat then none else some fun w g => w.s g m.a.toNat - w.s g m.b.toNat
  | .imul m => if !m.g || !ty64 m.ty || m.sat then none else some fun w g => w.s g m.a.toNat * w.s g m.b.toNat
  | .iand m => if !m.g || !ty64 m.ty then none else some fun w g => w.s g m.a.toNat &&& w.s g m.b.toNat
  | .ior m => if !m.g || !ty64 m.ty then none else some fun w g => w.s g m.a.toNat ||| w.s g m.b.toNat
  | .ixor m => if !m.g || !ty64 m.ty then none else some fun w g => w.s g m.a.toNat ^^^ w.s g m.b.toNat
  | .inot m => if !m.g || !ty64 m.ty then none else some fun w g => ~~~w.s g m.a.toNat
  | .shl m => if !m.g || !ty64 m.ty then none else some fun w g => w.s g m.a.toNat <<< ((w.s g m.b.toNat).toNat % 2 ^ 32 % 64)
  | .shr m => if !m.g || !ty64 m.ty then none else some fun w g => w.s g m.a.toNat >>> ((w.s g m.b.toNat).toNat % 2 ^ 32 % 64)
  | .icmp m => if !m.g || m.ty != .i64 || m.cond != .lt then none else
      some fun w g => if (w.s g m.a.toNat).slt (w.s g m.b.toNat) then BitVec.allOnes 64 else 0
  | .mpop m => match m with
    | .cnt _ _ _ => none
    | .gcnt _ a => some fun w g => BitVec.ofNat 64 ((laneList.filter fun j => (w.s g a.toNat).getLsbD j).length)
    | .gfirst _ a => some fun w g => BitVec.ofNat 64 (((laneList.filter fun j => (w.s g a.toNat).getLsbD j).head?).getD 64)
    | .gnext _ a => some fun w g => w.s g a.toNat &&& (w.s g a.toNat - 1)
  | .emget k _ => some fun w g => match k with
    | .ex => maskAt w.frag.m g &&& maskAt w.frag.e g
    | .own => maskAt w.frag.m g
    | .en => maskAt w.frag.e g
  | .gmovsRdf _ => none
  | _ => none
/-- R100, R134, R135, R138, R147, R148, R150: the results of the G forms with 64-bit operands, once for each present group. -/
def Sys2Proof.Claims.GroupResults : Prop :=
  ∀ (i : Instr) (f : GroupForm) (val : Who → Nat → DWord) (s : State) (w : Who),
    (i.groupForm = some f ∨ (i.groupFormExec = some f ∧ w.thr = none)) → f.legal = true → i.groupWord = some val → s.Issuer w →
    (w.thr.isSome = true → w.present.length ≤ 1) →
    ∃ t, Retires i s t ∧ SameFstat t w ∧
      ∀ g ∈ w.present, g < w.team.groups.length → f.d ≠ 0 → t.sNow w g f.d = val w g

/-- The condition that a compare or BALLOT evaluates on a lane, and how it writes its mask (R138, R150, R151). -/
def Sys2Proof.Instr.laneTest : Instr → Option (CmpMode × (Who → Nat → Nat → Bool))
  | .icmp m => if m.g then none else
      some (m.mode, fun w g j =>
        let a := tyRead m.ty (w.laneNat g (ty64 m.ty) m.a.toNat j)
        let b := tyRead m.ty (w.laneNat g (ty64 m.ty) m.b.toNat j)
        match m.cond with
        | .eq => a == b
        | .ne => a != b
        | .lt => decide (a < b)
        | .le => decide (a ≤ b)
        | .gt => decide (a > b)
        | .ge => decide (a ≥ b))
  | .ballot m => some (.set, fun w g j => if m.z then (w.v g m.a.toNat).lane j == 0 else (w.v g m.a.toNat).lane j != 0)
  | _ => none
/-- R138, R150, R151: bit j of s[D] after ICMP in each of its modes and after BALLOT, for every lane j. -/
def Sys2Proof.Claims.CompareMasks : Prop :=
  ∀ (i : Instr) (msk : MaskField) (d : Nat) (mode : CmpMode) (test : Who → Nat → Nat → Bool) (s : State) (w : Who),
    i.maskForm = some (msk, d, true) → i.laneTest = some (mode, test) → s.FragIssues w →
    ∃ t, Retires i s t ∧ ∀ g ∈ w.qual msk, g < w.team.groups.length → d ≠ 0 → ∀ j < 64,
      (t.sNow w g d).getLsbD j =
        (match mode with
         | .set => (w.eff msk g).getLsbD j && test w g j
         | .keep => if (w.eff msk g).getLsbD j then test w g j else (w.s g d).getLsbD j
         | .and c => (w.s g c.toNat).getLsbD j && ((w.eff msk g).getLsbD j && test w g j)
         | .or c => (w.s g c.toNat).getLsbD j || ((w.eff msk g).getLsbD j && test w g j))

/-- R138 and R130 for the exact additions: REDL.ADD gives every active lane the sum of the active lanes, SCANL.ADD each active lane
the sum of the active lanes up to it, or below it with .EXC. -/
def Sys2Proof.Claims.LaneSums : Prop :=
  ∀ (m : RedArgs) (s : State) (w : Who), m.op = .add → tyWidth m.ty = 32 → s.FragIssues w →
    (∀ g ∈ w.qual m.msk, m.d = 0 ∨ m.d.toNat < (w.group g).genmax) →
    (∃ t, Retires (.redl m) s t ∧ SameFstat t w ∧
      ∀ g ∈ w.qual m.msk, g < w.team.groups.length → m.d ≠ 0 → ∀ j < 64, (w.eff m.msk g).getLsbD j = true →
        (t.vNow w g m.d.toNat).lane j =
          ((laneList.filter fun k => (w.eff m.msk g).getLsbD k).map fun k => (w.v g m.a.toNat).lane k).foldl (· + ·) 0) ∧
    (∃ t, Retires (.scanl m) s t ∧ SameFstat t w ∧
      ∀ g ∈ w.qual m.msk, g < w.team.groups.length → m.d ≠ 0 → ∀ j < 64, (w.eff m.msk g).getLsbD j = true →
        (t.vNow w g m.d.toNat).lane j =
          ((laneList.filter fun k => (w.eff m.msk g).getLsbD k && (decide (k < j) || (!m.exc && k == j))).map
            fun k => (w.v g m.a.toNat).lane k).foldl (· + ·) 0)
/-- The words of a group, the masks of comparisons, and the sums over lanes. -/
def Obligations.GroupWordsAndMasks : Prop := Claims.GroupResults ∧ Claims.CompareMasks ∧ Claims.LaneSums

/-- The 64 values are those of an affine register (R136). -/
def Sys2Proof.Machine.laneAffine (v : VReg) : Prop := ∀ j < 64, v.lane j = v.lane 0 + (v.lane 1 - v.lane 0) * BitVec.ofNat 32 j
/-- The result of a SHAPE is general (R136). -/
def Sys2Proof.Machine.shapeGeneral (k : ShapeKind) (v : VReg) : Prop := k = .gen ∨ (k = .tight ∧ ¬laneAffine v)
/-- R136: SHAPE.TIGHT, SHAPE.GEN and SHAPE.QRY act on all 64 lanes of the groups that R79 selects, whatever MK; a general result at or
above genmax is the shape fault. -/
def Sys2Proof.Claims.ShapeForms : Prop :=
  ∀ (m : ShapeArgs) (s : State) (w : Who), s.FragIssues w →
    ((∀ g ∈ w.qual 0, m.d = 0 ∨ m.d.toNat < (w.group g).genmax ∨ ¬shapeGeneral m.kind (w.v g m.a.toNat)) →
      ∃ t, Retires (.shape m) s t ∧ SameFstat t w ∧
        RegFrame s t w (fun g r => g ∈ w.qual 0 ∧ r = m.d.toNat) (fun _ _ => False) ∧
        ∀ g ∈ w.qual 0, g < w.team.groups.length → m.d ≠ 0 →
          let a := w.v g m.a.toNat
          let r := t.vNow w g m.d.toNat
          match m.kind with
          | .qry => r = .uniform (BitVec.ofNat 32 a.tag)
          | .gen => r.tag = 2 ∧ ∀ j < 64, r.lane j = a.lane j
          | .tight => (∀ j < 64, r.lane j = a.lane j) ∧ (r.tag = 0 ↔ ∀ j < 64, a.lane j = a.lane 0) ∧
              (r.tag = 1 ↔ laneAffine a ∧ ¬∀ j < 64, a.lane j = a.lane 0) ∧ (r.tag = 2 ↔ ¬laneAffine a)) ∧
    ∀ g, w.qual 0 = [g] → m.d ≠ 0 → (w.group g).genmax ≤ m.d.toNat → shapeGeneral m.kind (w.v g m.a.toNat) →
      Traps (.shape m) s w 0x06 (BitVec.ofNat 64 g)
/-- Register shapes, and the shape fault. -/
def Obligations.RegisterShapes : Prop := Claims.ShapeForms ∧ Claims.ShapeFault

/-- R128, R137: LDX gives each active lane the entry of the table that its index names. -/
def Sys2Proof.Claims.IndexedLoad : Prop :=
  ∀ (m : IdxArgs) (s : State) (w : Who), tableOk m.a m.len = true → s.FragIssues w →
    (∀ g ∈ w.qual m.msk, ∀ j < 64, (w.eff m.msk g).getLsbD j = true →
      ((w.v g m.b.toNat).lane j).toNat < (if m.any then 64 * m.len.toNat else m.len.toNat)) →
    (∀ g ∈ w.qual m.msk, m.d = 0 ∨ m.d.toNat < (w.group g).genmax) →
    ∃ t, Retires (.ldx m) s t ∧ SameFstat t w ∧
      RegFrame s t w (fun g r => g ∈ w.qual m.msk ∧ r = m.d.toNat) (fun _ _ => False) ∧
      ∀ g ∈ w.qual m.msk, g < w.team.groups.length → m.d ≠ 0 → ∀ j < 64, (w.eff m.msk g).getLsbD j = true →
        let k := ((w.v g m.b.toNat).lane j).toNat
        (t.vNow w g m.d.toNat).lane j =
          if m.any then (w.v g (m.a.toNat + k / 64)).lane (k % 64) else (w.v g (m.a.toNat + k)).lane j
/-- R128, R137: STX writes the table entries that the active lanes name, the highest lane last, and no other lane of the table. -/
def Sys2Proof.Claims.IndexedStore : Prop :=
  ∀ (m : IdxArgs) (s : State) (w : Who), tableOk m.d m.len = true → s.FragIssues w →
    (∀ g ∈ w.qual m.msk, ∀ j < 64, (w.eff m.msk g).getLsbD j = true →
      ((w.v g m.b.toNat).lane j).toNat < (if m.any then 64 * m.len.toNat else m.len.toNat)) →
    (∀ g ∈ w.qual m.msk, ∀ k < m.len.toNat, m.d.toNat + k = 0 ∨ m.d.toNat + k < (w.group g).genmax) →
    ∃ t, Retires (.stx m) s t ∧ SameFstat t w ∧
      RegFrame s t w (fun g r => g ∈ w.qual m.msk ∧ m.d.toNat ≤ r ∧ r < m.d.toNat + m.len.toNat) (fun _ _ => False) ∧
      ∀ g ∈ w.qual m.msk, g < w.team.groups.length → ∀ j < 64, (w.eff m.msk g).getLsbD j = true →
        let k := ((w.v g m.b.toNat).lane j).toNat
        (∀ h < 64, j < h → (w.eff m.msk g).getLsbD h = true → ((w.v g m.b.toNat).lane h).toNat ≠ k) →
        (m.any = false → m.d.toNat + k ≠ 0 → (t.vNow w g (m.d.toNat + k)).lane j = (w.v g m.a.toNat).lane j) ∧
        (m.any = true → m.d.toNat + k / 64 ≠ 0 →
          (t.vNow w g (m.d.toNat + k / 64)).lane (k % 64) = (w.v g m.a.toNat).lane j)
/-- R128, R230: an index at or above the table size is the register-index fault, with the lowest team lane that fails as INFO, and the
instruction has no effect. -/
def Sys2Proof.Claims.IndexFault : Prop :=
  ∀ (m : IdxArgs) (s : State) (w : Who) (g j : Nat), s.FragIssues w → g ∈ w.qual m.msk → j < 64 →
    (w.eff m.msk g).getLsbD j = true →
    (if m.any then 64 * m.len.toNat else m.len.toNat) ≤ ((w.v g m.b.toNat).lane j).toNat →
    (∀ h ∈ w.qual m.msk, ∀ k < 64, 64 * h + k < 64 * g + j → (w.eff m.msk h).getLsbD k = true →
      ((w.v h m.b.toNat).lane k).toNat < (if m.any then 64 * m.len.toNat else m.len.toNat)) →
    (tableOk m.a m.len = true → Traps (.ldx m) s w 0x07 (BitVec.ofNat 64 (64 * g + j))) ∧
    (tableOk m.d m.len = true → Traps (.stx m) s w 0x07 (BitVec.ofNat 64 (64 * g + j)))
/-- Indexed register moves. -/
def Obligations.IndexedMoves : Prop := Claims.IndexedLoad ∧ Claims.IndexedStore ∧ Claims.IndexFault

/-- The sources of the floating instructions whose result is NaN when one of them is NaN, with the type (R60, R73). -/
def Sys2Proof.Instr.nanSources : Instr → Option (FltTy × List (BitVec 11))
  | .fadd m | .fsub m | .fmul m => if m.g then none else some (m.ty, [m.a, m.b])
  | .ffma m => if m.g then none else some (m.ty, [m.a, m.b, m.c])
  | .fscl m => if m.g then none else some (m.ty, [m.a])
  | .frcp m | .frsq m | .fsqrt m | .fexp2 m | .flog2 m | .ftanh m | .frnd m => if m.g then none else some (m.ty, [m.a])
  | _ => none
/-- A lane holds a NaN code of the type in its low bits (R56 to R60). -/
def Sys2Proof.Machine.nanCode (t : FltTy) (x : Word) : Bool :=
  match t with
  | .f32 => x.extractLsb' 23 8 == 0xFF#8 && x.extractLsb' 0 23 != 0#23
  | .f16 => x.extractLsb' 10 5 == 0x1F#5 && x.extractLsb' 0 10 != 0#10
  | .bf16 => x.extractLsb' 7 8 == 0xFF#8 && x.extractLsb' 0 7 != 0#7
  | _ => false
/-- The canonical NaN (R60). -/
def Sys2Proof.Machine.nanWord (t : FltTy) : Word :=
  match t with
  | .f32 => 0x7FC00000
  | .f16 => 0x7E00
  | .bf16 => 0x7FC0
  | _ => 0
/-- R60, R73, R158 to R161: an active lane with a NaN source receives the canonical NaN of the type, whatever the other sources. -/
def Obligations.NanResults : Prop :=
  ∀ (i : Instr) (f : VecForm) (ty : FltTy) (srcs : List (BitVec 11)) (s : State) (w : Who), i.vecForm = some f →
    f.legal = true → i.nanSources = some (ty, srcs) → s.FragIssues w →
    (∀ g ∈ w.qual f.msk, f.d = 0 ∨ f.d < (w.group g).genmax) →
    ∃ t, Retires i s t ∧
      ∀ g ∈ w.qual f.msk, g < w.team.groups.length → f.d ≠ 0 → ∀ j < 64, (w.eff f.msk g).getLsbD j = true →
        ∀ r ∈ srcs, nanCode ty ((w.v g r.toNat).lane j) = true → (t.vNow w g f.d).lane j = nanWord ty

/-- The order of the values of a type that are not NaN, by their codes of `n` bits: −0 lies below +0 (R155). -/
def Sys2Proof.Machine.codeRank (n : Nat) (x : Word) : Int :=
  if x.getLsbD (n - 1) then -((x.toNat % 2 ^ (n - 1) : Nat) : Int) - 1 else (x.toNat % 2 ^ (n - 1) : Nat)
/-- R155: the result of FMIN, or of FMAX where `mx` is set. -/
def Sys2Proof.Machine.pickWord (t : FltTy) (mx : Bool) (x y : Word) : Word :=
  let n := if t = .f32 then 32 else 16
  let low (z : Word) : Word := BitVec.ofNat 32 (z.toNat % 2 ^ n)
  if nanCode t x then (if nanCode t y then nanWord t else low y)
  else if nanCode t y then low x
  else if (if mx then codeRank n x < codeRank n y else codeRank n y < codeRank n x) then low y else low x
/-- R155: FMIN and FMAX, in every lane and in the G form; they set no FSTAT bit. -/
def Obligations.MinMax : Prop :=
  ∀ (mx : Bool) (m : FMinArgs) (s : State) (w : Who), s.FragIssues w → fltTyOk m.ty = true →
    let i : Instr := if mx then .fmax m else .fmin m
    (m.g = false → (∀ g ∈ w.qual m.msk, m.d = 0 ∨ m.d.toNat < (w.group g).genmax) →
      ∃ t, Retires i s t ∧ SameFstat t w ∧ RegFrame s t w (fun g r => g ∈ w.qual m.msk ∧ r = m.d.toNat) (fun _ _ => False) ∧
        ∀ g ∈ w.qual m.msk, g < w.team.groups.length → m.d ≠ 0 → ∀ j < 64, (w.eff m.msk g).getLsbD j = true →
          (t.vNow w g m.d.toNat).lane j = pickWord m.ty mx ((w.v g m.a.toNat).lane j) ((w.v g m.b.toNat).lane j)) ∧
    (m.g = true → ∃ t, Retires i s t ∧ SameFstat t w ∧ RegFrame s t w (fun _ _ => False) (fun g r => g ∈ w.present ∧ r = m.d.toNat) ∧
      ∀ g ∈ w.present, g < w.team.groups.length → m.d ≠ 0 → t.sNow w g m.d.toNat =
        (pickWord m.ty mx ((w.s g m.a.toNat).setWidth 32) ((w.s g m.b.toNat).setWidth 32)).setWidth 64)

/-! ### Control flow -/

/-- A transfer target that may be taken (R21, R25, R96): the PC is valid, its line can be fetched, and its BT bit is set. -/
def Sys2Proof.Machine.TargetGood (s : State) (w : Who) (pc : DWord) : Prop :=
  pcValid pc = true ∧ ∃ l, s.fetch w.team.ctx (pcLine pc) = .line l ∧ lineBT l (pcSlot pc) = true
/-- No register. -/
def Sys2Proof.Machine.noReg : Nat → Nat → Prop := fun _ _ => False
/-- R37, R97: NOP, BRA and CALL: where the issuer goes on, and the link that CALL writes. -/
def Sys2Proof.Claims.PlainTransfers : Prop :=
  ∀ (s : State) (w : Who), s.Issuer w →
    (∃ t, Retires .nop s t ∧ SameFstat t w ∧ RegFrame s t w noReg noReg) ∧
    (∀ T, TargetGood s w (w.target T) →
      ∃ t, Retires (.bra T) s t ∧ SameFstat t w ∧ RegFrameAt s t w (w.target T) noReg noReg) ∧
    (∀ d T, TargetGood s w (w.target T) →
      ∃ t, Retires (.call d T) s t ∧ SameFstat t w ∧
        RegFrameAt s t w (w.target T) noReg (fun g r => (g ∈ w.present ∨ w.thr.isSome = true) ∧ r = d.toNat) ∧
        ∀ g ∈ w.present, g < w.team.groups.length → d ≠ 0 → t.sNow w g d.toNat = w.iss.next)
/-- R97: the lanes of group `g` that take a BRC. -/
def Sys2Proof.Machine.brcTakes (w : Who) (neg : Bool) (a : SReg) (msk : MaskField) (g : Nat) : Mask :=
  w.eff msk g &&& (if neg then ~~~w.s g a.toNat else w.s g a.toNat)
/-- R84, R97: BRC, BRX and RET where the active lanes all move to one place: the whole fragment moves, and nothing else changes. -/
def Sys2Proof.Claims.WholeTransfers : Prop :=
  ∀ (s : State) (w : Who), s.Issuer w →
    (∀ neg a T msk, (∀ g, brcTakes w neg a msk g = 0) →
      ∃ t, Retires (.brc neg a T msk) s t ∧ SameFstat t w ∧ RegFrame s t w noReg noReg) ∧
    (∀ neg a T msk, (∃ g, brcTakes w neg a msk g ≠ 0) → (∀ g, brcTakes w neg a msk g = w.eff msk g) → TargetGood s w (w.target T) →
      ∃ t, Retires (.brc neg a T msk) s t ∧ SameFstat t w ∧ RegFrameAt s t w (w.target T) noReg noReg) ∧
    (∀ a pc, (∃ g ∈ w.present, w.exec g ≠ 0) → (∀ g ∈ w.present, w.exec g ≠ 0 → w.s g a.toNat = pc) → TargetGood s w pc →
      ∃ t, Retires (.ret a) s t ∧ SameFstat t w ∧ RegFrameAt s t w pc noReg noReg) ∧
    (∀ a : SReg, (∀ g ∈ w.present, w.exec g = 0) →
      ∃ t, Retires (.ret a) s t ∧ SameFstat t w ∧ RegFrame s t w noReg noReg) ∧
    (∀ a msk pc, w.thr = none → a.toNat % 2 = 0 → (∃ g ∈ w.present, w.eff msk g ≠ 0) →
      (∀ g ∈ w.present, ∀ j < 64, (w.eff msk g).getLsbD j = true → w.pair g a j = pc) → TargetGood s w pc →
      ∃ t, Retires (.brx a msk) s t ∧ SameFstat t w ∧ RegFrameAt s t w pc noReg noReg)
/-- Transfers of the whole fragment. -/
def Obligations.Transfers : Prop := Claims.PlainTransfers ∧ Claims.WholeTransfers
/-- R84, R97: a BRC that some active lanes take and others do not splits the fragment, here with a split-table entry free: the taking lanes stand at the target, all other
lanes of the fragment at the next slot, each lane in a fragment of the team that holds no lane of the other part. -/
def Sys2Proof.Claims.BranchSplits : Prop :=
  ∀ (neg : Bool) (a : SReg) (T : Target) (msk : MaskField) (s : State) (w : Who), s.FragIssues w →
    (∃ g, brcTakes w neg a msk g ≠ 0) → (∃ g, brcTakes w neg a msk g ≠ w.eff msk g) → TargetGood s w (w.target T) →
    (s.freeEntry w.team.ctx w.team.core).isSome = true →
    ∃ t, Retires (.brc neg a T msk) s t ∧
      ∃ f ∈ (t.teamNow w).frags, ∃ h ∈ (t.teamNow w).frags, f.pc = w.target T ∧ h.pc = w.iss.next ∧
        f.cls = w.frag.cls ∧ h.cls = w.frag.cls ∧ f.link = w.frag.link ∧ h.link = w.frag.link ∧
        ∀ g < w.frag.m.length,
          maskAt f.m g = brcTakes w neg a msk g ∧ maskAt h.m g = maskAt w.frag.m g &&& ~~~brcTakes w neg a msk g
/-- R98: JOIN, with a split-table entry free, opens a frame at the top of the fragment's chain, with the lanes the fragment owns as its expected set. -/
def Sys2Proof.Claims.JoinOpensFrame : Prop :=
  ∀ (T : Target) (s : State) (w : Who), s.FragIssues w → TargetGood s w (w.target T) → w.team.frames.length < 512 →
    (s.freeEntry w.team.ctx w.team.core).isSome = true →
    ∃ t, Retires (.join T) s t ∧ (t.fragNow w).pc = w.iss.next ∧
      ∃ F ∈ (t.teamNow w).frames, F.pc = w.target T ∧ F.x = w.frag.m ∧ F.en = w.frag.e ∧ F.cls = w.frag.cls ∧
        F.link = w.frag.link ∧ (t.fragNow w).link = some F.num ∧ w.team.frameAt F.num = none
/-- R81, R230: a JOIN that would open a 513th frame takes the frame-overflow trap. -/
def Sys2Proof.Claims.JoinOverflow : Prop :=
  ∀ (T : Target) (s : State) (w : Who), s.FragIssues w → w.regioned = false → TargetGood s w (w.target T) →
    512 ≤ w.team.frames.length → Traps (.join T) s w 0x04 0
/-- Splits and frames. -/
def Obligations.Divergence : Prop := Claims.BranchSplits ∧ Claims.JoinOpensFrame ∧ Claims.JoinOverflow
/-- R99: EXIT ends the lanes of its effective mask; with none it goes on. -/
def Sys2Proof.Claims.ExitEndsLanes : Prop :=
  ∀ (msk : MaskField) (s : State) (w : Who), s.FragIssues w → w.frag.m.length = 16 →
    ∃ t, Retires (.exit msk) s t ∧
      ∀ g < w.team.groups.length, g < 16 →
        ((t.teamNow w).group g).exited = (w.team.group g).exited ||| w.eff msk g
/-- R100: EMSET and EMAND set the enable words of the present groups, and nothing else of the fragment but its PC. -/
def Sys2Proof.Claims.EnableWords : Prop :=
  ∀ (a : SReg) (s : State) (w : Who), s.FragIssues w →
    (∃ t, Retires (.emset a) s t ∧ OnlyTeam s t w ∧ SameGroups t w ∧ (t.fragNow w).m = w.frag.m ∧ (t.fragNow w).pc = w.iss.next ∧
      ∀ g < w.frag.e.length, maskAt (t.fragNow w).e g = if g ∈ w.present then w.s g a.toNat else maskAt w.frag.e g) ∧
    (∃ t, Retires (.emand a) s t ∧ OnlyTeam s t w ∧ SameGroups t w ∧ (t.fragNow w).m = w.frag.m ∧ (t.fragNow w).pc = w.iss.next ∧
      ∀ g < w.frag.e.length, maskAt (t.fragNow w).e g =
        if g ∈ w.present then maskAt w.frag.e g &&& w.s g a.toNat else maskAt w.frag.e g)
/-- R219, R221, R225: RGN and YIELD reach a safe point: the watchdog count starts again, and the limit is WATCHDOG, or DEADLINE × 256 after
a YIELD with a deadline; outside a region nothing else changes. -/
def Sys2Proof.Claims.SafePoints : Prop :=
  ∀ (n : BitVec 16) (s : State) (w : Who), s.FragIssues w →
    (∃ t, Retires .rgn s t ∧ (t.fragNow w).wdog = 0 ∧ (t.fragNow w).limit = w.team.kernel.watchdog ∧ (t.fragNow w).safe = true ∧
      (t.fragNow w).pc = w.iss.next ∧ (w.regioned = false → OnlyTeam s t w ∧ SameGroups t w)) ∧
    (∃ t, Retires (.yield n) s t ∧ (t.fragNow w).wdog = 0 ∧
      (t.fragNow w).limit = (if n = 0 then w.team.kernel.watchdog else n.toNat * 256) ∧ (t.fragNow w).safe = true ∧
      (t.fragNow w).pc = w.iss.next ∧ (w.regioned = false → OnlyTeam s t w ∧ SameGroups t w))
/-- R88: a ROLE that keeps its group's genmax, with a split-table entry free where it needs one, moves the group's lanes into a fragment of their own, at the target, with the class that it
names, age 0 and an empty frame chain, and writes 1. -/
def Obligations.RoleMovesGroup : Prop :=
  ∀ (r : RoleArgs) (s : State) (w : Who), s.FragIssues w → r.keep = true → r.grp.toNat ∈ w.present →
    r.grp.toNat < w.team.kernel.groups → TargetGood s w (w.target r.t) →
    (∀ st, (w.team.group r.grp.toNat).station = some st → st.base + st.n ≤ (w.team.group r.grp.toNat).genmax) →
    (w.present = [r.grp.toNat] ∨ (s.freeEntry w.team.ctx w.team.core).isSome = true) →
    ∃ t, Retires (.role r) s t ∧
      (r.d ≠ 0 → r.grp.toNat < w.team.groups.length → t.sNow w r.grp.toNat r.d.toNat = 1) ∧
      ∃ f ∈ (t.teamNow w).frags, f.pc = w.target r.t ∧ f.cls = r.cls.toNat ∧ f.age = 0 ∧ f.link = none ∧
        ∀ g < w.frag.m.length, maskAt f.m g = if g = r.grp.toNat then maskAt w.frag.m g else 0
/-- R90, R92: with no access of its own outstanding and no update-only line held on its core, a fragment that executes in one group arrives once at a barrier slot: BARA writes the
token, and the arrival completes the phase when it is the one needed; BARS arrives in the same way, then waits unless its arrival has
completed the phase (R91); BARW waits only while the phase equals the token (R91). -/
def Obligations.BarrierForms : Prop :=
  ∀ (d : SReg) (b : BitVec 4) (n : BitVec 11) (s : State) (w : Who) (g : Nat), s.FragIssues w → w.regioned = false →
    b.toNat < w.team.kernel.nb → b.toNat < w.team.bars.length → g < w.team.groups.length →
    (w.present.filter fun g => w.exec g != 0) = [g] → (∀ e ∈ s.update, e.core ≠ w.team.core) →
    let x := w.team.bar b.toNat
    let expect := if x.count = 0 then n.toNat else x.expect
    let full : Bool := decide (w.team.need expect ≤ x.count + 1)
    (s.accessesOut w = false →
      (∃ t, Retires (.bara d b n) s t ∧ OnlyTeam s t w ∧ (t.fragNow w).pc = w.iss.next ∧ (t.fragNow w).wait = w.frag.wait ∧
        (d ≠ 0 → t.sNow w g d.toNat = x.phase.setWidth 64) ∧
        (t.teamNow w).bar b.toNat =
          (if full then ⟨x.phase + 1, 0, expect⟩ else ⟨x.phase, x.count + 1, expect⟩)) ∧
      (∃ t, Retires (.bars d b n) s t ∧ OnlyTeam s t w ∧ (t.fragNow w).pc = w.iss.next ∧
        (d ≠ 0 → t.sNow w g d.toNat = x.phase.setWidth 64) ∧
        (t.fragNow w).wait = (if full then w.frag.wait else .barrier b.toNat [x.phase.setWidth 64]))) ∧
    (∃ t, Retires (.barw d b) s t ∧ OnlyTeam s t w ∧ SameGroups t w ∧ (t.fragNow w).pc = w.iss.next ∧
      (t.fragNow w).wait =
        (if x.phase.setWidth 64 = w.s g d.toNat then .barrier b.toNat [w.s g d.toNat] else w.frag.wait))

/-! ### Traps and returns -/

/-- R229: taking a trap: TRAPPC, CAUSE, INFO and RPC are recorded, the class becomes 3, the masks stay, and the fragment
continues at the trap entry; LOST is reported and cleared. In an unregioned kernel nothing outside the team changes. Model's
choice: notes/assumptions/25.md. -/
def Sys2Proof.Claims.TrapEntry : Prop :=
  ∀ (s : State) (w : Who) (cause : Nat) (info rpc : DWord), s.FragIssues w → w.frag.mode = .normal →
    w.team.kernel.trapEntry ≠ 0 → s.roundHeld w = false →
    let t := s.trapWho w cause info rpc
    (t.fragNow w).mode = .handler w.iss.pc cause (if w.team.lost then info ||| 0x8000000000000000 else info) rpc w.iss.slot w.frag.cls ∧
    (t.fragNow w).pc = w.team.kernel.image + BitVec.ofNat 64 w.team.kernel.trapEntry ∧ (t.fragNow w).cls = 3 ∧
    (t.fragNow w).m = w.frag.m ∧ (t.fragNow w).e = w.frag.e ∧ (t.teamNow w).lost = false ∧
    (w.team.kernel.regioned = false → OnlyTeam s t w ∧ SameGroups t w)
/-- R229: without a handler, or while one runs, a trap ends the team: every lane has exited and no fragment is left, with cause 0x41 in
the context's fault log, whose INFO is the first trap's cause. -/
def Sys2Proof.Claims.TrapEndsTeam : Prop :=
  ∀ (s : State) (w : Who) (cause : Nat) (info rpc : DWord), s.FragIssues w →
    (w.frag.mode = .normal → w.team.kernel.trapEntry = 0) → (∀ r o p, w.frag.mode ≠ .parked r o p) →
    s.roundHeld w = false →
    let t := s.trapWho w cause info rpc
    let first := match w.frag.mode with
      | .handler _ c _ _ _ _ => c
      | _ => cause
    (t.teamNow w).frags = [] ∧ (∀ g < w.team.groups.length, ((t.teamNow w).group g).exited = allLanes) ∧ t.mem = s.mem ∧
    t.host.faultLog = s.host.faultLog ++ [(w.team.ctx, w.team.id, 0x41, BitVec.ofNat 64 first, w.iss.pc)]
/-- R229, R231: TRAP takes the software trap with its code as INFO; RPC is the slot after it. -/
def Sys2Proof.Claims.SoftwareTrap : Prop :=
  ∀ (code : BitVec 8) (s : State) (w : Who), s.FragIssues w →
    exec (.trap code) s = .next (s.trapWho w 0x40 (code.setWidth 64) w.iss.next)
/-- Taking a trap. -/
def Obligations.TrapEntries : Prop := Claims.TrapEntry ∧ Claims.TrapEndsTeam ∧ Claims.SoftwareTrap
/-- R222, R223, R231: the returns. ERET.T leaves the handler for RPC, or for the address in s[A], with the class of before;
ERET.SAVE ends the save routine: the fragment stands at its safe point, saved by its routine; ERET.RST ends the restore routine:
the fragment goes on at its safe point, with s254 and s255 as they were. Model's choice: notes/assumptions/25.md. -/
def Sys2Proof.Claims.TrapReturns : Prop :=
  ∀ (s : State) (w : Who), s.FragIssues w →
    (∀ p c i r k cls (a : SReg), w.frag.mode = .handler p c i r k cls →
      (a = 0 ∨ TargetGood s w (w.s w.lowest a.toNat)) →
      ∃ t, Retires (.eretT a) s t ∧ OnlyTeam s t w ∧ SameGroups t w ∧ (t.fragNow w).mode = .normal ∧ (t.fragNow w).cls = cls ∧
        (t.fragNow w).pc = (if a = 0 then r else w.s w.lowest a.toNat) ∧ (t.fragNow w).m = w.frag.m) ∧
    (∀ pc rst cls lim olds late, w.frag.mode = .save pc rst cls lim olds late →
      ∃ t, Retires .eretSave s t ∧ OnlyTeam s t w ∧ SameGroups t w ∧ (t.fragNow w).mode = .parked (some rst) olds late ∧
        (t.fragNow w).pc = pc ∧ (t.fragNow w).cls = cls) ∧
    (∀ pc cls lim olds, w.frag.mode = .restore pc cls lim olds [] →
      ∃ t, Retires .eretRst s t ∧ OnlyTeam s t w ∧ (t.fragNow w).mode = .normal ∧ (t.fragNow w).pc = pc ∧ (t.fragNow w).cls = cls ∧
        ∀ g x y, olds = [(g, x, y)] → g < w.team.groups.length → t.sNow w g 254 = x ∧ t.sNow w g 255 = y)
/-- R30, R294: YIELDC goes on at its target at once when nothing that it names is outstanding: no copy or station write to its register
pair, or no operation on its flags. -/
def Sys2Proof.Claims.YieldContinues : Prop :=
  ∀ (T : Target) (s : State) (w : Who), s.FragIssues w → w.frag.wait = .ready → TargetGood s w (w.target T) →
    (∀ a : VReg11, a.toNat % 2 = 0 → (∀ o ∈ s.ops, o.team = w.team.id → o.writes = []) →
      ∃ t, Retires (.yieldcR a T) s t ∧ OnlyTeam s t w ∧ SameGroups t w ∧ (t.fragNow w).pc = w.target T) ∧
    (∀ fl : BitVec 12, (∀ o ∈ s.ops, o.team = w.team.id → o.flag = none) →
      ∃ t, Retires (.yieldcF fl T) s t ∧ OnlyTeam s t w ∧ SameGroups t w ∧ (t.fragNow w).pc = w.target T)
/-- Returning from a trap, and the yields. -/
def Obligations.Returns : Prop := Claims.TrapReturns ∧ Claims.YieldContinues
/-- R132, R134, R217, R219: GMOVS.WRF and GMOVS.CLF replace and clear bits of the committed FSTAT of the present groups, and
GMOVS.RDF reads it with what the fragments have yet to commit. -/
def Sys2Proof.Claims.FstatMoves : Prop :=
  ∀ (r : SReg) (s : State) (w : Who), s.FragIssues w →
    (∃ t, Retires (.gmovsWrf r) s t ∧
      ∀ g ∈ w.present, g < w.team.groups.length → ((t.teamNow w).group g).fstat = (w.s g r.toNat).setWidth 6) ∧
    (w.regioned = false → ∃ t, Retires (.gmovsClf r) s t ∧ OnlyTeam s t w ∧
      ∀ g < w.team.groups.length, ((t.teamNow w).group g).fstat =
        if g ∈ w.present then (w.team.group g).fstat &&& ~~~(w.s g r.toNat).setWidth 6 else (w.team.group g).fstat) ∧
    (w.iss.snap = none → ∃ t, Retires (.gmovsRdf r) s t ∧
      ∀ g ∈ w.present, g < w.team.groups.length → r ≠ 0 →
        t.sNow w g r.toNat = ((w.team.frags.filter fun f => maskAt f.m g != 0).foldl
          (fun b f => b ||| f.region.pend.getD g 0) (w.team.group g).fstat).setWidth 64)
/-- Enable words, safe points, and FSTAT by name. -/
def Obligations.StatusForms : Prop := Claims.EnableWords ∧ Claims.SafePoints ∧ Claims.FstatMoves

/-! ### Slabs -/

/-- R125 to R127, R133, R139: GEN above 128 breaks an operand limit; a REGGROW or REGGROW.NB that can be granted raises genmax of the present groups to 16 × GEN and writes
1; a REGGROW.NB that cannot writes 0 and changes no genmax; a REGGROW that cannot joins the arbiter's queue. Model's choice:
notes/assumptions/15.md. -/
def Sys2Proof.Claims.SlabGrowth : Prop :=
  ∀ (d : SReg) (gen : BitVec 8) (s : State) (w : Who), s.FragIssues w → w.regioned = false → w.frag.wait = .ready →
    let n := 16 * gen.toNat
    let need := w.team.growNeed w.present n
    let ok := (∀ g ∈ w.present, n ≤ (w.team.group g).genmax) ∨ (need ≤ s.freeSlabs w.team.ctx w.team.core ∧ s.growBlocked w.team.ctx w.team.core = false)
    (128 < gen.toNat → ∀ i ∈ [Instr.reggrow d gen, Instr.reggrowNb d gen, Instr.regshrink d gen], Traps i s w 0x01 5) ∧
    (gen.toNat ≤ 128 → ok → ∀ i ∈ [Instr.reggrow d gen, Instr.reggrowNb d gen], ∃ t, Retires i s t ∧ OnlyTeam s t w ∧
      (t.fragNow w).pc = w.iss.next ∧
      ∀ g < w.team.groups.length,
        ((t.teamNow w).group g).genmax =
          (if g ∈ w.present then max (w.team.group g).genmax n else (w.team.group g).genmax) ∧
        ((t.teamNow w).group g).v = (w.team.group g).v ∧ ((t.teamNow w).group g).fstat = (w.team.group g).fstat ∧
        ∀ r, t.sNow w g r = if g ∈ w.present ∧ r = d.toNat ∧ d ≠ 0 then 1 else w.s g r) ∧
    (gen.toNat ≤ 128 → ¬ ok → (∃ t, Retires (.reggrowNb d gen) s t ∧ OnlyTeam s t w ∧ (t.fragNow w).pc = w.iss.next ∧
        ∀ g < w.team.groups.length, ((t.teamNow w).group g).genmax = (w.team.group g).genmax ∧
          ((t.teamNow w).group g).v = (w.team.group g).v ∧ ((t.teamNow w).group g).fstat = (w.team.group g).fstat ∧
          ∀ r, t.sNow w g r = if g ∈ w.present ∧ r = d.toNat then 0 else w.s g r) ∧
      (∃ t, exec (.reggrow d gen) s = .next t ∧ t.last = .waited ∧ SameGroups t w ∧
        (t.fragNow w).wait = .grow n d s.nextGrow ∧ (t.fragNow w).pc = w.frag.pc))
/-- R125, R139: REGSHRINK, with no write outstanding, no register that a matrix step has still to read, and no station open, lowers genmax of the present groups to 16 × GEN at most, makes
the general registers that lose their storage uniform 0, and writes 1. -/
def Sys2Proof.Claims.SlabShrink : Prop :=
  ∀ (d : SReg) (gen : BitVec 8) (s : State) (w : Who), s.FragIssues w → w.regioned = false →
    gen.toNat ≤ 128 → (∀ o ∈ s.ops, o.team = w.team.id → o.writes = []) →
    (∀ g r, s.matrixReads w.team.id g r = false) → (∀ g, (w.team.group g).station = none) →
    ∃ t, Retires (.regshrink d gen) s t ∧ t.mem = s.mem ∧ t.ops = s.ops ∧ (t.fragNow w).pc = w.iss.next ∧
      (∀ k, k ≠ w.team.id → t.teamAt k = s.teamAt k) ∧
      ∀ g < w.team.groups.length,
        ((t.teamNow w).group g).genmax =
          (if g ∈ w.present then min (w.team.group g).genmax (16 * gen.toNat) else (w.team.group g).genmax) ∧
        ((t.teamNow w).group g).fstat = (w.team.group g).fstat ∧
        (∀ r, t.sNow w g r = if g ∈ w.present ∧ r = d.toNat ∧ d ≠ 0 then 1 else w.s g r) ∧
        ∀ r, t.vNow w g r =
          if g ∈ w.present ∧ 16 * gen.toNat ≤ r ∧ r < (w.team.group g).genmax ∧ ((w.team.group g).vget r).isGeneral = true
          then .uniform 0 else (w.team.group g).vget r
/-- Growing and shrinking genmax. -/
def Obligations.Slabs : Prop := Claims.SlabGrowth ∧ Claims.SlabShrink

/-! ### Clocks, identities, control registers -/

/-- R231 and R232: what IDRD reads outside a handler, by selector. -/
def Sys2Proof.Machine.Who.idItem (w : Who) (k : BitVec 16) (g : Nat) : Option DWord :=
  if k = 0 then some (BitVec.ofNat 64 g)
  else if k = 1 then some (BitVec.ofNat 64 w.team.number)
  else if k = 2 then some (BitVec.ofNat 64 w.team.cluster)
  else if k = 3 then some (BitVec.ofNat 64 w.team.unitX)
  else if k = 4 then some (BitVec.ofNat 64 w.team.unitY)
  else if k = 5 then some (BitVec.ofNat 64 w.team.unitZ)
  else if k = 6 then some (BitVec.ofNat 64 w.team.core)
  else if k = 7 then some (BitVec.ofNat 64 (w.team.core / 48))
  else if k = 8 then some (Config.pkg.setWidth 64)
  else if k = 9 then some (BitVec.ofNat 64 w.team.ctx)
  else match w.frag.mode with
    | .handler pc cause info rpc _ _ =>
      if k = 0x10 then some pc
      else if k = 0x11 then some (BitVec.ofNat 64 cause)
      else if k = 0x12 then some info
      else if k = 0x13 then some rpc
      else none
    | _ => none
/-- R227, R231, R232: CLKRD and IDRD outside deterministic mode, by selector; in deterministic mode CLKRD and the core and die
of IDRD read as 0 and set DETREAD. Model's choices: notes/assumptions/7.md, notes/assumptions/43.md. -/
def Sys2Proof.Claims.ClocksAndIdentities : Prop :=
  ∀ (d : SReg) (k : BitVec 16) (s : State) (w : Who), s.FragIssues w →
    (w.team.kernel.determ = false → ∀ v, (k = 0 ∧ v = BitVec.ofNat 64 s.cc) ∨ (k = 1 ∧ v = BitVec.ofNat 64 s.ns) ∨
        (k = 2 ∧ v = BitVec.ofNat 64 w.frag.retired) →
      ∃ t, Retires (.clkrd d k) s t ∧ SameFstat t w ∧ RegFrame s t w noReg (fun g r => g ∈ w.present ∧ r = d.toNat) ∧
        ∀ g ∈ w.present, g < w.team.groups.length → d ≠ 0 → t.sNow w g d.toNat = v) ∧
    (w.team.kernel.determ = false ∨ (k ≠ 6 ∧ k ≠ 7) → (∀ g, (w.idItem k g).isSome = true) →
      ∃ t, Retires (.idrd d k) s t ∧ SameFstat t w ∧ RegFrame s t w noReg (fun g r => g ∈ w.present ∧ r = d.toNat) ∧
        ∀ g ∈ w.present, g < w.team.groups.length → d ≠ 0 → w.idItem k g = some (t.sNow w g d.toNat)) ∧
    (w.team.kernel.determ = true → ∀ i, (i = .clkrd d k ∧ k.toNat ≤ 2) ∨ (i = .idrd d k ∧ (k = 6 ∨ k = 7)) →
      ∃ t, Retires i s t ∧ (t.teamNow w).detRead = true ∧
        ∀ g ∈ w.present, g < w.team.groups.length → t.sNow w g d.toNat = 0)
/-- R373, R380: ENRD outside deterministic mode: the team's counter, the account of the context, and the charge per unit of a
class on a die; it writes s[D] of the present groups alone. Model's choices: notes/assumptions/12.md, notes/assumptions/27.md. -/
def Sys2Proof.Claims.EnergyReads : Prop :=
  ∀ (d a : SReg) (sel : BitVec 16) (s : State) (w : Who), s.FragIssues w → sel.toNat ≤ 4 →
    ∃ t, Retires (.enrd d a sel) s t ∧
      (∀ g r, (g ∉ w.present ∨ r ≠ d.toNat) → t.sNow w g r = w.s g r) ∧ t.mem = s.mem ∧ t.ops = s.ops ∧
      (w.team.kernel.determ = false → RegFrame s t w noReg (fun g r => g ∈ w.present ∧ r = d.toNat) ∧
        ∀ g ∈ w.present, g < w.team.groups.length → d ≠ 0 →
          (sel = 0 → t.sNow w g d.toNat = BitVec.ofNat 64 (w.team.energy / 2 ^ 16)) ∧
          (sel = 1 → t.sNow w g d.toNat = cellGet 0 s.energy.total w.team.ctx) ∧
          (sel = 4 → 64 ≤ (w.s g a.toNat).toNat % 256 → t.sNow w g d.toNat = 0)) ∧
      (w.team.kernel.determ = true → (t.teamNow w).detRead = true ∧
        ∀ g ∈ w.present, g < w.team.groups.length → t.sNow w g d.toNat = 0)
/-- R393, R397: what CRD reads and CWR writes: DEVID and PKGINFO and the lease length of the own context read; the lease length
takes a value from 1 to 255 and ignores any other; any other selector breaks an operand limit. Model's choice:
notes/assumptions/11.md. -/
def Sys2Proof.Claims.ControlRegisters : Prop :=
  ∀ (d a : SReg) (sel : BitVec 16) (s : State) (w : Who), s.FragIssues w → w.team.ctx < 48 →
    (∀ v, (sel = 0 ∧ v.extractLsb' 0 16 = 0x4B51#16 ∧ s.crdRead w.team.ctx 0 = some v) ∨
        (sel = 1 ∧ v = BitVec.ofNat 64 (s.host.pkg % 64 + 64 * (s.host.nodes % 64))) ∨
        (sel.toNat = 0x200 + w.team.ctx ∧ v = cellGet 10 s.host.lease w.team.ctx) →
      ∃ t, Retires (.crd d sel) s t ∧ SameFstat t w ∧ RegFrame s t w noReg (fun g r => g ∈ w.present ∧ r = d.toNat) ∧
        ∀ g ∈ w.present, g < w.team.groups.length → d ≠ 0 → t.sNow w g d.toNat = v) ∧
    (sel.toNat = 0x200 + w.team.ctx →
      ∃ t, Retires (.cwr sel a) s t ∧ SameGroups t w ∧ (t.fragNow w).pc = w.iss.next ∧ t.mem = s.mem ∧ t.ops = s.ops ∧
        ∀ c, cellGet 10 t.host.lease c =
          if c = w.team.ctx ∧ 1 ≤ (w.s w.lowest a.toNat).toNat ∧ (w.s w.lowest a.toNat).toNat ≤ 255
          then w.s w.lowest a.toNat else cellGet 10 s.host.lease c) ∧
    (sel.toNat ≠ 0x200 + w.team.ctx → Traps (.cwr sel a) s w 0x01 5) ∧
    (0x4A0 ≤ sel.toNat ∧ sel.toNat < 0x2000 → Traps (.crd d sel) s w 0x01 5)
/-- Clocks, identities, energy and control registers. -/
def Obligations.SystemReads : Prop := Claims.ClocksAndIdentities ∧ Claims.EnergyReads ∧ Claims.ControlRegisters

/-! ### Tiles and the matrix array -/

/-- An instruction that adds one operation and moves the PC to the next slot: memory, the operations outstanding before, every other
team, and every register and FSTAT of the issuing team are as before. -/
def Sys2Proof.Machine.IssueFrame (s t : State) (w : Who) : Prop :=
  SameOutside s t w ∧ SameGroups t w ∧ (∀ g r, t.sNow w g r = w.s g r) ∧ (t.fragNow w).pc = w.iss.next
/-- R248, R251, R252: an operation waits for the earlier accesses of its threads that meet its bytes, for earlier acquires, and, where it
is a release of the colours `rel`, for all earlier reads and the earlier stores of those colours. -/
def Sys2Proof.Machine.AccessOrder (s : State) (w : Who) (o : Op) (rel : Option (BitVec 8)) : Prop :=
  ∀ p ∈ s.ops, p.mine w.team.id (w.thr.map fun x => x.group) w.frag.m = true →
    (accsMeet runsMeet p.kind.accs o.kind.accs = true ∨ (ordAcquires p.ord = true ∧ p.kind.reads = true) ∨
      (∃ km, rel = some km ∧ (p.kind.reads = true ∨ ∃ c, p.kind.storeCol = some c ∧ km.getLsbD c = true))) → p.id ∈ o.deps
/-- A tile instruction: its mask field, the tiles it names, its operand limits, the vector registers it will write, the tile whose
datapath it waits on, the command it queues, its flag, and the storage it will write. -/
structure Sys2Proof.Machine.TileForm where
  msk : MaskField
  tiles : List AReg
  legal : Bool
  dst : Option (Nat × Nat)
  home : AReg
  cmd : State → Nat → Who → TileCmd
  lf : Option Bool
  regs : Nat → List RegRef
/-- The tile instructions that act for their issuing group (R184 to R194). -/
def Sys2Proof.Instr.tileForm : Instr → Option TileForm
  | .aclr d anchor msk => some ⟨msk, [d], true, none, d, fun _ _ _ => .clear d.toNat anchor.toInt, none, fun _ => []⟩
  | .aadd d a msk => some ⟨msk, [d, a], true, none, d, fun _ _ _ => .add d.toNat a.toNat, none, fun _ => []⟩
  | .amov d a msk => some ⟨msk, [d, a], true, none, d, fun _ _ _ => .move d.toNat a.toNat, none, fun _ => []⟩
  | .scacc m => some ⟨m.msk, [m.d, m.a], true, none, m.d,
      fun _ g w => .scale m.d.toNat m.a.toNat m.fa m.fb (laneList.map (w.v g m.b.toNat).lane) (laneList.map (w.v g m.c.toNat).lane),
      none, fun _ => []⟩
  | .arslvi d msk => some ⟨msk, [d], true, none, d, fun _ _ _ => .canon d.toNat, none, fun _ => []⟩
  | .arslv m => some ⟨m.msk, [m.a], m.row.toNat + m.nrows.toNat ≤ 64 && m.d.toNat + m.nrows.toNat ≤ 2048,
      some (m.d.toNat, m.nrows.toNat), m.a, fun _ g w => .resolve g m w.regioned, none,
      fun g => (List.range m.nrows.toNat).map fun k => .v g (m.d.toNat + k)⟩
  | .acmp m => some ⟨m.msk, [m.a], m.row.toNat + m.nrows.toNat ≤ 64 && m.d.toNat + m.nrows.toNat ≤ 256, none, m.a,
      fun _ g w => .compare g m (laneList.map (w.v g m.b.toNat).lane), none,
      fun g => (List.range m.nrows.toNat).map fun k => .s g (m.d.toNat + k)⟩
  | .astat m => match m with
    | .t d a msk => some ⟨msk, [a], true, none, a, fun _ g _ => .stat g m, none, fun g => [.s g d.toNat]⟩
    | .r d a _ msk => some ⟨msk, [a], true, some (d.toNat, 1), a, fun _ g _ => .stat g m, none, fun g => [.v g d.toNat]⟩
  | .asave m => some ⟨m.msk, [m.acc], m.row.toNat + m.nrows.toNat ≤ 64, none, m.acc,
      fun s g w => .save g m.acc.toNat (w.s g m.b.toNat) m.row.toNat m.nrows.toNat (s.rowRuns w.team.ctx true (w.s g m.b.toNat) m.nrows.toNat), some m.lf, fun _ => []⟩
  | .aload m => some ⟨m.msk, [m.acc], m.row.toNat + m.nrows.toNat ≤ 64, none, m.acc,
      fun s g w => .load g m.acc.toNat (w.s g m.b.toNat) m.row.toNat m.nrows.toNat (s.rowRuns w.team.ctx false (w.s g m.b.toNat) m.nrows.toNat), some m.lf, fun _ => []⟩
  | _ => none
/-- R173: an operation waits for every earlier one of its team that writes a tile it reads or writes, or reads a tile it writes. -/
def Sys2Proof.Machine.TileOrder (s : State) (w : Who) (reads writes : List Nat) (o : Op) : Prop :=
  ∀ p ∈ s.ops, p.team = w.team.id →
    ((∃ k, RegRef.tile k ∈ p.writes ∧ (k ∈ reads ∨ k ∈ writes)) ∨ ∃ k ∈ p.kind.tileReads, k ∈ writes) → p.id ∈ o.deps
/-- R172 to R174, R184: a tile instruction that names tiles its team holds reads its registers and is queued on the datapath of its
tile's half, behind the operations of R173, and ASAVE and ALOAD behind those that their accesses follow (R194, R251); with no qualifying group it has no effect. -/
def Sys2Proof.Claims.TileOpsQueue : Prop :=
  ∀ (i : Instr) (f : TileForm) (s : State) (w : Who), i.tileForm = some f → f.legal = true → s.FragIssues w →
    (∀ a ∈ f.tiles, a.toNat < w.team.kernel.accTiles) →
    (w.qual f.msk = [] → ∃ t, Retires i s t ∧ SameFstat t w ∧ RegFrame s t w noReg noReg) ∧
    ∀ g rest, w.qual f.msk = g :: rest →
      (∀ p, f.dst = some p → ∀ k < p.2, p.1 + k = 0 ∨ p.1 + k < (w.group g).genmax) →
      ∃ t, Retires i s t ∧ IssueFrame s t w ∧
        ∃ o ∈ t.ops, s.nextOp ≤ o.id ∧ o.team = w.team.id ∧
          o.kind = .tile (f.cmd s g w) (if f.home.toNat < w.team.tiles0 then 0 else 1) ∧ o.flag = f.lf.bind w.flag ∧
          o.writes = (f.cmd s g w).writesTile.map RegRef.tile ++ f.regs g ∧
          TileOrder s w (f.cmd s g w).reads (f.cmd s g w).writesTile o ∧ (o.kind.accs ≠ [] → AccessOrder s w o none)
/-- R123, R172, R182, R184, R230: an instruction that names a tile its team does not hold takes the illegal-instruction trap with INFO 5,
and ARSLV or ASTAT.R into a register at or above genmax the shape fault. -/
def Sys2Proof.Claims.TileFaults : Prop :=
  ∀ (i : Instr) (f : TileForm) (s : State) (w : Who), i.tileForm = some f → s.FragIssues w →
    ((∃ a ∈ f.tiles, w.team.kernel.accTiles ≤ a.toNat) → Traps i s w 0x01 5) ∧
    (f.legal = true → (∀ a ∈ f.tiles, a.toNat < w.team.kernel.accTiles) →
      ∀ g rest p k, w.qual f.msk = g :: rest → f.dst = some p → k < p.2 → p.1 + k ≠ 0 → (w.group g).genmax ≤ p.1 + k →
        Traps i s w 0x06 (BitVec.ofNat 64 g))
/-- R173, R185: ASHIFT with no operation outstanding that writes its tile is queued when the new anchor lies in −512 to 511, and is the
anchor fault otherwise. -/
def Sys2Proof.Claims.TileShift : Prop :=
  ∀ (d : AReg) (n : BitVec 10) (msk : MaskField) (s : State) (w : Who) (g : Nat) (rest : List Nat), s.FragIssues w →
    d.toNat < w.team.kernel.accTiles → w.qual msk = g :: rest →
    (∀ o ∈ s.ops, o.team = w.team.id → RegRef.tile d.toNat ∉ o.writes) →
    let a := (w.team.tile d.toNat).anchor + n.toInt
    (-512 ≤ a ∧ a ≤ 511 → ∃ t, Retires (.ashift d n msk) s t ∧ IssueFrame s t w ∧
      ∃ o ∈ t.ops, o.team = w.team.id ∧ o.kind = .tile (.shift d.toNat n.toInt) (if d.toNat < w.team.tiles0 then 0 else 1) ∧
        o.writes = [.tile d.toNat] ∧ TileOrder s w [d.toNat] [d.toNat] o) ∧
    (a < -512 ∨ 511 < a → Traps (.ashift d n msk) s w 0x09 (BitVec.ofNat 64 d.toNat))
/-- Instructions queued on a tile datapath. -/
def Obligations.TileForms : Prop := Claims.TileOpsQueue ∧ Claims.TileFaults ∧ Claims.TileShift
/-- AROW and the packed dot products into a tile: mask field, tile, first row, operand limits, and what lane i of group g contributes. -/
structure Sys2Proof.Machine.ContribForm where
  msk : MaskField
  d : AReg
  row : BitVec 6
  legal : Who → Bool
  val : Who → Nat → Nat → Contribution
/-- The packed dot products into a tile (R165, R167). -/
def Sys2Proof.DotArgs.contrib (m : DotArgs) (op : Nat) : Option ContribForm :=
  match m.dst with
  | .vec .. => none
  | .acc d row => some ⟨m.msk, d, row, fun w => (dotTys op).contains m.ty && w.present.all fun g => row.toNat + g ≤ 63,
      fun w g i => contribOf (dotTerms m ((w.v g m.a.toNat).lane i).toNat ((w.v g m.b.toNat).lane i).toNat)⟩
/-- AROW (R187) and the packed dot products into a tile (R167). -/
def Sys2Proof.Instr.contribForm : Instr → Option ContribForm
  | .arow m => some ⟨m.msk, m.d, m.row, fun w => (w.qual m.msk).all fun g => m.row.toNat + g ≤ 63,
      fun w g i => contribOf [.val (packedVal m.ty 0 ((w.v g m.a.toNat).lane i).toNat)]⟩
  | .dotq m => m.contrib 0x73
  | .dotx m => m.contrib 0x74
  | .dotb m => m.contrib 0x75
  | .doth m => m.contrib 0x76
  | _ => none
/-- R165 to R167, R187: AROW and a packed dot product into a tile add, for lane i of group g, one contribution to element (ROW + g, i),
through the datapath of the tile's half. -/
def Sys2Proof.Claims.ContributionsQueue : Prop :=
  ∀ (i : Instr) (f : ContribForm) (s : State) (w : Who), i.contribForm = some f → f.legal w = true → s.FragIssues w →
    f.d.toNat < w.team.kernel.accTiles →
    (w.qual f.msk = [] → ∃ t, Retires i s t ∧ SameFstat t w ∧ RegFrame s t w noReg noReg) ∧
    (w.qual f.msk ≠ [] → ∃ t, Retires i s t ∧ IssueFrame s t w ∧
      ∃ o ∈ t.ops, ∃ items, o.team = w.team.id ∧
        o.kind = .tile (.contrib f.d.toNat items) (if f.d.toNat < w.team.tiles0 then 0 else 1) ∧
        o.writes = [.tile f.d.toNat] ∧ TileOrder s w [f.d.toNat] [f.d.toNat] o ∧
        ∀ x, x ∈ items ↔ ∃ g ∈ w.qual f.msk, ∃ j < 64, (w.eff f.msk g).getLsbD j = true ∧ x = (f.row.toNat + g, j, f.val w g j))
/-- MMA as MMLOOP with one step (R186): arguments, steps, and the distance between B operands. -/
def Sys2Proof.Instr.matrixForm : Instr → Option (MmaArgs × Nat × Nat)
  | .mma m => some (m, 1, 0)
  | .mmloop m count inc => some (m, count.toNat + 1, 2 * inc.toNat)
  | _ => none
/-- R176, R178, R180, R182, R186: MMA and MMLOOP join the queue of each half of the array that they run on, when none holds five
operations, and wait otherwise. Model's choice: notes/assumptions/15.md. -/
def Sys2Proof.Claims.MatrixOpsQueue : Prop :=
  ∀ (i : Instr) (m : MmaArgs) (count inc : Nat) (s : State) (w : Who) (g : Nat) (rest : List Nat),
    i.matrixForm = some (m, count, inc) → s.FragIssues w → m.d.toNat < w.team.kernel.accTiles → m.a.toNat % 2 = 0 →
    m.a.toNat + (count - 1) * inc + 1 ≤ 2047 → w.qual m.msk = g :: rest → g / 4 * 4 + 3 < w.team.kernel.groups →
    (w.team.kernel.mhalves = 2 ∨ (w.team.kernel.mhalves = 1 ∧ m.m32.isSome = true)) →
    let hs := match m.m32 with
      | none => [0, 1]
      | some rowh => if w.team.kernel.mhalves = 2 then [rowh.toNat] else w.team.halves.take 1
    ((∀ h ∈ hs, (s.matrixQueue w.team.core h).length < 5) →
      ∃ t, Retires i s t ∧ IssueFrame s t w ∧
        ∃ o ∈ t.ops, o.team = w.team.id ∧ o.flag = w.flag m.lf ∧ o.writes = [.tile m.d.toNat] ∧
          TileOrder s w [m.d.toNat] [m.d.toNat] o ∧
          o.kind = .matrix { group := g, tile := m.d.toNat, base := m.a.toNat, queue := m.b.toNat, count := count, inc := inc,
                             rowh := m.m32.map Bool.toNat, halves := hs, ty := m.ty, partner := m.partner, done := 0,
                             ended := false }) ∧
    ((∃ h ∈ hs, 5 ≤ (s.matrixQueue w.team.core h).length) →
      ∃ t, exec i s = .next t ∧ t.last = .waited ∧ SameGroups t w ∧ t.ops = s.ops ∧ (t.fragNow w).pc = w.frag.pc)
/-- Contributions and matrix operations. -/
def Obligations.MatrixForms : Prop := Claims.ContributionsQueue ∧ Claims.MatrixOpsQueue

/-! ### Operand queues -/

/-- Queue q of a group of the issuing team in a later state. -/
def Sys2Proof.Machine.State.queueNow (t : State) (w : Who) (g q : Nat) : Queue := ((t.teamNow w).group g).queue q
/-- Every queue but q of the groups `gs`, the FSTAT words, and everything outside the team are as before. -/
def Sys2Proof.Machine.QueueFrame (s t : State) (w : Who) (gs : List Nat) (q : Nat) : Prop :=
  t.mem = s.mem ∧ (∀ k, k ≠ w.team.id → t.teamAt k = s.teamAt k) ∧ (t.fragNow w).pc = w.iss.next ∧
  (∀ g, ((t.teamNow w).group g).genmax = (w.team.group g).genmax ∧ ((t.teamNow w).group g).fstat = (w.team.group g).fstat) ∧
  ∀ g k, (g ∉ gs ∨ k ≠ q) → t.queueNow w g k = (w.team.group g).queue k
/-- R198, R208: QDEF defines the queue of each present group afresh and writes 1 when the queue holds no record and no stream and the
records can be had, and writes 0 otherwise. -/
def Sys2Proof.Claims.QueueDefinition : Prop :=
  ∀ (d : SReg) (q : QReg) (n : BitVec 5) (st : Bool) (s : State) (w : Who) (g : Nat), s.Issuer w → w.regioned = false →
    w.present = [g] → g < w.team.groups.length → (w.team.group g).queues.length = 8 →
    let x := (w.team.group g).queue q.toNat
    let ok := x.recs = [] ∧ s.streamsOf w.team.id g q.toNat = [] ∧
      64 * n.toNat - x.depth ≤ s.freeRecords w.team.ctx w.team.core
    ∃ t, Retires (.qdef d q n st) s t ∧ QueueFrame s t w [g] q.toNat ∧ SameFstat t w ∧ t.ops = s.ops ∧
      (∀ h r, t.vNow w h r = (w.team.group h).vget r) ∧ (∀ h r, r ≠ d.toNat → t.sNow w h r = w.s h r) ∧
      (w.thr = none → ∀ h r, h ≠ g → t.sNow w h r = w.s h r) ∧
      (ok → (d ≠ 0 → t.sNow w g d.toNat = 1) ∧
        let y := t.queueNow w g q.toNat
        y.depth = 64 * n.toNat ∧ y.store = st ∧ y.fault = false ∧ y.recs = [] ∧
        (x.depth ≤ 64 * n.toNat → y.rec0 = x.rec0 + min (64 * n.toNat - x.depth) (s.freeRecordsIn w.team.ctx w.team.core 0))) ∧
      (¬ ok → t.sNow w g d.toNat = 0 ∧ t.queueNow w g q.toNat = x)
/-- R199, R209: QPOP with eight records in the queue of each qualifying group removes them, and word k of record j goes to lane 8 j + k
of v[D]. -/
def Sys2Proof.Claims.QueuePop : Prop :=
  ∀ (d : VReg11) (q : QReg) (msk : MaskField) (s : State) (w : Who), s.FragIssues w →
    (∀ g ∈ w.qual msk, d = 0 ∨ d.toNat < (w.group g).genmax) →
    (∀ g ∈ w.qual msk, let x := (w.team.group g).queue q.toNat
      x.depth ≠ 0 ∧ x.store = false ∧ 8 ≤ x.recs.length ∧ s.matrixPops w.team.id g q.toNat = false) →
    ∃ t, Retires (.qpop d q msk) s t ∧ QueueFrame s t w (w.qual msk) q.toNat ∧
      (∀ g r, (g ∉ w.qual msk ∨ r ≠ d.toNat) → t.vNow w g r = (w.team.group g).vget r) ∧
      (∀ g r, t.sNow w g r = w.s g r) ∧ (∀ o ∈ s.ops, o ∈ t.ops) ∧
      ∀ g ∈ w.qual msk, g < w.team.groups.length → (w.team.group g).queues.length = 8 →
        let rs := ((w.team.group g).queue q.toNat).recs
        (t.queueNow w g q.toNat).recs = rs.drop 8 ∧
        (d ≠ 0 → ∀ j < 64, (w.eff msk g).getLsbD j = true → ∀ r, rs[j / 8]? = some r →
          (t.vNow w g d.toNat).lane j = r.data.extractLsb' (32 * (j % 8)) 32)
/-- R209: QPUSH with room for eight records in the queue of each qualifying group appends them: word k of record j is lane 8 j + k of
v[A], all 64 lanes whatever the mask. -/
def Sys2Proof.Claims.QueuePush : Prop :=
  ∀ (q : QReg) (a : VReg11) (msk : MaskField) (s : State) (w : Who), s.FragIssues w →
    (∀ g ∈ w.qual msk, let x := (w.team.group g).queue q.toNat
      x.depth ≠ 0 ∧ x.store = true ∧ x.recs.length + 8 ≤ x.depth) →
    ∃ t, Retires (.qpush q a msk) s t ∧ QueueFrame s t w (w.qual msk) q.toNat ∧
      (∀ g r, t.vNow w g r = (w.team.group g).vget r) ∧ (∀ g r, t.sNow w g r = w.s g r) ∧ (∀ o ∈ s.ops, o ∈ t.ops) ∧
      ∀ g ∈ w.qual msk, g < w.team.groups.length → (w.team.group g).queues.length = 8 →
        let rs := ((w.team.group g).queue q.toNat).recs
        (t.queueNow w g q.toNat).recs.take rs.length = rs ∧ (t.queueNow w g q.toNat).recs.length = rs.length + 8 ∧
        ∀ j < 64, ∀ r, (t.queueNow w g q.toNat).recs[rs.length + j / 8]? = some r →
          r.data.extractLsb' (32 * (j % 8)) 32 = (w.v g a.toNat).lane j
/-- R199, R200, R209: a QPOP from a store queue or a QPUSH to a load queue is the direction fault; with no record or room, no stream that
could bring it and no access thread running, it is the underflow or overflow fault. -/
def Sys2Proof.Claims.QueueFaults : Prop :=
  ∀ (q : QReg) (r : VReg11) (msk : MaskField) (s : State) (w : Who) (g : Nat), s.FragIssues w → w.qual msk = [g] →
    r.toNat < (w.group g).genmax →
    let x := (w.team.group g).queue q.toNat
    let info := BitVec.ofNat 64 q.toNat
    (x.depth ≠ 0 → x.store = true → Traps (.qpop r q msk) s w 0x13 info) ∧
    (x.depth ≠ 0 → x.store = false → Traps (.qpush q r msk) s w 0x13 info) ∧
    (w.team.threads = [] → s.ops = [] →
      (x.store = false → x.recs.length < 8 → Traps (.qpop r q msk) s w 0x10 info) ∧
      (x.store = true → x.depth < x.recs.length + 8 → Traps (.qpush q r msk) s w 0x11 info))
/-- Popping, pushing, and their faults. -/
def Obligations.QueueMoves : Prop := Claims.QueuePop ∧ Claims.QueuePush ∧ Claims.QueueFaults
/-- R203, R211: QDRAIN.DISC cancels the QLD streams of the queue, discards its records and clears FAULT; QDRAIN.FLUSH, once the queue
holds no record and no stream, clears FAULT. -/
def Sys2Proof.Claims.QueueDrain : Prop :=
  ∀ (q : QReg) (s : State) (w : Who) (g : Nat), s.Issuer w → w.regioned = false → w.present = [g] →
    g < w.team.groups.length → (w.team.group g).queues.length = 8 →
    (∃ t, Retires (.qdrainDisc q) s t ∧ QueueFrame s t w [g] q.toNat ∧
      (∀ h r, t.vNow w h r = (w.team.group h).vget r ∧ t.sNow w h r = w.s h r) ∧
      (t.queueNow w g q.toNat).recs = [] ∧ (t.queueNow w g q.toNat).fault = false ∧
      (t.queueNow w g q.toNat).depth = ((w.team.group g).queue q.toNat).depth ∧
      ∀ o ∈ t.streamsOf w.team.id g q.toNat, ∀ st, o.kind = .stream st → st.store = true) ∧
    (((w.team.group g).queue q.toNat).recs = [] → s.streamsOf w.team.id g q.toNat = [] →
      ∃ t, Retires (.qdrainFlush q) s t ∧ QueueFrame s t w [g] q.toNat ∧ t.ops = s.ops ∧
        (∀ h r, t.vNow w h r = (w.team.group h).vget r ∧ t.sNow w h r = w.s h r) ∧
        t.queueNow w g q.toNat = { (w.team.group g).queue q.toNat with fault := false })
/-- Defining and draining a queue. -/
def Obligations.QueueControl : Prop := Claims.QueueDefinition ∧ Claims.QueueDrain
/-- QLD and QST, with the direction. -/
def Sys2Proof.Instr.streamForm : Instr → Option (StreamArgs × Bool)
  | .qld m => some (m, false)
  | .qst m => some (m, true)
  | _ => none
/-- R201, R202, R212, R287: QLD and QST, on an access thread, begin a stream with the descriptor in s[A], s[B] and s[C]: record k lies at
base + (k mod N1) ST1 + (k / N1) ST2; a stream of no records does nothing. -/
def Sys2Proof.Claims.StreamsBegin : Prop :=
  ∀ (i : Instr) (m : StreamArgs) (st : Bool) (s : State) (w : Who) (g : Nat), i.streamForm = some (m, st) → s.Issuer w →
    w.thr.isSome = true → w.present = [g] →
    let x := (w.team.group g).queue m.q.toNat
    let c := w.s g m.c.toNat
    let n := (c.extractLsb' 0 32).toNat
    c.extractLsb' 48 16 = 0 → n ≤ 2 ^ 24 → (x.depth = 0 ∨ x.store = st) → (s.streamsOf w.team.id g m.q.toNat).length < 4 →
    (n = 0 → ∃ t, Retires i s t ∧ IssueFrame s t w ∧ t.ops = s.ops) ∧
    (n ≠ 0 → let y := s.streamItems w.team.ctx (w.stream m st g) n 0
      s.locksUsed + (s.streamOp w m { w.stream m st g with items := y.1 } y.2).locks.length ≤ Config.rangeLocks →
      ∃ t, Retires i s t ∧ IssueFrame s t w ∧
        ∃ o ∈ t.ops, ∃ y, o.team = w.team.id ∧ o.kind = .stream y ∧ o.flag = w.flag m.lf ∧ o.thread = w.thr.map (fun z => z.group) ∧
          y.group = g ∧ y.queue = m.q.toNat ∧ y.store = st ∧ y.n = n ∧ y.next = 0 ∧ y.w24 = m.w24 ∧ y.col = m.col.toNat ∧
          o.scope = m.scope ∧ AccessOrder s w o (if st = true ∧ m.ordered = true then some 0xFF else none) ∧
          ∀ k < n, y.addr k =
            let n1 := if (c.extractLsb' 32 16).toNat = 0 then n else (c.extractLsb' 32 16).toNat
            let b := w.s g m.b.toNat
            (BitVec.ofInt 64 (((w.s g m.a.toNat + m.off.signExtend 64).toNat : Int) + (k % n1 : Nat) * (b.extractLsb' 0 32).toInt +
              (k / n1 : Nat) * (b.extractLsb' 32 32).toInt)).toNat)
/-- R201, R203, R230: a descriptor with reserved bits or more than 2²⁴ records is the descriptor fault, a queue of the other direction the
direction fault; R196: an access thread takes them as imprecise faults. -/
def Sys2Proof.Claims.StreamFaults : Prop :=
  ∀ (i : Instr) (m : StreamArgs) (st : Bool) (s : State) (w : Who), i.streamForm = some (m, st) → s.Issuer w →
    w.thr.isSome = true →
    let x := (w.team.group w.lowest).queue m.q.toNat
    let c := w.s w.lowest m.c.toNat
    (c.extractLsb' 48 16 ≠ 0 ∨ 2 ^ 24 < (c.extractLsb' 0 32).toNat → Traps i s w 0x14 (BitVec.ofNat 64 m.q.toNat)) ∧
    (c.extractLsb' 48 16 = 0 → (c.extractLsb' 0 32).toNat ≤ 2 ^ 24 → x.depth ≠ 0 → x.store ≠ st →
      Traps i s w 0x13 (BitVec.ofNat 64 m.q.toNat))
/-- Streams of an access thread. -/
def Obligations.Streams : Prop := Claims.StreamsBegin ∧ Claims.StreamFaults

/-! ### Memory -/

/-- R241, R242, R246: the checks of one access in their order: alignment, translation, permission and space, bounds and path, MIG. -/
def Sys2Proof.Claims.AddressChecks : Prop :=
  ∀ (s : State) (c : Nat) (k : AccKind) (al va : Nat),
    (va % al ≠ 0 → s.check c k al va = .fault 0x22) ∧
    (va % al = 0 → 2 ^ 52 ≤ va → s.check c k al va = .fault 0x20) ∧
    (va % al = 0 → s.walk c va = none → s.check c k al va = .fault 0x20) ∧
    ∀ l, va % al = 0 → s.walk c va = some l →
      (l.allows k = false ∨ spaceAllows l.space (natBits va 51 1 == 1) k = false ∨ s.inBounds c l.space l.off = false →
        s.check c k al va = .fault 0x21) ∧
      (s.check c k al va = .mig → natBits l.e 12 1 = 1) ∧
      ∀ key x, s.check c k al va = .ok key x → x = l ∧ key = l.key ∧ natBits l.e 12 1 = 0 ∧ l.allows k = true
/-- R237 to R239: a walk that finds a leaf ends at a valid leaf entry that is not malformed, and an address above 2⁵² has none. -/
def Sys2Proof.Claims.WalkEnds : Prop :=
  ∀ (s : State) (c va : Nat),
    (2 ^ 52 ≤ va → s.walk c va = none) ∧
    ∀ l, s.walk c va = some l → l.va = va ∧ natBits l.e 0 1 = 1 ∧ natBits l.e 1 1 = 1 ∧ l.lvl ≤ 2 ∧
      s.malformed c (natBits va 51 1 == 1) l.lvl l.e = false
/-- The checks of an address, and the table walk. -/
def Obligations.Addresses : Prop := Claims.AddressChecks ∧ Claims.WalkEnds
/-- R267: the address of lane i of group g in a vector form, and of a group in a G form. -/
def Sys2Proof.Machine.Who.address (w : Who) (gf : Bool) (a c : VReg11) (off : BitVec 17) (g i : Nat) : DWord :=
  if gf then w.s g a.toNat + w.s g c.toNat + off.signExtend 64
  else w.s g 3 + ((w.v g a.toNat).lane i).setWidth 64 + ((w.v g c.toNat).lane i).signExtend 64 + off.signExtend 64
/-- R251, R267 to R269, R271: LD whose accesses all pass their checks issues one operation with the physical bytes of every lane and
goes on; its destination is written when it performs. With no active lane it has no effect. -/
def Obligations.LoadIssues : Prop :=
  ∀ (m : LdArgs) (s : State) (w : Who) (l : List (Want × List (Nat × Nat))), s.Issuer w → (m.g = true ∨ w.thr = none) →
    memRegOk m.g m.ty m.d = true →
    s.checkAll w.team.ctx .load m.ty (w.wants m.g true m.msk m.a (some m.c) m.off) = .ok l →
    (m.g = false → ∀ g ∈ w.qual m.msk, ∀ k < memRegs (memBytes m.ty), m.d.toNat + k = 0 ∨ m.d.toNat + k < (w.group g).genmax) →
    (l = [] → ∃ t, Retires (.ld m) s t ∧ SameFstat t w ∧ RegFrame s t w noReg noReg) ∧
    (l ≠ [] → ∃ t, Retires (.ld m) s t ∧ IssueFrame s t w ∧
      ∃ o ∈ t.ops, ∃ gs lanes, o.id = s.nextOp ∧ o.team = w.team.id ∧ o.kind = .load m.g m.d.toNat m.ty gs lanes ∧
        o.flag = w.flag m.lf ∧ o.scope = m.scope ∧ o.ord = m.ord ∧ AccessOrder s w o none ∧
        gs.map (fun x => (x.g, x.eff)) = (w.qual m.msk).map (fun g => (g, w.eff m.msk g)) ∧
        lanes.map (fun x => (x.g, x.lane, x.va, x.segs)) = l.map (fun x => (x.1.g, x.1.lane, x.1.va, x.2)) ∧
        ∀ x ∈ lanes, x.va = w.address m.g m.a m.c m.off x.g x.lane)
/-- R252, R267 to R269, R272: ST outside the region buffer, whose accesses all pass, issues one operation with the bytes of every lane and
goes on; memory changes when it performs. -/
def Sys2Proof.Claims.StoreIssues : Prop :=
  ∀ (m : StArgs) (s : State) (w : Who) (l : List (Want × List (Nat × Nat))), s.FragIssues w → w.regioned = false →
    memRegOk m.g m.ty m.b = true →
    s.checkAll w.team.ctx .store m.ty (w.wants m.g true m.msk m.a (some m.c) m.off) = .ok l →
    (ordReleases m.ord = true → s.update = []) →
    (l = [] → ∃ t, Retires (.st m) s t ∧ SameFstat t w ∧ RegFrame s t w noReg noReg) ∧
    (l ≠ [] → ∃ t, Retires (.st m) s t ∧ IssueFrame s t w ∧
      ∃ o ∈ t.ops, ∃ lanes, o.id = s.nextOp ∧ o.team = w.team.id ∧ o.kind = .store lanes m.col.toNat ∧ o.flag = w.flag m.lf ∧
        o.scope = m.scope ∧ o.ord = m.ord ∧ AccessOrder s w o (if ordReleases m.ord then some m.km else none) ∧
        lanes.map (fun x => (x.g, x.lane, x.va, x.segs)) = l.map (fun x => (x.1.g, x.1.lane, x.1.va, x.2)) ∧
        ∀ x ∈ lanes, x.va = w.address m.g m.a m.c m.off x.g x.lane ∧
          (m.g = false → memBytes m.ty ≤ 4 →
            x.val = ((w.v x.g m.b.toNat).lane x.lane).toNat % 256 ^ memBytes m.ty) ∧
          (m.g = true → memBytes m.ty ≤ 8 → x.val = (w.s x.g m.b.toNat).toNat % 256 ^ memBytes m.ty))
/-- R217, R218: a relaxed ST in an open region with room in the buffer puts its bytes there, the later of two to one byte remaining;
memory and the outstanding operations are as before. -/
def Sys2Proof.Claims.StoreBuffers : Prop :=
  ∀ (m : StArgs) (s : State) (w : Who) (l : List (Want × List (Nat × Nat))), s.FragIssues w → w.regioned = true →
    m.ord = .rlx → w.frag.region.pinned = false → memRegOk m.g m.ty m.b = true →
    s.checkAll w.team.ctx .store m.ty (w.wants m.g true m.msk m.a (some m.c) m.off) = .ok l →
    (∀ h < 2, s.bufUsed w.team.core h + (l.map fun x => (runKeys x.2).length).sum ≤ Config.bufPerHalf) →
    ∃ t, Retires (.st m) s t ∧ IssueFrame s t w ∧ SameFstat t w ∧ t.ops = s.ops ∧
      ∀ pre x post i k, l = pre ++ x :: post → (runKeys x.2)[i]? = some k → k ∉ (runKeys x.2).drop (i + 1) →
        (∀ y ∈ post, k ∉ runKeys y.2) →
        let v := BitVec.ofNat 8 (w.dataNat m.g x.1.g (memBytes m.ty) m.b x.1.lane / 256 ^ i)
        (bufForward (t.fragNow w).region.buf [(k, 1)]).getLast? = some (k, v) ∧
        ∃ b ∈ (t.fragNow w).region.buf, b.sector = k / 32 ∧ b.col = m.col.toNat ∧ b.scope = m.scope ∧ b.pc = w.iss.pc ∧
          ∃ y ∈ b.bytes, y.off = k % 32 ∧ y.va = x.1.va ∧ y.val = v
/-- Stores as they issue, and as a region buffers them. -/
def Obligations.Stores : Prop := Claims.StoreIssues ∧ Claims.StoreBuffers
/-- R252, R267 to R269, R273, R277: ATOM whose accesses all pass issues one operation with operand and compare value of every lane; an
ordered one holds back what follows it. -/
def Obligations.AtomIssues : Prop :=
  ∀ (m : AtomArgs) (s : State) (w : Who) (l : List (Want × List (Nat × Nat))), s.Issuer w → w.regioned = false →
    (m.g = true ∨ w.thr = none) → memRegOk m.g (.ty m.ty) m.d = true → memRegOk m.g (.ty m.ty) m.b = true →
    (∀ c, m.op = .cas c → memRegOk m.g (.ty m.ty) c = true) →
    s.checkAll w.team.ctx .atomic (.ty m.ty) (w.wants m.g false m.msk m.a none m.off) = .ok l →
    (m.g = false → ∀ g ∈ w.qual m.msk, ∀ k < memRegs (tyWidth m.ty / 8), m.d = 0 ∨ m.d.toNat + k < (w.group g).genmax) →
    (ordReleases m.ord = true → s.update = []) →
    (l = [] → ∃ t, Retires (.atom m) s t ∧ SameFstat t w ∧ RegFrame s t w noReg noReg) ∧
    (l ≠ [] → ∃ t, Retires (.atom m) s t ∧ IssueFrame s t w ∧
      ((t.fragNow w).hold = if m.ord = .rlx then w.frag.hold else w.frag.hold ++ [s.nextOp]) ∧
      ∃ o ∈ t.ops, ∃ gs lanes, o.id = s.nextOp ∧ o.team = w.team.id ∧
        o.kind = .atom m.g m.op.code.toNat (tySigned m.ty) m.ty m.d.toNat gs lanes false ∧ o.flag = w.flag m.lf ∧
        o.scope = m.scope ∧ o.ord = m.ord ∧ AccessOrder s w o (if ordReleases m.ord then some 0xFF else none) ∧
        lanes.map (fun x => (x.g, x.lane, x.va, x.segs)) = l.map (fun x => (x.1.g, x.1.lane, x.1.va, x.2)) ∧
        ∀ x ∈ lanes, x.va = w.address m.g m.a 0 m.off x.g x.lane ∧ x.val = w.dataNat m.g x.g (tyWidth m.ty / 8) m.b x.lane ∧
          ∀ c, m.op = .cas c → x.cmp = w.dataNat m.g x.g (tyWidth m.ty / 8) c x.lane)
/-- R242, R261: when a check of an access of LD, ST or ATOM fails, the instruction takes the fault of the first access that
fails, with its address as INFO, and makes no access; a byte in a locked range is cause 0x23. Model's choice:
notes/assumptions/35.md. -/
def Obligations.AccessFaults : Prop :=
  ∀ (s : State) (w : Who) (cause : Nat) (va : DWord), s.FragIssues w → w.regioned = false →
    (∀ m : LdArgs, memRegOk m.g m.ty m.d = true →
      s.checkAll w.team.ctx .load m.ty (w.wants m.g true m.msk m.a (some m.c) m.off) = .fault cause va →
      Traps (.ld m) s w cause va) ∧
    (∀ m : StArgs, memRegOk m.g m.ty m.b = true →
      s.checkAll w.team.ctx .store m.ty (w.wants m.g true m.msk m.a (some m.c) m.off) = .fault cause va →
      Traps (.st m) s w cause va) ∧
    (∀ m : AtomArgs, (∀ r ∈ [m.d, m.b, (cmpReg m.op).getD 0], memRegOk m.g (.ty m.ty) r = true) →
      s.checkAll w.team.ctx .atomic (.ty m.ty) (w.wants m.g false m.msk m.a none m.off) = .fault cause va →
      Traps (.atom m) s w cause va) ∧
    (∀ k n al key leaf, s.check w.team.ctx k al va.toNat = .ok key leaf → s.lockConflict (k != .load) (key, n) = true →
      s.checkOne w.team.ctx k n al va = .fault 0x23 va)
/-- R253, R278: a FENCE outside regions leaves the fragment not ready until what stands on its left has performed at its scope: the earlier loads and
ATOMs unless it is relaxed, the earlier stores of its colours unless it is .ACQ; a relaxed one with no colour does nothing. -/
def Sys2Proof.Claims.FenceWaits : Prop :=
  ∀ (scope : Scope) (ord : Ord) (km : BitVec 8) (s : State) (w : Who), s.Issuer w → w.regioned = false → s.update = [] →
    ∃ t, Retires (.fence scope ord km) s t ∧ SameOutside s t w ∧ SameGroups t w ∧ (t.fragNow w).pc = w.iss.next ∧
      (ord = .rlx → km = 0 → (t.fragNow w).wait = w.frag.wait ∧ t.ops = s.ops) ∧
      (scope ≠ .pod → scope ≠ .sys → ∀ p ∈ s.ops,
        p.mine w.team.id (w.thr.map fun x => x.group) w.frag.m = true →
        ((ord ≠ .rlx ∧ p.kind.reads = true) ∨
          (ord ≠ .acq ∧ ∃ c, p.kind.storeCol = some c ∧ km.getLsbD c = true)) →
        ∃ ids, (t.fragNow w).wait = .ops ids (if ord = .sc then 4 else scopeLvl scope) ∧ p.id ∈ ids)
/-- R279: PREF writes no register and no memory and raises nothing. -/
def Sys2Proof.Claims.PrefetchOnly : Prop :=
  ∀ (m : PrefArgs) (s : State) (w : Who), s.FragIssues w → s.update = [] →
    ∃ t, Retires (.pref m) s t ∧ SameGroups t w ∧ SameFstat t w ∧ SameOutside s t w ∧ t.ops = s.ops ∧
      (t.fragNow w).pc = w.iss.next
/-- FENCE and PREF. -/
def Obligations.FencesAndPrefetches : Prop := Claims.FenceWaits ∧ Claims.PrefetchOnly
/-- R280: the conditions of CWAIT on a word of `n` bytes and the comparand. -/
def Sys2Proof.Machine.waitSpec (c : WCond) (w64 : Bool) (x y : DWord) : Bool :=
  let a : Int := if w64 then x.toInt else (x.setWidth 32).toInt
  let b : Int := if w64 then y.toInt else (y.setWidth 32).toInt
  match c with
  | .eq => x == y
  | .ne => x != y
  | .ge => decide (b ≤ a)
  | .lt => decide (a < b)
  | .geu => decide (y.toNat ≤ x.toNat)
  | .ltu => decide (x.toNat < y.toNat)
/-- R280, R281: CWAIT on a word of the package reads it: when the condition holds on the word and the comparand in s[D] it
writes the word to s[D] and goes on; otherwise it waits for its next poll. Model's choice: notes/assumptions/15.md. -/
def Obligations.CwaitPolls : Prop :=
  ∀ (m : CwaitArgs) (s : State) (w : Who) (key : Nat) (leaf : Leaf), s.Issuer w → w.regioned = false → w.team.kernel.determ = false →
    w.frag.wait = .ready → s.update = [] → s.ops = [] →
    let n := if m.w64 then 8 else 4
    s.check w.team.ctx .load n (w.s w.lowest m.a.toNat).toNat = .ok key leaf → (∀ k < n, keyPooled (key + k) = false) →
    let x : DWord := BitVec.ofNat 64 (Memory.read s.mem key n)
    let y : DWord := if m.w64 then w.s w.lowest m.d.toNat else ((w.s w.lowest m.d.toNat).setWidth 32).setWidth 64
    (waitSpec m.cond m.w64 x y = true → ∃ t, Retires (.cwait m) s t ∧ t.mem = s.mem ∧ t.ops = [] ∧ SameFstat t w ∧
      (t.fragNow w).pc = w.iss.next ∧ (t.fragNow w).wait = .ready ∧
      (m.d ≠ 0 → w.lowest < w.team.groups.length → t.sNow w w.lowest m.d.toNat = x)) ∧
    (waitSpec m.cond m.w64 x y = false → ∃ t, exec (.cwait m) s = .next t ∧ t.last = .waited ∧ t.mem = s.mem ∧ SameGroups t w ∧
      (t.fragNow w).wait = .cwait y m.y false ∧ (t.fragNow w).pc = w.frag.pc)

/-! ### Memory events -/

/-- The bytes of every lane lie in the package, one run each: no update-only line, store on its way home, round or port bears on them. -/
def Sys2Proof.Machine.Local (s : State) (o : Op) (lanes : List LaneAcc) : Prop :=
  s.depsDone o = true ∧ o.markers = [] ∧ o.pend = 0 ∧ o.sent = false ∧ o.fail = none ∧ s.update = [] ∧ (∀ p ∈ s.ops, p.lvl = 0) ∧
  ((s.launchAt o.launch).bind fun l => l.roundMem) = none ∧
  ∀ x ∈ lanes, ∀ k ∈ runKeys x.segs, keyPooled k = false
/-- R269, R271: a load performs: in every active lane the registers of D take the bytes at the lane's address, little-endian,
extended by R63, every other register and all of memory are as before, and the operation ends. Model's choice:
notes/assumptions/8.md. -/
def Sys2Proof.Claims.LoadPerforms : Prop :=
  ∀ (s : State) (u : Team) (o : Op) (d : Nat) (ty : MemTy) (gs : List GrpAcc) (lanes : List LaneAcc), s.opAt o.id = some o →
    s.teamAt o.team = some u → o.kind = .load false d ty gs lanes → Local s o lanes →
    (gs.map fun x => x.g).Nodup → (lanes.map fun x => (x.g, x.lane)).Nodup →
    ∃ t v, exec (.loadComplete o.id) s = .next t ∧ t.mem = s.mem ∧ t.opAt o.id = none ∧ t.teamAt o.team = some v ∧
      (∀ g r, (r < d ∨ d + memRegs (memBytes ty) ≤ r ∨ ∀ x ∈ gs, x.g ≠ g) → (v.group g).vget r = (u.group g).vget r) ∧
      (∀ g, (v.group g).s = (u.group g).s ∧ (v.group g).fstat = (u.group g).fstat) ∧
      ∀ x ∈ gs, x.g < u.groups.length → ∀ y ∈ lanes, y.g = x.g → x.uni = false → x.eff.getLsbD y.lane = true → y.lane < 64 →
        y.fwd = [] → ∀ key, runKeys y.segs = (List.range (memBytes ty)).map (fun i => key + i) → ∀ k < memRegs (memBytes ty), d + k ≠ 0 →
          ((v.group x.g).vget (d + k)).lane y.lane =
            BitVec.ofNat 32 (loadExt false ty (Memory.read s.mem key (memBytes ty)) / 2 ^ (32 * k))
/-- R63, R269: the extension of a narrow load: signed types by their sign, others by zeros. -/
def Sys2Proof.Claims.LoadExtends : Prop :=
  ∀ v : Nat,
    (v < 2 ^ 8 → BitVec.ofNat 32 (loadExt false (.ty .i8) v) = (BitVec.ofNat 8 v).signExtend 32 ∧
      BitVec.ofNat 32 (loadExt false (.ty .n8) v) = BitVec.ofNat 32 v ∧
      BitVec.ofNat 64 (loadExt true (.ty .i8) v) = (BitVec.ofNat 8 v).signExtend 64) ∧
    (v < 2 ^ 16 → BitVec.ofNat 32 (loadExt false (.ty .i16) v) = (BitVec.ofNat 16 v).signExtend 32 ∧
      BitVec.ofNat 32 (loadExt false (.ty .n16) v) = BitVec.ofNat 32 v ∧
      BitVec.ofNat 64 (loadExt true (.ty .i16) v) = (BitVec.ofNat 16 v).signExtend 64) ∧
    (v < 2 ^ 32 → BitVec.ofNat 64 (loadExt true (.ty .i32) v) = (BitVec.ofNat 32 v).signExtend 64 ∧
      BitVec.ofNat 64 (loadExt true (.ty .n32) v) = BitVec.ofNat 64 v)
/-- Loads as they perform. -/
def Obligations.Loads : Prop := Claims.LoadPerforms ∧ Claims.LoadExtends
/-- R249, R254, R272: a store performs. At PKG scope or wider, or an SC store, it goes home: each byte of each lane's run takes the byte of
the lane's data, the later lane of two remaining, every other byte of memory is as before, and the operation ends. At a narrower scope it
performs there: its own groups read the bytes, memory is as before, its flag is free, and the operation goes on home. Every team's
registers are as before. Model's choices: notes/assumptions/8.md, notes/assumptions/81.md. -/
def Sys2Proof.Claims.StorePerforms : Prop :=
  ∀ (s : State) (o : Op) (lanes : List LaneAcc) (col : Nat), s.opAt o.id = some o → o.kind = .store lanes col → Local s o lanes →
    ∃ t, exec (.storePerform o.id) s = .next t ∧
      (t.teams.map fun x => { x with energy := 0 }) = (s.teams.map fun x => { x with energy := 0 }) ∧
      let last (x : LaneAcc) (i k : Nat) : Prop := ∃ pre post, lanes = pre ++ x :: post ∧ (runKeys x.segs)[i]? = some k ∧
        k ∉ (runKeys x.segs).drop (i + 1) ∧ ∀ y ∈ post, k ∉ runKeys y.segs
      (scopeLvl o.scope = 4 ∨ o.ord = .sc → t.opAt o.id = none ∧
        (∀ k, (∀ x ∈ lanes, k ∉ runKeys x.segs) → Memory.byte t.mem k = Memory.byte s.mem k) ∧
        ∀ x i k, last x i k → Memory.byte t.mem k = BitVec.ofNat 8 (x.val / 256 ^ i)) ∧
      (scopeLvl o.scope < 4 → o.ord ≠ .sc → t.mem = s.mem ∧
        t.opAt o.id = some { o with lvl := scopeLvl o.scope, visAt := s.stepNo, flag := none } ∧
        ∀ x i k, last x i k → t.seenBytes o.team x.g [(k, 1)] = [BitVec.ofNat 8 (x.val / 256 ^ i)])
/-- R273: the new value of a word of `n` bytes, from the old one, the operand and the compare value. -/
def Sys2Proof.Machine.atomSpec (op : AtomOp) (signed : Bool) (n old b c : Nat) : Nat :=
  let before (x y : Nat) : Bool := if signed then decide (natSigned (8 * n) x < natSigned (8 * n) y) else decide (x < y)
  match op with
  | .add => (old + b) % 256 ^ n
  | .min => if before b old then b else old
  | .max => if before old b then b else old
  | .and => old &&& b
  | .or => old ||| b
  | .xor => old ^^^ b
  | .exch => b
  | .cas _ => if old = c then b else old
  | .inc => if b ≤ old then 0 else (old + 1) % 256 ^ n
/-- R273 to R275: an ATOM of one lane on a word of the package, which no update-only line gathers, replaces the word by the
result of its operation, gives the old value to the lane of D, and ends; every other byte of memory is as before. Model's
choice: notes/assumptions/8.md. -/
def Sys2Proof.Claims.AtomPerforms : Prop :=
  ∀ (s : State) (u : Team) (o : Op) (op : AtomOp) (ty : IntTy) (d : Nat) (x : GrpAcc) (y : LaneAcc) (key : Nat),
    s.opAt o.id = some o → s.teamAt o.team = some u →
    o.kind = .atom false op.code.toNat (tySigned ty) ty d [x] [y] false → Local s o [y] →
    let n := tyWidth ty / 8
    y.segs = [(key, n)] → y.g = x.g → x.uni = false → x.g < u.groups.length → y.lane < 64 → x.eff.getLsbD y.lane = true →
    y.val < 256 ^ n → y.cmp < 256 ^ n → n = 4 ∨ n = 8 → d ≠ 0 →
    ∃ t v, exec (.atomApply o.id) s = .next t ∧ t.opAt o.id = none ∧ t.teamAt o.team = some v ∧
      Memory.read t.mem key n = atomSpec op (tySigned ty) n (Memory.read s.mem key n) y.val y.cmp ∧
      (∀ k, (k < key ∨ key + n ≤ k) → Memory.byte t.mem k = Memory.byte s.mem k) ∧
      ∀ k < memRegs n, ((v.group x.g).vget (d + k)).lane y.lane = BitVec.ofNat 32 (Memory.read s.mem key n / 2 ^ (32 * k))

/-- Stores and atomics as they perform. -/
def Obligations.StoresAndAtomsPerform : Prop := Claims.StorePerforms ∧ Claims.AtomPerforms

/-! ### Copies, fabric, sorting, collectives -/

/-- An instruction of an engine: its flag and scope, whether it is a release, its operand limits, the engine places it needs, and the
operations that it issues. -/
structure Sys2Proof.Machine.EngForm where
  lf : Bool
  scope : Scope
  rel : Bool
  legal : State → Who → Bool
  slots : Who → Nat
  plans : State → Who → List Plan
/-- The scope that POD or SYS in a fabric form names (R317). -/
def Sys2Proof.Machine.farScope (sys : Bool) : Scope := if sys then .sys else .pod
/-- The engine instructions whose completion register is one word of a group (R285, R288 to R292, R317 to R319, R321, R357). -/
def Sys2Proof.Instr.engForm : Instr → Option EngForm
  | .cpbox m => some ⟨m.lf, m.scope, false,
      fun _ w => m.d.toNat % 2 == 0 && m.a.toNat ≤ 248 && (w.qual m.msk).all fun g => (w.box g m.a).ok (tyWidth m.ty / 8),
      fun w => min 1 (w.qual m.msk).length, fun s w => (w.qual m.msk).map fun g => s.boxPlan w m.d.toNat g m.col.toNat (w.box g m.a)⟩
  | .cpmc m => some ⟨m.lf, .clu, false,
      fun _ w => m.d.toNat % 2 == 0 && w.present.all fun g => (McTarget.of (w.s g m.b.toNat)).ok w.team,
      fun _ => 1,
      fun s w => w.present.map fun g => s.mcPlan w m.d.toNat g (w.s g m.a.toNat).toNat (McTarget.of (w.s g m.b.toNat))⟩
  | .put m => some ⟨m.lf, farScope m.sys, m.rel,
      fun s w => m.d.toNat % 2 == 0 && m.a.toNat ≤ 252 && (w.qual m.msk).all fun g => (w.transfer g m.a).ok s none,
      fun _ => 0, fun s w => (w.qual m.msk).map fun g =>
        s.transferPlan w true (.put (w.transfer g m.a).target none 0) m.d.toNat g m.col.toNat (w.transfer g m.a)⟩
  | .putsig m w64 b => some ⟨m.lf, farScope m.sys, m.rel,
      fun s w => m.d.toNat % 2 == 0 && m.a.toNat ≤ 252 && (w.qual m.msk).all fun g =>
        (w.transfer g m.a).ok s (some (if w64 then 8 else 4)),
      fun _ => 0, fun s w => (w.qual m.msk).map fun g =>
        let c := s.sigCounter w (w.transfer g m.a) (if w64 then 8 else 4) (w.s g b.toNat).toNat
        s.transferPlan w true (.put (w.transfer g m.a).target (some c) 0) m.d.toNat g m.col.toNat (w.transfer g m.a)⟩
  | .get m => some ⟨m.lf, farScope m.sys, false,
      fun s w => m.d.toNat % 2 == 0 && m.a.toNat ≤ 252 && (w.qual m.msk).all fun g => (w.transfer g m.a).ok s none,
      fun _ => 0, fun s w => (w.qual m.msk).map fun g =>
        s.transferPlan w false (.get (w.transfer g m.a).target) m.d.toNat g 0 (w.transfer g m.a)⟩
  | .redr m => some ⟨m.lf, farScope m.sys, false,
      fun s w => m.d.toNat % 2 == 0 && m.a.toNat ≤ 253 && (w.qual m.msk).all fun g => w.redrOk m g && (s.redrPlan w m g).isSome,
      fun _ => 0, fun s w => (w.qual m.msk).filterMap fun g => s.redrPlan w m g⟩
  | .rsort m => some ⟨m.lf, m.scope, false,
      fun _ w => m.d.toNat % 2 == 0 && m.a.toNat ≤ 252 &&
        (w.qual m.msk).all fun g => (w.sortDesc g m.a).ok (if m.n16 then 2 else 4),
      fun w => (w.qual m.msk).length,
      fun s w => (w.qual m.msk).map fun g => s.sortPlan w m.n16 m.d.toNat g (w.sortDesc g m.a)⟩
  | _ => none
/-- The engines and the range-lock table have room for the operations (R282, R287). -/
def Sys2Proof.Machine.EngineRoom (s : State) (w : Who) (slots : Nat) (scope : Scope) (rel lf : Bool) (plans : List Plan) : Prop :=
  (slots = 0 ∨ s.engineLoad w.team.core + slots ≤ Config.engineOps) ∧
  s.locksUsed + (plans.map fun p => (s.planOp w scope rel lf p).locks.length).sum ≤ Config.rangeLocks
/-- What has been issued for a plan: the operation, its ranges and completion register, behind the earlier stores to its ranges (R262). -/
def Sys2Proof.Machine.Issued (s t : State) (w : Who) (lf : Bool) (scope : Scope) (rel : Bool) (p : Plan) : Prop :=
  ∃ o ∈ t.ops, o.team = w.team.id ∧ o.inst = s.nextOp ∧ o.kind = .engine p.e ∧ o.flag = w.flag lf ∧ o.scope = scope ∧
    o.locks = (s.planOp w scope rel lf p).locks ∧ o.writes = p.writes ∧
    ∀ q ∈ s.ops, q.mine w.team.id (w.thr.map fun x => x.group) w.frag.m = true → q.kind.storeCol.isSome = true →
      runsMeet q.kind.runs p.e.allRuns = true → q.id ∈ o.deps
/-- R262, R282, R285, R287, R290, R292, R318, R319, R321, R357: with room for it, an engine instruction issues one operation for
each qualifying group, CPMC for each present one, and goes on; the group's completion register holds the posted word, or the final word of
no bytes where there is nothing to move; every other register, FSTAT and memory are as before. Model's choice:
notes/assumptions/45.md. -/
def Obligations.EngineOpsIssue : Prop :=
  ∀ (i : Instr) (f : EngForm) (s : State) (w : Who), i.engForm = some f → s.FragIssues w → w.regioned = false →
    w.team.imaged = false → f.legal s w = true → EngineRoom s w (f.slots w) f.scope f.rel f.lf (f.plans s w) →
    (f.rel = true → s.update = []) →
    ∃ t, Retires i s t ∧ SameOutside s t w ∧ SameFstat t w ∧ (t.fragNow w).pc = w.iss.next ∧
      (∀ g r, t.sNow w g r = w.s g r) ∧
      (∀ p ∈ f.plans s w, p.e.items ≠ [] → Issued s t w f.lf f.scope f.rel p) ∧
      (∀ p ∈ f.plans s w, p.e.group < w.team.groups.length → p.e.d ≠ 0 → ∀ j < 64,
        (t.vNow w p.e.group (p.e.d + 1)).lane j ++ (t.vNow w p.e.group p.e.d).lane j =
          if p.e.items = [] then 0x8000000000000000#64 else BitVec.ofNat 64 p.e.posted) ∧
      ∀ g r, (∀ p ∈ f.plans s w, p.e.group = g → p.e.d ≠ 0 → r ≠ p.e.d ∧ r ≠ p.e.d + 1) → t.vNow w g r = (w.team.group g).vget r
/-- CPL and COLL: mask field, completion register, element width, flag, scope, release, operand limits, engine places and the operation. -/
structure Sys2Proof.Machine.LaneEngForm where
  msk : MaskField
  d : VReg11
  n : Nat
  lf : Bool
  scope : Scope
  rel : Bool
  legal : Bool
  slots : Who → Nat
  plan : State → Who → Plan
/-- The operation of an engine instruction with a word in each lane of its qualifying groups. -/
def Sys2Proof.Machine.lanePlan (kind : EngKind) (w : Who) (msk : MaskField) (d : VReg11) (n : Nat) (col : BitVec 3) (items : List Item) :
    Plan :=
  { planOf kind w.team.core 0 d.toNat (n * items.length) col.toNat items with writes := (w.qual msk).flatMap fun g => pairRefs g d.toNat }
/-- The engine instructions with a completion word in each lane (R289, R354). -/
def Sys2Proof.Instr.laneEngForm : Instr → Option LaneEngForm
  | .cpl m => some ⟨m.msk, m.d, tyWidth m.ty / 8, m.lf, m.scope, false, m.d.toNat % 2 == 0, fun _ => 1,
      fun s w => lanePlan .cpl w m.msk m.d (tyWidth m.ty / 8) m.col (s.cplItems w m)⟩
  | .coll m => some ⟨m.msk, m.d, tyWidth m.ty / 8, m.lf, farScope m.sys, m.rel,
      m.d.toNat % 2 == 0 && (tyWidth m.ty != 64 || m.b.toNat % 2 == 0), fun w => (w.qual m.msk).length,
      fun s w => lanePlan (.coll m.op (m.ty == .i32 || m.ty == .i64) (tyWidth m.ty / 8)) w m.msk m.d (tyWidth m.ty / 8) m.col
        (s.collItems w m)⟩
  | _ => none
/-- R262, R285, R289, R353, R354: CPL and COLL issue one operation with an item for each active lane, and the completion
register of each active lane holds the number of bytes posted; every other register is as before. Model's choice:
notes/assumptions/45.md. -/
def Obligations.LaneEngineOps : Prop :=
  ∀ (i : Instr) (f : LaneEngForm) (s : State) (w : Who), i.laneEngForm = some f → s.FragIssues w → w.regioned = false →
    w.team.imaged = false → f.legal = true → (f.rel = true → s.update = []) →
    (∀ g ∈ w.qual f.msk, f.d = 0 ∨ f.d.toNat + 1 < (w.group g).genmax) →
    (w.qual f.msk = [] → ∃ t, Retires i s t ∧ SameFstat t w ∧ RegFrame s t w noReg noReg) ∧
    (w.qual f.msk ≠ [] → EngineRoom s w (f.slots w) f.scope f.rel f.lf [f.plan s w] →
      ∃ t, Retires i s t ∧ SameOutside s t w ∧ SameFstat t w ∧ (t.fragNow w).pc = w.iss.next ∧ (∀ g r, t.sNow w g r = w.s g r) ∧
        Issued s t w f.lf f.scope f.rel (f.plan s w) ∧
        (f.plan s w).e.items.map (fun x => (x.g, x.lane, x.len)) =
          ((w.qual f.msk).flatMap fun g => (laneList.filter fun j => (w.eff f.msk g).getLsbD j).map fun j => (g, j, f.n)) ∧
        (f.d ≠ 0 → ∀ g ∈ w.qual f.msk, g < w.team.groups.length → ∀ j < 64,
          (t.vNow w g (f.d.toNat + 1)).lane j ++ (t.vNow w g f.d.toNat).lane j =
            if (w.eff f.msk g).getLsbD j = true then BitVec.ofNat 64 f.n else w.pair g f.d j) ∧
        ∀ g r, (g ∉ w.qual f.msk ∨ f.d = 0 ∨ (r ≠ f.d.toNat ∧ r ≠ f.d.toNat + 1)) → t.vNow w g r = (w.team.group g).vget r)
/-- R241, R243, R283, R289, R290, R318, R319: the addresses, lengths and translations of the items. CPL copies from the address of v[A] to
that of v[B] and v[C] in each lane; row k of a box lies at base + i1 S1 + i2 S2 + i3 S3 on each side; item k of a transfer is its k-th
4 KiB piece, its remote side in POOL or TRAY. -/
def Sys2Proof.Claims.ItemAddresses : Prop :=
  ∀ (s : State) (w : Who),
    (∀ (m : CplArgs), ∀ x ∈ s.cplItems w m, x.len = tyWidth m.ty / 8 ∧
      x.src = s.rangeOn w.team.ctx .load x.len (w.address false m.a 0 m.off x.g x.lane).toNat x.len ∧
      x.dst = s.rangeOn w.team.ctx .store x.len (w.address false m.b m.c 0 x.g x.lane).toNat x.len) ∧
    (∀ (d g col : Nat) (b : Box) (k : Nat) (x : Item), (s.boxPlan w d g col b).e.items[k]? = some x →
      let va (base : Nat) (st : List Int) : Nat := ((base + (k % b.e1 : Nat) * st.getD 0 0 + (k / b.e1 % b.e2 : Nat) * st.getD 1 0 +
        (k / b.e1 / b.e2 : Nat) * st.getD 2 0) % (2 ^ 64 : Nat)).toNat
      k < b.e1 * b.e2 * b.e3 ∧ x.len = b.e0 ∧
      x.src = s.range w.team.ctx .load (va b.src b.ss) b.e0 ∧ x.dst = s.range w.team.ctx .store (va b.dst b.ds) b.e0) ∧
    (∀ (y : Transfer) (k : Nat) (x : Item), y.remote = false → (s.transferItems w true y)[k]? = some x →
      let ra := (y.raddr + 4096 * k) % 2 ^ 64
      x.len = min 4096 (y.len - 4096 * k) ∧
      x.src = s.range w.team.ctx .load ((y.laddr + 4096 * k) % 2 ^ 64) x.len ∧
      x.dst = (s.range w.team.ctx .store ra x.len).pooled ra)
/-- R290, R292, R318, R353, R357: a descriptor or target word that breaks an operand limit makes the instruction illegal with INFO 5; a
completion register at or above genmax is the shape fault for the forms with a word in each lane. -/
def Sys2Proof.Claims.EngineFaults : Prop :=
  ∀ (s : State) (w : Who), s.FragIssues w → w.regioned = false →
    (∀ m g, g ∈ w.qual m.msk → (w.box g m.a).e0 = 0 → Traps (.cpbox m) s w 0x01 5) ∧
    (∀ m g, g ∈ w.present → natBits (w.s g m.b.toNat).toNat 27 11 = 0 → Traps (.cpmc m) s w 0x01 5) ∧
    (∀ m g, g ∈ w.qual m.msk → (w.transfer g m.a).len % 32 ≠ 0 → Traps (.put m) s w 0x01 5 ∧ Traps (.get m) s w 0x01 5 ∧
      ∀ w64 b, Traps (.putsig m w64 b) s w 0x01 5) ∧
    (∀ m g, g ∈ w.qual m.msk → (w.sortDesc g m.a).n = 0 → Traps (.rsort m) s w 0x01 5) ∧
    ∀ (i : Instr) (f : LaneEngForm) (g : Nat) (rest : List Nat), i.laneEngForm = some f → f.legal = true →
      w.qual f.msk = g :: rest → f.d ≠ 0 → (w.group g).genmax ≤ f.d.toNat + 1 → Traps i s w 0x06 (BitVec.ofNat 64 g)
/-- The addresses and the limits of engine instructions. -/
def Obligations.EngineAddresses : Prop := Claims.ItemAddresses ∧ Claims.EngineFaults
/-- R291: CPST with N ≠ 0 opens a station over N registers of each present group, with the expected bytes in s[A], and posts them; with
N = 0 it closes the station, with the bytes landed as its final word. -/
def Sys2Proof.Claims.Stations : Prop :=
  ∀ (m : CpstArgs) (s : State) (w : Who) (g : Nat), s.FragIssues w → w.regioned = false → w.team.imaged = false →
    w.present = [g] → g < w.team.groups.length → m.d.toNat % 2 = 0 → w.cpstOk m g = true →
    (m.n ≠ 0 → ∃ t, Retires (.cpst m) s t ∧ SameOutside s t w ∧ SameFstat t w ∧ (t.fragNow w).pc = w.iss.next ∧
      ((t.teamNow w).group g).station = some { base := m.b.toNat, n := m.n.toNat, eb := (w.s g m.a.toNat).toNat % 2 ^ 40, landed := 0,
                                               d := m.d.toNat, op := s.nextOp } ∧
      (∀ h, h ≠ g → ((t.teamNow w).group h).station = (w.team.group h).station) ∧
      (∃ o ∈ t.ops, o.id = s.nextOp ∧ o.team = w.team.id ∧ o.kind = .station g ∧ o.flag = w.flag m.lf ∧
        ∀ k < m.n.toNat, RegRef.v g (m.b.toNat + k) ∈ o.writes) ∧
      (m.d ≠ 0 → ∀ j < 64, (t.vNow w g (m.d.toNat + 1)).lane j ++ (t.vNow w g m.d.toNat).lane j =
        BitVec.ofNat 64 ((w.s g m.a.toNat).toNat % 2 ^ 40)) ∧
      ∀ h r, (h ≠ g ∨ m.d = 0 ∨ (r ≠ m.d.toNat ∧ r ≠ m.d.toNat + 1)) → t.vNow w h r = (w.team.group h).vget r) ∧
    (m.n = 0 → ∃ t, Retires (.cpst m) s t ∧ t.mem = s.mem ∧ SameFstat t w ∧ (t.fragNow w).pc = w.iss.next ∧
      ((t.teamNow w).group g).station = none ∧
      ∀ st, (w.team.group g).station = some st → st.d ≠ 0 → st.landed < 2 ^ 43 → ∀ j < 64,
        (t.vNow w g (st.d + 1)).lane j ++ (t.vNow w g st.d).lane j = BitVec.ofNat 64 (2 ^ 63 + st.landed))
/-- R293: RLKQ writes bit 0 where a destination range, and bit 1 where a source range, of an operation of the range-lock table meets the
range of s[A] and s[B] bytes, 4 where the range does not translate, and 0 for no bytes or more than 2³². -/
def Sys2Proof.Claims.LockQuery : Prop :=
  ∀ (d a b : SReg) (s : State) (w : Who), s.FragIssues w →
    (∀ g ∈ w.present, w.s g b.toNat ≠ 0 → (w.s g b.toNat).toNat ≤ 2 ^ 32 →
      ∀ va n p, s.range w.team.ctx .load (w.s g a.toNat).toNat (w.s g b.toNat).toNat ≠ .mig va n p) →
    ∃ t, Retires (.rlkq d a b) s t ∧ SameFstat t w ∧ RegFrame s t w noReg (fun g r => g ∈ w.present ∧ r = d.toNat) ∧
      ∀ g ∈ w.present, g < w.team.groups.length → d ≠ 0 →
        let n := (w.s g b.toNat).toNat
        (n = 0 ∨ 2 ^ 32 < n → t.sNow w g d.toNat = 0) ∧
        (n ≠ 0 → n ≤ 2 ^ 32 → ∀ c e, s.range w.team.ctx .load (w.s g a.toNat).toNat n = .bad c e → t.sNow w g d.toNat = 4) ∧
        (n ≠ 0 → n ≤ 2 ^ 32 → ∀ runs, s.range w.team.ctx .load (w.s g a.toNat).toNat n = .runs runs →
          let hit (dst : Bool) : Prop := ∃ r ∈ runs, ∃ o ∈ s.ops, ∃ l ∈ o.locks,
            l.2.2 = dst ∧ l.1 ≤ (r.1 + r.2 - 1) / 32 ∧ r.1 / 32 ≤ l.2.1
          ((t.sNow w g d.toNat).getLsbD 0 = true ↔ hit true) ∧ ((t.sNow w g d.toNat).getLsbD 1 = true ↔ hit false) ∧
          (t.sNow w g d.toNat).getLsbD 2 = false)
/-- Stations, and the query of range locks. -/
def Obligations.StationsAndLocks : Prop := Claims.Stations ∧ Claims.LockQuery
/-- R320: REDM with a claim that the package has applied, and room for its range, issues its contribution and posts its bytes; without one it fails at
once: the final word says so with cause 0x21 and no bytes, and the fault is held. Model's choice: notes/assumptions/67.md. -/
def Sys2Proof.Claims.ReductionContributes : Prop :=
  ∀ (m : RedmArgs) (s : State) (w : Who) (g : Nat), s.FragIssues w → w.regioned = false → w.team.imaged = false →
    w.qual m.msk = [g] → g < w.team.groups.length → m.d.toNat % 2 = 0 → m.a.toNat ≤ 253 → w.redmOk m g = true →
    (m.rel = true → s.update = []) →
    let v := (w.s g (m.a.toNat + 1)).toNat
    let count := (w.s g (m.a.toNat + 2)).toNat % 2 ^ 13
    let bytes := count * redmWidth m.src
    (∀ c p, s.claimOf w.team.ctx (v / 2 ^ 12 % 2 ^ 5) (v % 2 ^ 12) = some c → s.redmPlan w m g = some p →
      EngineRoom s w 0 (farScope m.sys) m.rel m.lf [p] →
      ∃ t, Retires (.redm m) s t ∧ SameOutside s t w ∧ SameFstat t w ∧ (t.fragNow w).pc = w.iss.next ∧
        (m.d ≠ 0 → ∀ j < 64, (t.vNow w g (m.d.toNat + 1)).lane j ++ (t.vNow w g m.d.toNat).lane j = BitVec.ofNat 64 bytes) ∧
        Issued s t w m.lf (farScope m.sys) m.rel p ∧ p.e.group = g ∧ p.e.posted = bytes ∧
          p.e.kind = .redm (v / 2 ^ 12 % 2 ^ 5) (v % 2 ^ 12) (v / 2 ^ 17 % 2 ^ 10) c.recNo m.src count) ∧
    (s.claimOf w.team.ctx (v / 2 ^ 12 % 2 ^ 5) (v % 2 ^ 12) = none → w.team.held.length < Config.heldFaults → s.locksUsed ≤ Config.rangeLocks →
      ∃ t, Retires (.redm m) s t ∧ t.mem = s.mem ∧ t.ops = s.ops ∧ (t.fragNow w).pc = w.iss.next ∧
        (m.d ≠ 0 → ∀ j < 64, (t.vNow w g (m.d.toNat + 1)).lane j ++ (t.vNow w g m.d.toNat).lane j =
          BitVec.ofNat 64 (2 ^ 63 + 2 ^ 62 + 2 ^ 55 * 0x21)) ∧
        ∃ h ∈ (t.teamNow w).held, h.cause = 0x21 ∧ h.pc = w.iss.pc ∧ h.frag = w.frag.id)
/-- R264, R322: TSRD.P reads pts; TSRD.H asks the home of a POOL or TRAY sector, after the packets of its
thread that have still to go that way (R304), and writes s[D] when the reply comes; both read as 0 in
deterministic mode and set DETREAD (R227). -/
def Sys2Proof.Claims.TimestampReads : Prop :=
  ∀ (lf : Bool) (d a : SReg) (msk : MaskField) (s : State) (w : Who), s.FragIssues w → w.regioned = false →
    (w.team.kernel.determ = false → ∃ t, Retires (.tsrdP lf d msk) s t ∧ SameFstat t w ∧
      RegFrame s t w noReg (fun g r => g ∈ w.qual msk ∧ r = d.toNat) ∧
      ∀ g ∈ w.qual msk, g < w.team.groups.length → d ≠ 0 → t.sNow w g d.toNat = s.pts.setWidth 64) ∧
    (∀ l, s.tsrdKeys w a (w.qual msk) = .ok l → w.team.kernel.determ = false →
      s.pathTurn s.nextOp w.team.id none w.frag.m (l.map fun x => (x.2, 1)) = true →
      ∃ t, Retires (.tsrdH lf d a msk) s t ∧ IssueFrame s t w ∧
        ∀ x ∈ l, ∃ o ∈ t.ops, o.team = w.team.id ∧ o.kind = .tsrd x.1 d.toNat x.2 (w.s x.1 a.toNat) ∧ o.flag = w.flag lf ∧
          (d ≠ 0 → o.writes = [.s x.1 d.toNat])) ∧
    (w.team.kernel.determ = true → w.qual msk ≠ [] → ∀ i, i = .tsrdP lf d msk ∨
        (i = .tsrdH lf d a msk ∧ ∃ l, s.tsrdKeys w a (w.qual msk) = .ok l) →
      ∃ t, Retires i s t ∧ (t.teamNow w).detRead = true ∧
        ∀ g ∈ w.qual msk, g < w.team.groups.length → t.sNow w g d.toNat = 0)
/-- Reduction contributions, and timestamp reads. -/
def Obligations.ReductionForms : Prop := Claims.ReductionContributes ∧ Claims.TimestampReads

/-! ### Loop, timetables -/

/-- The tap queue has an entry for a record, and none waits for one (R334). -/
def Sys2Proof.Machine.TapRoom (s : State) : Prop := s.tapUsed < Config.tapEntries ∧ s.loop.backlog = []
/-- R334, R336: BCAST with room at the tap takes its record from eight registers of the lowest present group; with no release and none of
its kind waiting it enters the tap queue at once, with the header that the tap fills. -/
def Sys2Proof.Claims.BroadcastQueues : Prop :=
  ∀ (m : BcastArgs) (s : State) (w : Who), s.FragIssues w → w.regioned = false → m.a.toNat ≤ 248 →
    1 ≤ (w.s w.lowest m.a.toNat).toNat → (w.s w.lowest m.a.toNat).toNat ≤ 8 → s.loop.left = false → TapRoom s →
    (∀ o ∈ s.ops, o.id < s.nextOp) →
    ∃ t, Retires (.bcast m) s t ∧ SameGroups t w ∧ (t.fragNow w).pc = w.iss.next ∧
      (∃ o ∈ t.ops, ∃ queued, o.team = w.team.id ∧ o.flag = w.flag m.lf ∧
        o.kind = .bcast w.lowest m.d.toNat (w.bcastRecord m.a) queued none) ∧
      (m.rel = false → (∀ o ∈ s.ops, ∀ g d r, o.kind ≠ .bcast g d r false none) →
        t.mem = s.mem ∧ ∃ e, t.loop.queue = s.loop.queue ++ [e] ∧ e.ctx = w.team.ctx ∧ e.dev = false ∧ e.op = some s.nextOp ∧
          recType e.record = (w.s w.lowest m.a.toNat).toNat ∧ recCtx e.record = w.team.ctx % 256 ∧
          ∀ k, 1 ≤ k → k < 8 → e.record.extractLsb' (64 * k) 64 = w.s w.lowest (m.a.toNat + k))
/-- R338: SEQFENCE goes on once the record whose number it names has been applied, and waits before. Model's choice:
notes/assumptions/15.md. -/
def Sys2Proof.Claims.SequenceForms : Prop :=
  ∀ (r : SReg) (s : State) (w : Who), s.FragIssues w → w.frag.wait = .ready →
    ((w.s w.lowest r.toNat).toNat ≤ s.loop.applied →
      ∃ t, Retires (.seqfence r) s t ∧ OnlyTeam s t w ∧ SameGroups t w ∧ (t.fragNow w).pc = w.iss.next) ∧
    (s.loop.applied < (w.s w.lowest r.toNat).toNat →
      ∃ t, exec (.seqfence r) s = .next t ∧ t.last = .waited ∧ SameGroups t w ∧ (t.fragNow w).pc = w.frag.pc ∧
        (t.fragNow w).wait = .seq (w.s w.lowest r.toNat))
/-- BCAST and SEQFENCE. -/
def Obligations.LoopForms : Prop := Claims.BroadcastQueues ∧ Claims.SequenceForms
/-- R337: SEQRD writes the number of the last record applied, and in deterministic mode 0, with DETREAD set. -/
def Obligations.SequenceNumbers : Prop :=
  ∀ (r : SReg) (s : State) (w : Who), s.FragIssues w →
    ∃ t, Retires (.seqrd r) s t ∧ t.mem = s.mem ∧ t.ops = s.ops ∧ SameFstat t w ∧ (t.fragNow w).pc = w.iss.next ∧
      (∀ g k, g ∉ w.present ∨ k ≠ r.toNat → t.sNow w g k = w.s g k) ∧ (∀ g k, t.vNow w g k = (w.team.group g).vget k) ∧
      (w.team.kernel.determ = false → RegFrame s t w noReg (fun g k => g ∈ w.present ∧ k = r.toNat)) ∧
      (w.team.kernel.determ = true → (t.teamNow w).detRead = true) ∧
      ∀ g ∈ w.present, g < w.team.groups.length → r ≠ 0 →
        t.sNow w g r.toNat = if w.team.kernel.determ then 0 else BitVec.ofNat 64 s.loop.applied
/-- MARK and MARK.S with the position that they name (R351). -/
def Sys2Proof.Instr.markForm : Instr → Option (Bool × (Who → Nat))
  | .mark n nc => some (nc, fun _ => n.toNat)
  | .markS a nc => some (nc, fun w => (w.s w.lowest a.toNat).toNat % 2 ^ 16)
  | _ => none
/-- R346, R351, R352: MARK with every required entry of its position resident, or with .NC, sets the marker position; otherwise, outside
deterministic mode, it takes the schedule-miss fault with the position as INFO, and TTQ SEL 2 gives the first entry that is missing; in deterministic mode it waits. -/
def Sys2Proof.Claims.Markers : Prop :=
  ∀ (i : Instr) (nc : Bool) (pos : Who → Nat) (s : State) (w : Who), i.markForm = some (nc, pos) → s.FragIssues w →
    w.regioned = false →
    (nc = true ∨ s.missing w.team (pos w) = [] →
      ∃ t, Retires i s t ∧ SameGroups t w ∧ t.mem = s.mem ∧ t.ops = s.ops ∧ (t.fragNow w).pc = w.iss.next ∧
        (t.teamNow w).marker = some (pos w)) ∧
    (∀ k rest, nc = false → s.missing w.team (pos w) = k :: rest → w.team.kernel.determ = false →
      exec i s = .next ((s.onTeam w.team.id fun t => { t with
        lastMiss := BitVec.ofNat 64 (k + 2 ^ 16 * s.reasonOf w.team k + 2 ^ 24 * pos w), missAt := some (pos w) }).trapWho w 0x30
          (BitVec.ofNat 64 (pos w)) w.iss.pc)) ∧
    (nc = false → s.missing w.team (pos w) ≠ [] → w.team.kernel.determ = true →
      ∃ t, exec i s = .next t ∧ t.last = .waited ∧ SameGroups t w ∧ (t.fragNow w).pc = w.frag.pc ∧ (t.teamNow w).missAt = some (pos w))
/-- R227, R352: TTQ completes for the selectors 0 to 4 and writes s[D] of the present groups alone: the marker position with its valid
bit, and the last schedule miss; the others read as 0 in deterministic mode. -/
def Sys2Proof.Claims.TimetableQueries : Prop :=
  ∀ (d a : SReg) (sel : BitVec 16) (s : State) (w : Who), s.FragIssues w → sel.toNat ≤ 4 →
    ∃ t, Retires (.ttq d a sel) s t ∧ t.mem = s.mem ∧ t.ops = s.ops ∧
      (∀ g r, (g ∉ w.present ∨ r ≠ d.toNat) → t.sNow w g r = w.s g r) ∧
      (∀ g ∈ w.present, g < w.team.groups.length → d ≠ 0 →
        (sel = 0 → t.sNow w g d.toNat =
          (match w.team.marker with | none => 0 | some c => BitVec.ofNat 64 (c + 2 ^ 16))) ∧
        (sel = 2 → t.sNow w g d.toNat = w.team.lastMiss) ∧
        (sel = 1 ∨ sel = 3 ∨ sel = 4 → w.team.kernel.determ = true →
          t.sNow w g d.toNat = 0 ∧ (t.teamNow w).detRead = true)) ∧
      (w.team.kernel.determ = false → RegFrame s t w noReg (fun g r => g ∈ w.present ∧ r = d.toNat))
/-- MARK and TTQ. -/
def Obligations.TimetableForms : Prop := Claims.Markers ∧ Claims.TimetableQueries
/-- R99, R197: EXIT of an access thread's lane ends the thread: it runs no more, and its registers and those of the team stay. -/
def Sys2Proof.Claims.ThreadExit : Prop :=
  ∀ (msk : MaskField) (s : State) (w : Who) (x : Thread), s.Issuer w → w.thr = some x →
    (∃ g < w.frag.m.length, w.eff msk g ≠ 0) →
    ∃ t, Retires (.exit msk) s t ∧ OnlyTeam s t w ∧ SameGroups t w ∧
      ∃ y, (t.teamNow w).threadAt x.group = some y ∧ y.running = false ∧ y.s = x.s
/-- Exits of lanes and of an access thread. -/
def Obligations.Exits : Prop := Claims.ExitEndsLanes ∧ Claims.ThreadExit

/-! ### Events of issue, waits and resources -/

/-- A fragment of a team. -/
def Sys2Proof.Machine.State.fragOf (s : State) (team frag : Nat) : Option Fragment := (s.teamAt team).bind fun t => t.fragAt frag
/-- R93: ISSUE_SELECT chooses the candidate of a core that comes first by class, age and entry; its age is 0 and it enters the
issue latch. Model's choice: notes/assumptions/3.md. -/
def Sys2Proof.Claims.IssueSelect : Prop :=
  ∀ (core : Nat) (s : State), s.candidates core ≠ [] →
    ∃ t u f i, exec (.issueSelect core) s = .next t ∧ (u, f) ∈ s.candidates core ∧
      (∀ x ∈ s.candidates core, x.2.before f = false) ∧ t.issue = some i ∧ i.team = u.id ∧ i.frag = f.id ∧ i.thread = none ∧
      i.pc = f.pc ∧ (s.fragOf u.id f.id = some f → ∃ g, t.fragOf u.id f.id = some g ∧ g.age = 0) ∧ t.mem = s.mem ∧ t.ops = s.ops
/-- R195: ACCESS_ISSUE chooses the ready access thread of a core that issued longest ago. Model's choice:
notes/assumptions/3.md. -/
def Sys2Proof.Claims.AccessIssue : Prop :=
  ∀ (core : Nat) (s : State), (∃ u ∈ s.onCore core, ∃ x ∈ u.threads, s.threadReady u x = true) →
    ∃ t u x i, exec (.accessIssue core) s = .next t ∧ u ∈ s.onCore core ∧ x ∈ u.threads ∧ s.threadReady u x = true ∧
      (∀ v ∈ s.onCore core, ∀ y ∈ v.threads, s.threadReady v y = true → x.lastIssue ≤ y.lastIssue) ∧
      t.issue = some i ∧ i.team = u.id ∧ i.thread = some x.group ∧ i.pc = x.frag.pc ∧ t.mem = s.mem ∧ t.ops = s.ops
/-- R82, R83: FRAGMENT_REFILL gives a free entry to the oldest ready spilled fragment of a resident team, or with none free the entry of
the one that the first three choices of R82 spill; SPILL_WAIT_EXPIRY, with no entry free, gives it that of the resident ready fragment of
lowest age. The records lie where the spill area can be read and written. Model's choices: notes/assumptions/74.md,
notes/assumptions/76.md. -/
def Sys2Proof.Claims.Refills : Prop :=
  ∀ (team frag : Nat) (s : State) (u : Team), s.teamAt team = some u → u.resident = true →
    (∀ e, (∃ f ∈ u.frags, s.spilledReady u f = true) → s.freeEntry u.ctx u.core = some e →
      (∀ f ∈ u.frags, (s.readSpill u f.id (u.fragSlot f.m)).isSome = true) →
      ∃ t f g, exec (.fragmentRefill team) s = .next t ∧ f ∈ u.frags ∧ s.spilledReady u f = true ∧
        (∀ x ∈ u.frags, s.spilledReady u x = true → x.age ≤ f.age) ∧ t.fragOf team f.id = some g ∧ g.entry = some e ∧
        (s.update = [] → t.mem = s.mem)) ∧
    (∀ f v e s', u.fragAt frag = some f → s.spilledReady u f = true → s.freeEntry u.ctx u.core = none → v.entry = some e →
      s.spill team v = .ok s' → (s.readSpill u f.id (u.fragSlot f.m)).isSome = true →
      (s'.readSpill u f.id (u.fragSlot f.m)).isSome = true →
      ((∀ x ∈ u.frags, s.spilledReady u x = true → x = f) → s.idleVictim u = some v →
        ∃ t, exec (.fragmentRefill team) s = .next t ∧ t.fragOf team frag = some { f with entry := some e }) ∧
      (∀ x, v = .frag x → lowestAge (u.frags.filter fun y => y.entry.isSome && s.ready u y) = some x →
        ∃ t, exec (.spillWaitExpiry team frag) s = .next t ∧ t.fragOf team frag = some { f with entry := some e } ∧
          (x.id ≠ frag → ∃ g, t.fragOf team x.id = some g ∧ g.entry = none)))
/-- R91, R280: BARRIER_WAIT_END ends a barrier wait whose phase differs from every token, and no other; CWAIT_POLL lets a waiting CWAIT
poll again. -/
def Sys2Proof.Claims.WaitsEnd : Prop :=
  ∀ (team frag : Nat) (s : State) (u : Team), s.teamAt team = some u →
    (∀ f b k, u.fragAt frag = some f → f.wait = .barrier b k →
      ∃ t, exec (.barrierWaitEnd team frag) s = .next t ∧ t.fragOf team frag =
        some (if k.all fun x => (u.bar b).phase.setWidth 64 != x then { f with wait := .ready } else f)) ∧
    (∀ f c y go, u.fragAt frag = some f → f.wait = .cwait c y go →
      ∃ t, exec (.cwaitPoll team frag false) s = .next t ∧ t.fragOf team frag = some { f with wait := .cwait c y true }) ∧
    (∀ x c y go, u.threadAt frag = some x → x.frag.wait = .cwait c y go →
      ∃ t v, exec (.cwaitPoll team frag true) s = .next t ∧ t.teamAt team = some v ∧
        v.threadAt frag = some { x with frag := { x.frag with wait := .cwait c y true } })
/-- R125 to R127: REGGROW_GRANT raises genmax for the blocked request that was issued first, once its slabs are free; REGGROW_DENY, with
every resident fragment of the partition blocked, denies the request that was issued last; either makes the fragment ready with its
answer. -/
def Sys2Proof.Claims.SlabArbiter : Prop :=
  ∀ (core ctx : Nat) (s : State) (u : Team) (f : Fragment) (n k : Nat) (d : SReg),
    (firstGrow (s.growRequests ctx core) = some (u, f, n, d, k) → u.growNeed (maskGroups f.m) n ≤ s.freeSlabs ctx core →
      s.teamAt u.id = some u →
      ∃ t v g, exec (.reggrowGrant core ctx) s = .next t ∧ t.teamAt u.id = some v ∧ v.fragAt f.id = some g ∧ g.wait = .granted true ∧
        ∀ h < u.groups.length, (v.group h).genmax = if h ∈ maskGroups f.m then max (u.group h).genmax n else (u.group h).genmax) ∧
    (lastGrow (s.growRequests ctx core) = some (u, f, n, d, k) → s.teamAt u.id = some u →
      (∀ x ∈ s.onCore core, x.ctx = ctx → ∀ y ∈ x.frags, y.entry = none ∨ y.wait.stuck = true) →
      ∃ t g, exec (.reggrowDeny core ctx) s = .next t ∧ t.fragOf u.id f.id = some g ∧ g.wait = .granted false)
/-- R19, R116: SCRUB_COMPLETE frees the resources of a scrub; CLOCK_THROTTLE lowers the clock while the draw exceeds the limit,
and raises it otherwise. Model's choices: notes/assumptions/11.md, notes/assumptions/63.md. -/
def Sys2Proof.Claims.ResourceEvents : Prop :=
  ∀ (n : Nat) (s : State),
    (∀ x ∈ s.scrubs, x.id = n → ∃ t, exec (.scrubComplete n) s = .next t ∧ t.teams = s.teams ∧ t.mem = s.mem ∧
      ∀ y, y ∈ t.scrubs ↔ y ∈ s.scrubs ∧ y.id ≠ n) ∧
    ∃ t, exec (.clockThrottle n) s = .next t ∧ t.teams = s.teams ∧ t.mem = s.mem ∧ t.ops = s.ops ∧
      t.energy.throttle = if Config.powerLimit.val < n then s.energy.throttle + 1 else s.energy.throttle - 1
/-- The events of issue, waits and resources. -/
def Obligations.SchedulingEvents : Prop :=
  Claims.IssueSelect ∧ Claims.AccessIssue ∧ Claims.Refills ∧ Claims.WaitsEnd ∧ Claims.SlabArbiter ∧ Claims.ResourceEvents

/-! ### Events of launches and teams -/

/-- R106 to R110: the record that a launch's package posts: a CLAIM on the STATE word of its slot, from one ST to another. -/
def Sys2Proof.Machine.ClaimPosted (s t : State) (l : Launch) (a b : Nat) : Prop :=
  ∃ e, t.loop.queue = s.loop.queue ++ [e] ∧ e.ctx = l.ctx ∧ e.dev = true ∧ recType e.record = 2 ∧
    recField e.record 0x08 4 = stateOff l.ctx l.queue l.slot % 2 ^ 32 ∧
    recField e.record 0x10 8 = (l.seq % 2 ^ 48 * 2 ^ 16 + a) % 2 ^ 64 ∧
    recField e.record 0x18 8 = (l.seq % 2 ^ 48 * 2 ^ 16 + b) % 2 ^ 64
/-- R107 to R111, R113, R115: LAUNCH_ADMIT takes the launch that R108 chooses: of a pending one it reserves the first unit, or every unit of
a deterministic launch, and posts its admission CLAIM; of an admitted one it starts the next unit. A lone team takes the core of R113, with
the params in s1 and the sequence number in s2 of every group, at the execute entry. LAUNCH_REFUSE posts the refusal, LAUNCH_COMPLETE the
completion. Model's choices: notes/assumptions/47.md, notes/assumptions/53.md. -/
def Sys2Proof.Claims.LaunchEvents : Prop :=
  ∀ (s : State) (l : Launch), s.launchAt l.seq = some l →
    (nextLaunch (s.launches.filter fun x => s.admissible x) = some l →
      (∀ k r, l.stage = .pending → s.headerRead l = .good k → s.admitUnits l k = some r → TapRoom s →
        ∃ t, exec .launchAdmit s = .next t ∧ ClaimPosted s t l 1 2 ∧ t.teams = r.teams ∧
          t.launchAt l.seq = some { l with stage := .claiming, kernel := some k, nextUnit := l.nextUnit + unitsAtOnce l k }) ∧
      (∀ k core a, (l.stage = .pending ∧ s.headerRead l = .good k) ∨ (l.stage = .admitted ∧ l.kernel = some k) →
        k.cluster = false → k.determ = false → s.arenaFor l.ctx (imageBytes k.groups) = some a →
        s.bestCore l.ctx l.dies k.need allCores = some core → s.coreFits l.ctx core k.need = true →
        (∀ x ∈ s.teams, x.launch = l.seq → x.phase ≠ .reserved) →
        ∃ t u, exec .launchAdmit s = .next t ∧ t.teams = s.teams ++ [u] ∧ u.launch = l.seq ∧ u.core = core ∧ u.arena = a ∧
          u.phase = (if l.stage = .pending then .reserved else .running) ∧
          u.frags.map (fun f => f.pc) = [k.image + BitVec.ofNat 64 k.execEntry] ∧
          (∀ g < u.groups.length, (u.group g).sget 1 = l.params ∧ (u.group g).sget 2 = BitVec.ofNat 64 l.seq ∧
            (u.group g).genmax = k.genmax ∧ (u.group g).v = [] ∧ (u.group g).fstat = 0) ∧
          (t.launchAt l.seq).map (fun x => x.nextUnit) = some (l.nextUnit + 1))) ∧
    (∀ c, l.stage = .pending → s.refusalCause l = some c → TapRoom s → ∃ t, exec (.launchRefuse l.seq) s = .next t ∧
      t.launchAt l.seq = some { l with stage := .refusing c } ∧ ClaimPosted s t l 1 (c * 2 ^ 8 + 4) ∧ t.teams = s.teams) ∧
    (l.stage = .admitted → l.nextUnit = l.gx * l.gy * l.gz → (∀ u ∈ s.teams, u.launch ≠ l.seq) → (∀ o ∈ s.ops, o.launch ≠ l.seq) →
      TapRoom s →
      ∃ t, exec (.launchComplete l.seq) s = .next t ∧ t.launchAt l.seq = some { l with stage := .completing } ∧
        ClaimPosted s t l 2 3)
/-- R94, R116, R197, R228: TEAM_LEAVE of a team with no fragment left and none of R94's operations outstanding takes it off its
core, scrubs what it held, and logs its undelivered faults. Model's choice: notes/assumptions/63.md. -/
def Sys2Proof.Claims.TeamLeaves : Prop :=
  ∀ (s : State) (u : Team), s.teamAt u.id = some u → u.frags = [] → u.resident = true → u.phase ≠ .reserved → s.update = [] →
    (∀ o ∈ s.ops, o.team = u.id → o.kind.keepsTeam = false) →
    ∃ t x, exec (.teamLeave u.id) s = .next t ∧ t.teamAt u.id = none ∧ (∀ k, k ≠ u.id → t.teamAt k = s.teamAt k) ∧ t.mem = s.mem ∧
      t.scrubs = s.scrubs ++ [x] ∧ x.core = u.core ∧ x.ctx = u.ctx ∧ x.slots = u.groups.map (fun y => y.slot) ∧ x.mats = u.halves ∧
      x.tiles = ⟨u.tilesIn 0, u.tilesIn 1⟩ ∧ x.slabs = ⟨u.slabsIn 0, u.slabsIn 1⟩ ∧ x.bars = ⟨u.barsIn 0, u.barsIn 1⟩ ∧
      x.records = ⟨u.recordsIn 0, u.recordsIn 1⟩ ∧ x.entries = u.frames.filterMap (fun f => f.entry) ∧
      t.host.faultLog = s.host.faultLog ++ u.held.map fun h => (u.ctx, u.id, h.cause, h.info, h.pc)
/-- R220, R222 to R224: PREEMPT, for a cause of R224, stops a running team, and rolls a region of it back; TEAM_SAVE, once every fragment
can be saved, writes the hardware's part of the image and parks the fragments by the hardware save where no safe point names routines, and,
all being parked, frees the core; TEAM_RESTORE starts the team again on the core that R113 gives. Model's choices:
notes/assumptions/17.md, notes/assumptions/54.md. -/
def Sys2Proof.Claims.Preemption : Prop :=
  ∀ (s : State) (u : Team), s.teamAt u.id = some u →
    (s.preemptDue u = true → u.kernel.determ = false → s.update = [] →
      ∃ t v, exec (.preempt u.id) s = .next t ∧ t.teamAt u.id = some v ∧ v.phase = .stopping ∧ t.mem = s.mem ∧ t.ops = s.ops ∧
        ∀ f, u.fragAt f.id = some f → f.mode = .normal → u.kernel.regioned = true → f.region.pinned = false →
          ∃ g, v.fragAt f.id = some g ∧ g.pc = f.region.start ∧ g.e = f.region.ckE ∧ g.region.buf = []) ∧
    (u.phase = .stopping → u.frags ≠ [] → (∀ f ∈ u.frags, f.mode = .normal ∧ u.saveable f = true) → u.kernel.safeTable = 0 →
      s.update = [] → s.saveBusy u.id = false → (∀ g, (u.group g).station = none) →
      ∃ t v, exec (.teamSave u.id) s = .next t ∧ t.teamAt u.id = some v ∧ v.phase = .saving ∧
        t.mem = (s.writeParts u true (s.pendingRegs u.id)).mem ∧
        v.frags = u.frags.map fun f => { f with mode := .parked none [] (s.pendingRegs u.id) }) ∧
    (u.phase = .saving → u.frags ≠ [] → (∀ f ∈ u.frags, f.isParked = true) → s.saveBusy u.id = false →
      ∃ t v x, exec (.teamSave u.id) s = .next t ∧ t.teamAt u.id = some v ∧ v.phase = .saved ∧
        v.resident = false ∧ (∀ f ∈ v.frags, f.entry = none) ∧ t.scrubs = s.scrubs ++ [x] ∧ x.core = u.core ∧ t.mem = s.mem) ∧
    (∀ core r t, u.phase = .saved → s.ctxHeld u.ctx = false → u.ctx ∉ s.host.dissolving → u.kernel.cluster = false →
      s.bestCore u.ctx (((s.launchAt u.launch).map fun l => l.dies).getD 0) u.restoreNeed allCores = some core →
      s.reloadTeam u core = .ok r → r.refetchAll u = some t →
      exec (.teamRestore u.id) s = .next t ∧ ∃ v, t.teamAt u.id = some v ∧ v.phase = .running ∧ v.core = core ∧
        v.frags.length = u.frags.length ∧
        ((∀ f ∈ u.frags, ∃ o p, f.mode = .parked none o p) → v.frags.map (fun f => (f.mode, f.pc, f.m)) =
          u.frags.map fun f => (.normal, f.pc, f.m)))
/-- R225, R228, R229: WATCHDOG logs the fault of a fragment whose count has passed its limit and its lanes exit; an imprecise
fault is delivered at an instruction boundary of the fragment that raised it, with the PC that raised it as TRAPPC and the next
one as RPC. Model's choices: notes/assumptions/65.md, notes/assumptions/66.md. -/
def Sys2Proof.Claims.FaultEvents : Prop :=
  ∀ (s : State) (u : Team) (f : Fragment), s.teamAt u.id = some u → u.fragAt f.id = some f → f.mode = .normal →
    (u.resident = true → f.limit < f.wdog → ∃ t v, exec (.watchdog u.id f.id false) s = .next t ∧ t.teamAt u.id = some v ∧
      t.host.faultLog = s.host.faultLog ++ [(u.ctx, u.id, 0x38, BitVec.ofNat 64 f.wdog, f.pc)] ∧
      ∀ g < u.groups.length, (v.group g).exited = (u.group g).exited ||| maskAt f.m g) ∧
    (∀ x, u.resident = true → u.threadAt x.group = some x → x.running = true → x.frag.limit < x.frag.wdog →
      ∃ t v y, exec (.watchdog u.id x.group true) s = .next t ∧ t.teamAt u.id = some v ∧ v.threadAt x.group = some y ∧
        y.running = false ∧
        t.host.faultLog = s.host.faultLog ++ [(u.ctx, u.id, 0x38, BitVec.ofNat 64 x.frag.wdog, x.frag.pc)]) ∧
    (∀ h rest, u.resident = true → u.phase ≠ .reserved → s.detHold u = false → u.held = h :: rest → h.thread = none → h.frag = f.id → u.kernel.trapEntry ≠ 0 →
      u.kernel.regioned = false →
      ∃ t v g, exec (.impreciseFaultDelivery u.id) s = .next t ∧ t.teamAt u.id = some v ∧ v.held = rest ∧ v.lost = false ∧
        v.fragAt f.id = some g ∧ g.pc = u.kernel.image + BitVec.ofNat 64 u.kernel.trapEntry ∧ g.cls = 3 ∧ g.m = f.m ∧
        g.mode = .handler h.pc h.cause (if u.lost then h.info ||| 0x8000000000000000 else h.info) f.pc (pcSlot h.pc) f.cls)
/-- R226: a deterministic round ends when every fragment of the launch has stopped and its loads have completed; when nothing is left to commit and the work
of the launch has completed, the next round begins with memory as it stands and no instruction counted. Model's choice:
notes/assumptions/62.md. -/
def Sys2Proof.Claims.Rounds : Prop :=
  ∀ (s : State) (l : Launch) (k : Kernel), s.launchAt l.seq = some l → l.kernel = some k → k.determ = true →
    (∃ u ∈ s.teams, u.launch = l.seq) →
    (∀ m, l.roundMem = some m → (∀ u ∈ s.teams, u.launch = l.seq → ∀ f ∈ u.frags, u.roundStopped f = true) →
      s.roundLoads l.seq = false →
      ∃ t, exec (.detRoundCommit l.seq) s = .next t ∧ t.launchAt l.seq = some { l with roundMem := none } ∧ t.mem = s.mem) ∧
    (l.roundMem = none → s.forced = [] → s.roundWork l.seq = false →
      ∃ t, exec (.detRoundCommit l.seq) s = .next t ∧ t.launchAt l.seq = some { l with roundMem := some s.mem } ∧ t.mem = s.mem ∧
        ∀ u ∈ t.teams, u.launch = l.seq → ∀ f ∈ u.frags, f.inRound = 0)
/-- The events of launches and teams. -/
def Obligations.TeamEvents : Prop :=
  Claims.LaunchEvents ∧ Claims.TeamLeaves ∧ Claims.Preemption ∧ Claims.FaultEvents ∧ Claims.Rounds

/-! ### Events of the matrix array, the tiles and the streams -/

/-- Bytes that an engine moves lie in the package, and no update-only line holds any. -/
def Sys2Proof.Machine.LocalRuns (s : State) (runs : List (Nat × Nat)) : Prop :=
  s.update = [] ∧ (∀ r ∈ runs, keyPooled r.1 = false) ∧ ∀ k ∈ runKeys runs, keyPooled k = false
/-- R177 to R181, R186, R200: a step of a matrix operation at the head of its halves, with its records in the queue, adds to
every element of its rows the exact sum of the products of a record's elements and those of the B registers, and takes the
records; a queue of the wrong direction, or too shallow, ends the operation early. Model's choice: notes/assumptions/52.md. -/
def Sys2Proof.Claims.MatrixSteps : Prop :=
  ∀ (s : State) (u : Team) (o : Op) (m : MatrixOp), s.opAt o.id = some o → s.teamAt o.team = some u → o.kind = .matrix m →
    m.ended = false → s.matrixDue o m = true → m.group < u.groups.length → m.queue < (u.group m.group).queues.length →
    m.tile < u.tiles.length → cellWf Elem.zero (u.tile m.tile).elems = true →
    let q := (u.group m.group).queue m.queue
    let n := if m.rowh.isSome then 32 else 64
    let m0 := 32 * m.rowh.getD 0
    (q.store = false → n ≤ q.depth → n ≤ q.recs.length → m0 + n ≤ 64 →
      ∃ t v p, exec (.matrixStep o.id) s = .next t ∧ t.teamAt o.team = some v ∧ t.opAt o.id = some p ∧ t.mem = s.mem ∧
        p.kind = .matrix { m with done := m.done + 1, ended := m.done + 1 == m.count } ∧
        ((v.group m.group).queue m.queue).recs = q.recs.drop n ∧ (v.tile m.tile).steps = m.done + 1 ∧
        (∀ k, k ≠ m.tile → v.tile k = u.tile k) ∧
        ∀ i < 64, ∀ j < 64, (v.tile m.tile).at i j =
          if i < m0 ∨ m0 + n ≤ i then (u.tile m.tile).at i j
          else ((u.tile m.tile).at i j).contribute (u.tile m.tile).anchor (contribOf ((List.range (kStep m.ty)).map fun k =>
            (packedVal m.ty k (((q.recs[i - m0]?).map fun r => r.data.toNat).getD 0)).mul
              (u.matrixB m (m.base + m.done * m.inc) k j)))) ∧
    (q.depth ≠ 0 → (q.store = true ∨ q.depth < n) →
      ∃ t v p, exec (.matrixStep o.id) s = .next t ∧ t.teamAt o.team = some v ∧ t.opAt o.id = some p ∧
        p.kind = .matrix { m with ended := true } ∧ (v.tile m.tile).err = true ∧ (v.tile m.tile).steps = m.done)
/-- R180, R181: MATRIX_OP_COMPLETE releases an operation that has ended, and MATRIX_OP_EARLY_END for a soft error ends one, marks its
tile, and raises the imprecise fault. -/
def Sys2Proof.Claims.MatrixEnds : Prop :=
  ∀ (s : State) (u : Team) (o : Op) (m : MatrixOp), s.opAt o.id = some o → s.teamAt o.team = some u → o.kind = .matrix m →
    (m.ended = true → ∃ t, exec (.matrixOpComplete o.id) s = .next t ∧ t.opAt o.id = none ∧ t.teams = s.teams ∧ t.mem = s.mem) ∧
    (m.ended = false → m.tile < u.tiles.length → u.held.length < 16 →
      ∃ t v p, exec (.matrixOpEarlyEnd o.id 0x02) s = .next t ∧ t.teamAt o.team = some v ∧ t.opAt o.id = some p ∧
        p.kind = .matrix { m with ended := true } ∧ (v.tile m.tile).err = true ∧ (v.tile m.tile).steps = m.done ∧
        ∃ h ∈ v.held, h.cause = 0x28 ∧ h.pc = o.pc)
/-- R174, R185, R187 to R193: the oldest instruction of a datapath, once what it waits for is done, acts on its tiles and
registers and ends. Model's choice: notes/assumptions/48.md. -/
def Sys2Proof.Claims.TileExecutes : Prop :=
  ∀ (s : State) (u : Team) (o : Op) (core half : Nat) (c : TileCmd), s.tileHead core half = some o → s.teamAt o.team = some u →
    s.opAt o.id = some o → s.depsDone o = true → o.kind = .tile c half →
    o.kind.accs = [] →
    ∃ t v, exec (.tileDatapathExecute core half) s = .next t ∧ t.teamAt o.team = some v ∧ t.opAt o.id = none ∧ t.mem = s.mem ∧
      { v with energy := u.energy } = u.tileRun o c ∧
      (∀ d n, c = .clear d n → d < u.tiles.length → v.tile d = { anchor := n, steps := 0, err := false, elems := [] }) ∧
      (∀ d a, c = .move d a → d < u.tiles.length → v.tile d = u.tile a) ∧
      (∀ g r a k, c = .stat g (.t r a k) → g < u.groups.length → r ≠ 0 → (v.group g).sget r.toNat = (u.tile a.toNat).status) ∧
      (∀ g m thr, c = .compare g m thr → g < u.groups.length → ∀ k < m.nrows.toNat, m.d.toNat + k ≠ 0 → ∀ j < 64,
        ((v.group g).sget (m.d.toNat + k)).getLsbD j = compareElem m.cond (u.tile m.a.toNat).anchor
          ((u.tile m.a.toNat).at (m.row.toNat + k) j) (thr.getD j 0)) ∧
      (∀ g m r, c = .resolve g m r → g < u.groups.length → ∀ k < m.nrows.toNat, m.d.toNat + k ≠ 0 → ∀ j < 64,
        ((v.group g).vget (m.d.toNat + k)).lane j = BitVec.ofNat 32 (resolveElem m.ty m.rm m.sat (u.tile m.a.toNat).anchor
          ((u.tile m.a.toNat).at (m.row.toNat + k) j)).1)
/-- R168 to R170, R185, R194: the carry-save step adds to the value of an element modulo 2⁹⁶; a shift floors the value; AADD adds the
value, shifted to the anchor of the destination and floored; an element saved and loaded is itself. -/
def Sys2Proof.Claims.TileArithmetic : Prop :=
  (∀ (e : Elem) (x : Int), (e.add x).value = (BitVec.ofInt 96 (e.value + x)).toInt) ∧
  (∀ (t : Tile) (n : Int) (i j : Nat), cellWf Elem.zero t.elems = true → i < 64 → j < 64 → 0 ≤ n → (t.shift n).anchor = t.anchor + n ∧
    ((t.shift n).at i j).value = (t.at i j).value / 2 ^ n.toNat) ∧
  (∀ (d a : Tile) (i j : Nat), cellWf Elem.zero d.elems = true → i < 64 → j < 64 → a.anchor ≤ d.anchor →
    ((d.addTile a).at i j).value =
      (BitVec.ofInt 96 ((d.at i j).value + (a.at i j).value / 2 ^ (d.anchor - a.anchor).toNat)).toInt) ∧
  ∀ e : Elem, Elem.ofBytes e.bytes = e
/-- R193, R194: ASAVE and ALOAD move one row of 1,600 bytes at each step, 25 bytes an element, to and from the addresses that follow one
another, and end after the last. -/
def Sys2Proof.Claims.TileRows : Prop :=
  ∀ (s : State) (u : Team) (o : Op) (core half g a row left : Nat) (addr : DWord) (l ahead : List (Nat × Nat)),
    s.tileHead core half = some o → s.teamAt o.team = some u → s.opAt o.id = some o → s.depsDone o = true → left ≠ 0 →
    LocalRuns s l → (∀ p ∈ s.ops, p.lvl = 0) → ((s.launchAt o.launch).bind fun x => x.roundMem) = none →
    (o.kind = .tile (.save g a addr row left ahead) half → s.rowCheck o.ctx true addr.toNat = .runs l →
      ∃ t, exec (.tileDatapathExecute core half) s = .next t ∧ t.mem = Memory.writeRuns s.mem l ((u.tile a).rowBytes row) ∧
        (t.opAt o.id).map (fun p => p.kind) =
          if left = 1 then none else some (.tile (.save g a (addr + 1600) (row + 1) (left - 1) ahead) half)) ∧
    (o.kind = .tile (.load g a addr row left ahead) half → s.rowCheck o.ctx false addr.toNat = .runs l → a < u.tiles.length → row < 64 →
      ∃ t v, exec (.tileDatapathExecute core half) s = .next t ∧ t.mem = s.mem ∧ t.teamAt o.team = some v ∧
        (t.opAt o.id).map (fun p => p.kind) =
          (if left = 1 then none else some (.tile (.load g a (addr + 1600) (row + 1) (left - 1) ahead) half)) ∧
        ∀ i < 64, ∀ j < 64, (v.tile a).at i j =
          if i = row then Elem.ofBytes (((Memory.runBytes s.mem l).drop (25 * j)).take 25) else (u.tile a).at i j)
/-- R199, R202, R203: the next record of the oldest load stream of a queue enters it when there is room; that of the oldest
store stream leaves it for memory; a record that does not translate sets FAULT, ends the stream and is held as a fault. Model's
choice: notes/assumptions/30.md. -/
def Sys2Proof.Claims.StreamMoves : Prop :=
  ∀ (s : State) (u : Team) (o : Op) (x : StreamOp) (l : List (Nat × Nat)), s.opAt o.id = some o → s.teamAt o.team = some u →
    o.kind = .stream x → u.phase = .running ∨ u.phase = .stopping → s.streamFirst o x = true → s.depsDone o = true →
    (∀ p ∈ s.ops, p.lvl = 0) → (∀ r ∈ x.items, ∀ va n, r ≠ .mig va n none) → x.group < u.groups.length →
    x.queue < (u.group x.group).queues.length → LocalRuns s l →
    let q := (u.group x.group).queue x.queue
    let left (t : State) : Prop := (t.opAt o.id).map (fun p => p.kind) =
      if x.next + 1 = x.n then none else some (.stream { x with next := x.next + 1 })
    (x.store = false → s.streamRec x = .runs l → q.recs.length < q.depth →
      ∃ t v r, exec (.streamRecordArrive o.id) s = .next t ∧ t.teamAt o.team = some v ∧ left t ∧ t.mem = s.mem ∧
        ((v.group x.group).queue x.queue).recs = q.recs ++ [r] ∧ r.data = BitVec.ofNat 256 (leNat (Memory.runBytes s.mem l)) ∧
        r.src = some { stream := o.id, pc := o.pc, va := BitVec.ofNat 64 (x.addr x.next), w24 := x.w24 }) ∧
    (∀ r rest, x.store = true → s.streamRec x = .runs l → q.recs = r :: rest →
      ∃ t v, exec (.streamWritePerform o.id) s = .next t ∧ t.teamAt o.team = some v ∧ left t ∧
        ((v.group x.group).queue x.queue).recs = rest ∧
        t.mem = Memory.writeRuns s.mem l (natLe (if x.w24 then 24 else 32) r.data.toNat)) ∧
    (∀ c va, s.streamRec x = .fault c va → u.held.length < 16 → ∀ e, (x.store = false ∧ e = .streamRecordArrive o.id) ∨
        (x.store = true ∧ e = .streamWritePerform o.id) →
      ∃ t v, exec e s = .next t ∧ t.teamAt o.team = some v ∧ t.opAt o.id = none ∧ t.mem = s.mem ∧
        ((v.group x.group).queue x.queue).fault = true ∧ ∃ h ∈ v.held, h.cause = 0x15 ∧ h.info = BitVec.ofNat 64 va)
/-- The events of the matrix array, the tiles and the streams. -/
def Obligations.TileEvents : Prop :=
  Claims.MatrixSteps ∧ Claims.MatrixEnds ∧ Claims.TileExecutes ∧ Claims.TileArithmetic ∧ Claims.TileRows ∧ Claims.StreamMoves

/-! ### Events of memory and of the engines -/

/-- R276: UPDATE_ONLY_FLUSH sends one update-only line of a core, here of a page in the package, home: its words are combined there, its entries go, and every
other byte is as before. Model's choices: notes/assumptions/30.md, notes/assumptions/37.md. -/
def Sys2Proof.Claims.UpdateFlush : Prop :=
  ∀ (core line : Nat) (s : State), keyPooled (128 * line) = false →
    (∀ e ∈ s.update, e.core = core → e.line = line → keyPooled e.key = false) →
    ∃ t, exec (.updateOnlyFlush core line) s = .next t ∧ t.teams = s.teams ∧
      (∀ e, e ∈ t.update ↔ e ∈ s.update ∧ ¬(e.core = core ∧ e.line = line)) ∧
      (∀ k, (∀ e ∈ s.update, e.core = core → e.line = line → k < e.key ∨ e.key + e.w ≤ k) →
        Memory.byte t.mem k = Memory.byte s.mem k) ∧
      ∀ (e : UpdateEntry) (op : AtomOp), (s.update.filter fun x => x.core == core && x.line == line) = [e] →
        e.fn = op.code.toNat → e.val < 256 ^ e.w →
        Memory.read t.mem e.key e.w = atomSpec op e.signed e.w (Memory.read s.mem e.key e.w) e.val 0
/-- R263, R264: once every earlier packet of the path has been applied, the acknowledgement of a flush marker raises pts to the largest wts
that the path has received, where that lies within the window in which timestamps compare (R311); a FENCE that waits for no other marker
ends, a store goes on to perform. -/
def Sys2Proof.Claims.MarkerAck : Prop :=
  ∀ (port : Nat) (s : State) (o : Op), (s.portAt port).toNode = [] → (∀ d ∈ (s.portAt port).dropped, d.1 = false) →
    (∀ h ∈ (s.nodeAt port).heldWrites, h.src ≠ s.pkgNo) →
    (s.ops.find? fun x => x.markers.contains port && s.depsDone x) = some o → s.opAt o.id = some o →
    (∀ e, o.kind ≠ .engine e) → s.portOpen o.ctx port = true → cellGet 0 (s.portAt port).txCount o.ctx ≠ BitVec.allOnes 64 →
    cellGet 0 (s.portAt port).rxCount o.ctx ≠ BitVec.allOnes 64 →
    ∃ t, exec (.flushMarkerAck port) s = .next t ∧ t.mem = s.mem ∧
      t.pts = (match (s.nodeAt port).pathWts with
        | some y => if s.ticks - y.2 < 16384 then tsMax s.pts y.1 else s.pts
        | none => s.pts) ∧
      (o.kind = .fence → (∀ p ∈ o.markers, p = port) → t.opAt o.id = none) ∧
      ∀ lanes col, o.kind = .store lanes col → t.opAt o.id = some { o with markers := o.markers.filter fun p => p != port }
/-- R245: once the operations that used the old entry have ended, the package posts an ADD of 1 to the acknowledgement word. -/
def Sys2Proof.Claims.PteAcks : Prop :=
  ∀ (id : Nat) (s : State) (a : PteAck), (s.loop.acks.find? fun x => x.id == id) = some a → (∀ i ∈ a.ops, s.opAt i = none) →
    s.bufferUses a.ctx a.old a.lvl = false → TapRoom s →
    ∃ t e, exec (.pteAckPost id) s = .next t ∧ t.mem = s.mem ∧ t.teams = s.teams ∧ (∀ x ∈ t.loop.acks, x.id ≠ id) ∧
      t.loop.queue = s.loop.queue ++ [e] ∧ e.ctx = a.ctx ∧ e.dev = true ∧ recType e.record = 3 ∧
      recField e.record 8 4 = a.ack % 2 ^ 32 ∧ recField e.record 0x0C 1 = 8 ∧ recField e.record 0x10 8 = 1
/-- R262, R282, R289, R290: an item of CPL or CPBOX moves, once what its operation waits for has performed: its destination
takes the bytes that its source held, and the item is done. No store that the issuer sees is on its way home, and no range of the
operation waits for room in the range-lock table (R246, R287). Model's choice: notes/assumptions/30.md. -/
def Sys2Proof.Claims.CopyItems : Prop :=
  ∀ (s : State) (o : Op) (e : EngOp) (k : Nat) (i : Item) (a b : List (Nat × Nat)), s.opAt o.id = some o → o.kind = .engine e →
    (e.kind = .cpl ∨ ∃ m n, e.kind = .cpbox m n) → e.items[k]? = some i → i.done = false → i.pend = 0 → i.stage = .idle →
    s.depsDone o = true → o.markers = [] → (∀ p ∈ s.ops, p.lvl = 0) → s.opDeterm o = false →
    s.settleOp (fun p => p.isNone) o = s → i.src = .runs a → i.dst = .runs b → LocalRuns s a → LocalRuns s b →
    ∃ t p, exec (.copyItemComplete o.id k) s = .next t ∧ t.mem = Memory.writeRuns s.mem b (Memory.runBytes s.mem a) ∧
      t.opAt o.id = some p ∧ p.kind = .engine { e with items := e.items.set k { i with done := true } }
/-- R285 to R287, R295: with every item done, the operation of a CPBOX ends: its pair holds DONE, ERR and the cause where an item failed,
and the bytes that were moved, in every lane; a failure is one imprecise fault. -/
def Sys2Proof.Claims.CopyEnds : Prop :=
  ∀ (s : State) (u : Team) (o : Op) (e : EngOp) (rows : Nat), s.opAt o.id = some o → s.teamAt o.team = some u → u.resident = true →
    u.imaged = false → o.kind = .engine e → e.kind = .cpbox none rows → (∀ i ∈ e.items, i.done = true ∧ i.pend = 0 ∧ i.dropped = false) →
    s.depsDone o = true → e.group < u.groups.length → e.d ≠ 0 →
    (∀ c va, o.fail = some (c, va) → c ≠ 0) →
    ∃ t v, exec (.copyFinalWord o.id) s = .next t ∧ t.opAt o.id = none ∧ t.teamAt o.team = some v ∧ t.mem = s.mem ∧
      (∀ j < 64, ((v.group e.group).vget (e.d + 1)).lane j ++ ((v.group e.group).vget e.d).lane j =
        BitVec.ofNat 64 (2 ^ 63 + (match o.fail with | none => 0 | some f => 2 ^ 62 + 2 ^ 55 * f.1) +
          ((e.items.filter fun i => i.cause == 0).map fun i => i.len).sum)) ∧
      (o.fail = none → v.held = u.held) ∧
      ∀ c va, o.fail = some (c, va) → u.held.length < 16 → ∃ h ∈ v.held, h.cause = c ∧ h.info = va ∧ h.pc = o.pc
/-- R283: an engine with no item left takes an item of another engine of its die. -/
def Sys2Proof.Claims.Stealing : Prop :=
  ∀ (engine v : Nat) (s : State), s.untaken engine = 0 → s.busiest ((List.range 48).map fun k => engine / 48 * 48 + k) = some v →
    ∃ t, exec (.workSteal engine) s = .next t ∧ t.mem = s.mem ∧ t.teams = s.teams ∧
      ∃ o ∈ t.ops, ∃ e, o.kind = .engine e ∧ ∃ i ∈ e.items, i.engine = engine ∧ i.taken = true ∧ i.done = false
/-- R291, R292: the landing of a multicast at a position writes byte 256 k + 4 j of the source and the three after it to lane j of
register base + ROFF + k of the station there; without a station it is dropped. -/
def Sys2Proof.Claims.Landings : Prop :=
  ∀ (s : State) (o : Op) (e : EngOp) (grp roff n pos j : Nat) (ps ls : List Item) (i : Item), s.opAt o.id = some o →
    o.kind = .engine e → e.kind = .cpmc grp roff n ps.length → e.items = ps ++ ls → (∀ p ∈ ps, p.done = true ∧ p.cause = 0) →
    ls[j]? = some i → i.lane = pos → i.done = false → (∀ k < j, ∀ x, ls[k]? = some x → x.lane ≠ pos ∨ x.done = true) →
    let now (t : State) (x : Item) : Prop :=
      (t.opAt o.id).map (fun p => p.kind) = some (.engine { e with items := ps ++ ls.set j x })
    ((∀ u, s.teamAt i.peer = some u → (u.group grp).station = none) →
      ∃ t, exec (.cpmcLanding o.id pos) s = .next t ∧ t.teams = s.teams ∧ t.mem = s.mem ∧
        now t { i with done := true, dropped := true }) ∧
    ∀ u st, s.teamAt i.peer = some u → u.resident = true → u.imaged = false → grp < u.groups.length → (u.group grp).station = some st → 0 < st.base →
      roff + n ≤ st.n → st.landed + 256 * n < st.eb →
      ∃ t v, exec (.cpmcLanding o.id pos) s = .next t ∧ t.teamAt i.peer = some v ∧ t.mem = s.mem ∧ now t { i with done := true } ∧
        (v.group grp).station = some { st with landed := st.landed + 256 * n } ∧
        ∀ k < n, ∀ l < 64, ((v.group grp).vget (st.base + roff + k)).lane l =
          BitVec.ofNat 32 (leNat (((ps.flatMap fun p => natLe p.len p.val).drop (256 * k + 4 * l)).take 4))
/-- R264, R309: at a lease tick, once for each 1,024 ns of pod time, T moves on by one and pts becomes max(pts + 1, T), the later of the two;
the lease copies that it passes are gone. -/
def Sys2Proof.Claims.LeaseTicks : Prop :=
  ∀ s : State,
    (s.ticks < s.ns / 1024 → ∃ t, exec .leaseTick s = .next t ∧ t.teams = s.teams ∧ t.mem = s.mem ∧ t.ops = s.ops ∧
      t.ticks = s.ticks + 1 ∧
      (let T : BitVec 16 := BitVec.ofNat 16 (s.ticks + 1)
       t.pts = if 1 ≤ (T - (s.pts + 1)).toNat ∧ (T - (s.pts + 1)).toNat ≤ 32768 then T else s.pts + 1) ∧
      ∀ c, c ∈ t.copies ↔ c ∈ s.copies ∧ ¬(1 ≤ (t.pts - c.2.rts).toNat ∧ (t.pts - c.2.rts).toNat ≤ 32768)) ∧
    (s.ns / 1024 ≤ s.ticks → exec .leaseTick s = .next s)
/-- The events of memory and of the engines. -/
def Obligations.MemoryEvents : Prop :=
  Claims.UpdateFlush ∧ Claims.MarkerAck ∧ Claims.PteAcks ∧ Claims.CopyItems ∧ Claims.CopyEnds ∧ Claims.Stealing ∧ Claims.Landings ∧
    Claims.LeaseTicks

/-! ### Events of the fabric and the nodes -/

/-- The packet counter from node `n` for context `c` has numbers left for the answers under way and for those of one more request (R307). -/
def Sys2Proof.Machine.CountRoom (s : State) (n c : Nat) : Prop :=
  (cellGet 0 (s.portAt n).rxCount c).toNat + (s.portAt n).fromNode.length + (s.portAt n).dropped.length + 4096 < 2 ^ 64
/-- `p` is the oldest packet of this package on the path to node `n`, and nothing holds it back (R304, R307, R308, R311). -/
def Sys2Proof.Machine.NodeHead (s : State) (n : Nat) (p : Packet) : Prop :=
  ∃ x rest, s.ports[n]? = some x ∧ x.up = true ∧ x.toNode = p :: rest ∧ (∀ d ∈ x.dropped, d.1 = false) ∧
    (∀ h ∈ (s.nodeAt n).heldWrites, h.src ≠ p.src) ∧ p.src = s.pkgNo ∧ s.update = [] ∧ CountRoom s n p.ctx
/-- The node has taken the packet and sent these answers, in order (R304). -/
def Sys2Proof.Machine.NodeSends (s t : State) (n : Nat) (l : List Packet) : Prop :=
  ∃ x y, s.ports[n]? = some x ∧ t.ports[n]? = some y ∧ y.toNode = x.toNode.drop 1 ∧ y.fromNode = x.fromNode ++ l
/-- The node has taken the packet and sent this answer (R304). -/
def Sys2Proof.Machine.NodeAnswers (s t : State) (n : Nat) (p : Packet) (l : Payload) : Prop := NodeSends s t n [{ p with load := l }]
/-- The packets in which a node answers a request with the elements of a slot: 16 elements in each, one packet where there is none (R301). -/
def Sys2Proof.Machine.RedSlot.answers (x : RedSlot) (p : Packet) : List Packet :=
  (List.range (max 1 ((x.elems + 15) / 16))).map fun j => 
    let es : List (Nat × Nat) := (List.range x.elems).map fun k =>
      ((cellGet RedElem.zero x.vals k).v.toNat, (cellGet RedElem.zero x.vals k).flags.toNat)
    { p with load := .redData (16 * j) ((es.drop (16 * j)).take 16) true }
/-- The timestamps that a node holds for a sector. -/
def Sys2Proof.Machine.State.stampOf (s : State) (sec : Nat) : Option Stamp := tableFind (s.nodeAt (keyNode (32 * sec))).stamps sec
/-- R309, R310: a read at a node answers with the bytes and the sector's wts, and raises its rts to at least pts + LEASE; memory is as
before. -/
def Sys2Proof.Claims.NodeReads : Prop :=
  ∀ (n k : Nat) (s : State) (p : Packet), NodeHead s n p → p.load = .read k →
    (∃ t w r, exec (.nodeRead n none) s = .next t ∧ t.mem = s.mem ∧ t.teams = s.teams ∧
      NodeAnswers s t n p (.readData (Memory.bytes s.mem p.addr k) w r)) ∧
    ∀ sec, p.addr = 32 * sec → k = 32 →
      let st := s.stampAt sec
      let r := tsMax st.rts (p.pts + BitVec.ofNat 16 p.lease)
      ∃ t, exec (.nodeRead n none) s = .next t ∧ t.stampOf sec = some { wts := st.wts, rts := r, seen := s.ticks } ∧
        NodeAnswers s t n p (.readData (Memory.bytes s.mem p.addr k) (tsMax (s.tickT - 16384) st.wts) r)
/-- R309 to R311: a write takes wts = rts = max(rts + 1, pts) of its sector and is acknowledged, or is held while its wts lies more than
2¹² ticks after T. -/
def Sys2Proof.Claims.NodeWrites : Prop :=
  ∀ (n : Nat) (s : State) (p : Packet) (b : List Byte), NodeHead s n p → p.load = .write b →
    (s.packetHeld p = false →
      (∃ t w, exec (.nodeWrite n none) s = .next t ∧ t.mem = Memory.writeBytes s.mem p.addr b ∧ t.teams = s.teams ∧
        NodeAnswers s t n p (.writeAck w 0)) ∧
      ∀ sec, p.addr = 32 * sec → b.length = 32 →
        let w := tsMax ((s.stampAt sec).rts + 1) p.pts
        ∃ t, exec (.nodeWrite n none) s = .next t ∧ t.stampOf sec = some { wts := w, rts := w, seen := s.ticks } ∧
          NodeAnswers s t n p (.writeAck (tsMax (s.tickT - 16384) w) 0)) ∧
    (s.packetHeld p = true → ∃ t, exec (.nodeWrite n none) s = .next t ∧ t.mem = s.mem ∧
      (t.nodeAt n).heldWrites = (s.nodeAt n).heldWrites ++ [p])
/-- R312: an atomic replaces the word and answers with the old value; its sector is in the atomic cache until as many ticks have passed
without another atomic as the lease length of its context says. Model's choice:
notes/assumptions/28.md. -/
def Sys2Proof.Claims.NodeAtomics : Prop :=
  ∀ (n off k b c : Nat) (sg : Bool) (op : AtomOp) (s : State) (p : Packet), NodeHead s n p →
    p.load = .atomic [(off, op.code.toNat, sg, k, b, c)] → s.packetHeld p = false → keyPooled (p.addr + off) = true →
    b < 256 ^ k → c < 256 ^ k →
    ∃ t w, exec (.nodeAtomic n none) s = .next t ∧ t.teams = s.teams ∧
      NodeAnswers s t n p (.atomicReply [Memory.read s.mem (p.addr + off) k] w 0) ∧
      Memory.read t.mem (p.addr + off) k = atomSpec op sg k (Memory.read s.mem (p.addr + off) k) b c ∧
      (∀ a, (a < p.addr + off ∨ p.addr + off + k ≤ a) → Memory.byte t.mem a = Memory.byte s.mem a) ∧
      tableFind (t.nodeAt (keyNode (p.addr + off))).cache (keySector (p.addr + off)) = some (s.ticks + p.lease)
/-- R311: a held write is applied once T has come near enough to its wts. -/
def Sys2Proof.Claims.HeldRelease : Prop :=
  ∀ (n : Nat) (s : State) (p : Packet) (rest : List Packet) (b : List Byte), (s.nodeAt n).heldWrites = p :: rest →
    s.packetHeld p = false → p.load = .write b → s.update = [] → CountRoom s n p.ctx →
    ∃ t, exec (.heldWriteRelease n) s = .next t ∧ t.mem = Memory.writeBytes s.mem p.addr b ∧ (t.nodeAt n).heldWrites = rest
/-- R312, R322: a sector on which no atomic has come for its ticks leaves the atomic cache, and no other does; a timestamp query answers with
wts and rts and takes no lease. Model's choice: notes/assumptions/28.md. -/
def Sys2Proof.Claims.NodeQueries : Prop :=
  ∀ (n : Nat) (s : State),
    (∀ sec leave, tableFind (s.nodeAt n).cache sec = some leave → leave ≤ s.ticks →
      ∃ t, exec (.atomicCacheWriteback n sec) s = .next t ∧ tableFind (t.nodeAt n).cache sec = none ∧ t.mem = s.mem ∧
        t.teams = s.teams) ∧
    (∀ sec, (∀ leave, tableFind (s.nodeAt n).cache sec = some leave → s.ticks < leave) →
      exec (.atomicCacheWriteback n sec) s = .next s) ∧
    ∀ p, NodeHead s n p → p.load = .tsQuery →
      let st := s.stampAt (p.addr / 32)
      ∃ t, exec (.timestampQuery n none) s = .next t ∧ t.mem = s.mem ∧ NodeAnswers s t n p (.tsReply st.wts st.rts) ∧
        t.stampOf (p.addr / 32) = some st
/-- R362: a node takes a slot's configuration when its record number is above that of the one it holds: the slot is empty of
contributions, and the requests that waited for it fail; an older configuration changes no slot. -/
def Sys2Proof.Claims.SlotConfigs : Prop :=
  ∀ (n recNo slot elems ranks : Nat) (anchor : Int) (word : DWord) (s : State) (p : Packet), NodeHead s n p →
    p.load = .config recNo slot word anchor elems ranks →
    (∀ ws : List Packet, ws = (match tableFind (s.nodeAt n).slots slot with | none => [] | some x => x.waiting) →
      (∀ x, tableFind (s.nodeAt n).slots slot = some x → x.recNo < recNo) → ws.length ≤ 1024 →
      (∀ q ∈ ws, q.src = s.pkgNo ∧ CountRoom s n q.ctx) →
      ∃ t, exec (.slotConfigApply n none) s = .next t ∧ t.mem = s.mem ∧ tableFind (t.nodeAt n).slots slot =
        some { recNo := recNo, claimed := word.getLsbD 24, owner := (word.extractLsb' 26 6).toNat, rankMode := word.getLsbD 25,
               elems := elems, anchor := anchor, ranks := ranks, got := [], due := 0, parked := [], vals := [], parts := [],
               waiting := [] } ∧
        NodeSends s t n (ws.map fun q => { q with load := .redData 0 [] false })) ∧
    ∀ x, tableFind (s.nodeAt n).slots slot = some x → recNo ≤ x.recNo →
      ∃ t, exec (.slotConfigApply n none) s = .next t ∧ t.nodes = s.nodes
/-- R301, R314 to R316: a contribution comes in one packet or more: once its last one is there, an exact-window slot adds to V of every
element its value at the slot's anchor, floored; in rank order it is parked until its rank is due; one that the slot must refuse changes
nothing and fails. Model's choice: notes/assumptions/44.md. -/
def Sys2Proof.Claims.Contributions : Prop :=
  ∀ (n slot rank w off total recNo : Nat) (acc : Bool) (l : List (Int × Int × Nat)) (s : State) (p : Packet), NodeHead s n p →
    p.load = .contrib slot rank acc w off total l recNo →
    ((∀ x, tableFind (s.nodeAt n).slots slot = some x → x.claimed = true → x.owner ≠ p.ctx ∨ x.ranks ≤ rank ∨ rank ∈ x.got ∨
        (acc = true ∧ x.rankMode = true) ∨ total ≠ x.elems ∨ recNo ≠ x.recNo) →
      ∃ t, exec (.reductionContribution n none) s = .next t ∧ t.nodes = s.nodes ∧ NodeAnswers s t n p (.redData 0 [] false)) ∧
    ∀ x, tableFind (s.nodeAt n).slots slot = some x → x.claimed = true → x.owner = p.ctx → rank < x.ranks → rank ∉ x.got →
      total = x.elems → recNo = x.recNo →
      let key := 1024 * p.src + rank
      let all := (if off = 0 then [] else (tableFind x.parts key).getD []) ++ l
      (all.length < total → (acc = true → x.rankMode = false) →
        ∃ t, exec (.reductionContribution n none) s = .next t ∧ NodeAnswers s t n p (.redData 0 [] true) ∧
          tableFind (t.nodeAt n).slots slot = some { x with parts := tablePut x.parts key all }) ∧
      (total ≤ all.length → x.rankMode = false →
        ∃ t y, exec (.reductionContribution n none) s = .next t ∧ NodeAnswers s t n p (.redData 0 [] true) ∧
          tableFind (t.nodeAt n).slots slot = some y ∧ y.got = x.got ++ [rank] ∧
          ∀ k c, all[k]? = some c → (cellGet RedElem.zero y.vals k).v =
            (cellGet RedElem.zero x.vals k).v + BitVec.ofInt 96 (floorAt c.1 c.2.1 (x.anchor - 64)).1) ∧
      (total ≤ all.length → x.rankMode = true → acc = false → x.due < rank → tableFind x.parked x.due = none →
        ∃ t, exec (.reductionContribution n none) s = .next t ∧ NodeAnswers s t n p (.redData 0 [] true) ∧
          tableFind (t.nodeAt n).slots slot =
            some { x with got := x.got ++ [rank], parked := tablePut x.parked rank all, parts := tableDrop x.parts key })
/-- R301, R313, R321: a read of a ready slot answers with its elements; of a slot that is not ready, it waits there, and is answered
once the slot is ready; of a slot that is not the context's, it fails. Model's choice: notes/assumptions/44.md. -/
def Sys2Proof.Claims.ReductionReads : Prop :=
  ∀ (n slot recNo : Nat) (s : State) (p : Packet),
    (NodeHead s n p → (s.nodeAt n).dueRead = none → p.load = .redRead slot recNo →
      ((∀ x, tableFind (s.nodeAt n).slots slot = some x → x.claimed = true → x.owner ≠ p.ctx ∨ recNo ≠ x.recNo) →
        ∃ t, exec (.reductionRead n none) s = .next t ∧ t.nodes = s.nodes ∧ NodeAnswers s t n p (.redData 0 [] false)) ∧
      ∀ x, tableFind (s.nodeAt n).slots slot = some x → x.claimed = true → x.owner = p.ctx → recNo = x.recNo → x.elems ≤ 4096 →
        (x.got.length = x.ranks → ∃ t, exec (.reductionRead n none) s = .next t ∧ t.nodes = s.nodes ∧
          NodeSends s t n (x.answers p)) ∧
        (x.got.length ≠ x.ranks → ∃ t, exec (.reductionRead n none) s = .next t ∧
          tableFind (t.nodeAt n).slots slot = some { x with waiting := x.waiting ++ [p] })) ∧
    ∀ x y, (s.nodeAt n).dueRead = some (slot, x, p) → s.ports[n]? = some y → p.src = s.pkgNo → x.elems ≤ 4096 → CountRoom s n p.ctx →
      ∃ t z, exec (.reductionRead n none) s = .next t ∧ t.ports[n]? = some z ∧ z.fromNode = y.fromNode ++ x.answers p ∧
        tableFind (t.nodeAt n).slots slot = some { x with waiting := x.waiting.drop 1 }
/-- R264, R304, R310: a reply raises pts by its wts and answers one packet of its operation; the data of a read stays as a lease copy
with its rts, where memory-side SRAM has room for lease copies (R16). -/
def Sys2Proof.Claims.Replies : Prop :=
  ∀ (n : Nat) (s : State) (x : Port) (p : Packet) (rest : List Packet) (o : Op), s.ports[n]? = some x → x.up = true →
    x.fromNode = p :: rest → (∀ d ∈ x.dropped, d.1 = true) → s.opAt p.op = some o →
    (∀ g d ty gs ls b w r, o.kind = .load g d ty gs ls → p.load = .readData b w r → b.length = 32 → 0 < s.copyRoom →
      ∃ t, exec (.replyReceive n none) s = .next t ∧ t.pts = tsMax s.pts w ∧ t.mem = s.mem ∧
        t.opAt p.op = some { o with pend := o.pend - 1 } ∧
        tableFind t.copies (p.addr / 32) = some { data := BitVec.ofNat 256 (leNat b), rts := r }) ∧
    (∀ ls col w c, o.kind = .store ls col → o.fail = none → p.load = .writeAck w c →
      ∃ t, exec (.replyReceive n none) s = .next t ∧ t.pts = tsMax s.pts w ∧ t.mem = s.mem ∧
        t.opAt p.op = some { o with pend := o.pend - 1, fail := if c = 0 then none else some (c, firstVa ls) })
/-- The events of the nodes. -/
def Obligations.NodeEvents : Prop :=
  Claims.NodeReads ∧ Claims.NodeWrites ∧ Claims.NodeAtomics ∧ Claims.HeldRelease ∧ Claims.NodeQueries ∧ Claims.SlotConfigs ∧
    Claims.Contributions ∧ Claims.ReductionReads ∧ Claims.Replies

/-- R117: of the packets waiting at the arbiter of a port the one whose age (weight by cycles waited, at most 65,535) is largest is
granted; it goes out on the path to its node with pts in its header. -/
def Sys2Proof.Claims.ArbiterGrants : Prop :=
  ∀ (arb k : Nat) (s : State) (a : Arbiter) (w : Waiting) (x : Port), tableFind s.arbiters arb = some a → a.waiting[k]? = some w →
    (∀ j y, j ≠ k → a.waiting[j]? = some y →
      min 65535 (y.weight * (s.arbNow arb - y.since)) < min 65535 (w.weight * (s.arbNow arb - w.since))) →
    s.ports[arb]? = some x → s.portOpen w.pkt.ctx arb = true → cellGet 0 x.txCount w.pkt.ctx ≠ BitVec.allOnes 64 →
    w.pkt.dst = 0xFF →
    ∃ t y, exec (.arbiterGrant arb) s = .next t ∧
      tableFind t.arbiters arb = some { waiting := a.waiting.eraseIdx k, pointer := w.input + 1 } ∧ t.ports[arb]? = some y ∧
      y.toNode = x.toNode ++ [{ w.pkt with pts := s.pts }] ∧
      cellGet 0 y.txCount w.pkt.ctx = cellGet 0 x.txCount w.pkt.ctx + 1
/-- R308: the oldest packet of a direction fails its check: it is dropped, counted, and waits to be sent again; the eighth failure in a
row takes the path down. -/
def Sys2Proof.Claims.PacketFailures : Prop :=
  ∀ (n : Nat) (s : State) (x : Port) (p : Packet) (rest : List Packet), s.ports[n]? = some x → x.up = true →
    (x.toNode = p :: rest → (∀ d ∈ x.dropped, d.1 = false) → x.consecutive + 1 < 8 →
      ∃ t, exec (.packetIntegrityFailure n true) s = .next t ∧ t.ops = s.ops ∧
        t.ports[n]? = some { x with integrity := x.integrity + 1, consecutive := x.consecutive + 1, toNode := rest,
                                    dropped := x.dropped ++ [(true, p)] }) ∧
    (x.fromNode = p :: rest → (∀ d ∈ x.dropped, d.1 = true) → x.consecutive + 1 < 8 →
      ∃ t, exec (.packetIntegrityFailure n false) s = .next t ∧ t.ops = s.ops ∧
        t.ports[n]? = some { x with integrity := x.integrity + 1, consecutive := x.consecutive + 1, fromNode := rest,
                                    dropped := x.dropped ++ [(false, p)] }) ∧
    (x.toNode = p :: rest → (∀ d ∈ x.dropped, d.1 = false) → 7 ≤ x.consecutive →
      ∃ t y, exec (.packetIntegrityFailure n true) s = .next t ∧ t.ports[n]? = some y ∧ y.up = false)
/-- R308: a retransmission puts the dropped packet ahead of those behind it. -/
def Sys2Proof.Claims.Retransmissions : Prop :=
  ∀ (n : Nat) (s : State) (x : Port) (p : Packet) (toNode : Bool), s.ports[n]? = some x → x.dropped = [(toNode, p)] →
    ∃ t y, exec (.retransmissionRequest n toNode) s = .next t ∧ t.ports[n]? = some y ∧ y.dropped = [] ∧
      y.toNode = (if toNode then p :: x.toNode else x.toNode) ∧ y.fromNode = if toNode then x.fromNode else p :: x.fromNode
/-- R305: a failed path is down, nothing is left on it, and a store whose packet was lost will fail with cause 0x21. -/
def Sys2Proof.Claims.LinkFails : Prop :=
  ∀ (n : Nat) (s : State) (x : Port), s.ports[n]? = some x → x.up = true →
    (∃ t y, exec (.linkFailure n) s = .next t ∧ t.ports[n]? = some y ∧ y.up = false ∧ y.toNode = [] ∧ y.fromNode = [] ∧
      y.dropped = []) ∧
    ∀ p o ls col, x.toNode = [p] → x.fromNode = [] → x.dropped = [] → tableFind s.arbiters n = none → s.nodes = [] → p.dst = 0xFF →
      s.opAt p.op = some o → o.kind = .store ls col → o.fail = none → (∀ q ∈ s.ops, n ∉ q.markers ∧ ∀ e, q.kind ≠ .engine e) →
      ∃ t, exec (.linkFailure n) s = .next t ∧ t.opAt p.op = some { o with pend := o.pend - 1, fail := some (0x21, firstVa ls) }
/-- A packet of another package reaches this one: it passes its check, its context is defined here and its port is open (R302 to R306). -/
def Sys2Proof.Machine.RemoteHere (s : State) (p : Packet) : Prop :=
  packetGood p = true ∧ (s.ctxDesc p.ctx).isSome = true ∧ (s.portAt (s.inPort p.addr)).up = true ∧
    s.portOpen p.ctx (s.inPort p.addr) = true ∧ s.update = []
/-- An answer waits to go back to the sender. -/
def Sys2Proof.Machine.RemoteAnswers (t : State) (s : State) (p : Packet) (l : Payload) : Prop :=
  ∃ a, tableFind t.arbiters (s.inPort p.addr) = some a ∧ ∃ w ∈ a.waiting, w.pkt = { p with src := s.pkgNo, dst := p.src, load := l }
/-- R302, R318, R319, R354: a write, an atomic or a read of another package is translated by this package's tables of the
context, acts on HBM or SRAM, and is answered; one that fails its checks is answered with the cause and changes no memory.
Model's choice: notes/assumptions/1.md. -/
def Sys2Proof.Claims.RemotePackets : Prop :=
  ∀ (s : State) (p : Packet) (key : Nat) (leaf : Leaf), RemoteHere s p → keySpace key = spHBM ∨ keySpace key = spSRAM →
    (∀ b, p.load = .write b → s.check p.ctx .store 1 p.addr = .ok key leaf → LocalRuns s [(key, b.length)] →
      ∃ t, exec (.remotePacketApply p) s = .next t ∧ t.mem = Memory.writeRuns s.mem [(key, b.length)] b ∧ t.teams = s.teams ∧
        RemoteAnswers t s p (.writeAck 0 0)) ∧
    (∀ b c, p.load = .write b → s.check p.ctx .store 1 p.addr = .fault c →
      ∃ t, exec (.remotePacketApply p) s = .next t ∧ t.mem = s.mem ∧ RemoteAnswers t s p (.writeAck 0 c)) ∧
    (∀ (op : AtomOp) sg k b c, p.load = .atomic [(0, op.code.toNat, sg, k, b, c)] → s.check p.ctx .atomic k p.addr = .ok key leaf →
      b < 256 ^ k →
      ∃ t, exec (.remotePacketApply p) s = .next t ∧
        Memory.read t.mem key k = atomSpec op sg k (Memory.read s.mem key k) b c ∧
        (∀ a, (a < key ∨ key + k ≤ a) → Memory.byte t.mem a = Memory.byte s.mem a) ∧
        RemoteAnswers t s p (.atomicReply [Memory.read s.mem key k] 0 0)) ∧
    (∀ n, p.load = .read n → s.check p.ctx .load 1 p.addr = .ok key leaf → LocalRuns s [(key, n)] →
      ∃ t, exec (.remoteRead p) s = .next t ∧ t.mem = s.mem ∧ t.teams = s.teams ∧
        RemoteAnswers t s p (.readData (Memory.runBytes s.mem [(key, n)]) 0 0)) ∧
    (∀ n c, p.load = .read n → s.check p.ctx .load 1 p.addr = .fault c →
      ∃ t, exec (.remoteRead p) s = .next t ∧ t.mem = s.mem ∧ RemoteAnswers t s p (.writeAck 0 c))
/-- R389: a packet of a context that this package does not define freezes the port for the context and changes no memory. -/
def Sys2Proof.Claims.RemoteFreezes : Prop :=
  ∀ (s : State) (p : Packet) (b : List Byte), packetGood p = true → (s.portAt (s.inPort p.addr)).up = true → s.ctxDesc p.ctx = none → p.load = .write b →
    s.check p.ctx .store 1 p.addr ≠ .mig →
    ∃ t, exec (.remotePacketApply p) s = .next t ∧ t.mem = s.mem ∧ (s.inPort p.addr, p.ctx) ∈ t.host.frozenPorts ∧
      t.portOpen p.ctx (s.inPort p.addr) = false
/-- The events of the fabric. -/
def Obligations.FabricEvents : Prop :=
  Claims.ArbiterGrants ∧ Claims.PacketFailures ∧ Claims.Retransmissions ∧ Claims.LinkFails ∧ Claims.RemotePackets ∧ Claims.RemoteFreezes

/-! ### Events of the loop -/

/-- `r` is the oldest record received, and the tap may apply it (R329, R330). -/
def Sys2Proof.Machine.LoopHead (s : State) (r : LoopRecord) (op : Option Nat) (rest : List (LoopRecord × Option Nat)) : Prop :=
  s.loop.joined = true ∧ s.loop.refetch = false ∧ s.loop.inbox = (r, op) :: rest ∧ recWhole r = true ∧
    ∀ x l, rest = x :: l → recWhole x.1 = true
/-- The record has been applied: it has left the tap, its number counts, pts is at least its own, and its BCAST is complete (R265, R329,
R336). -/
def Sys2Proof.Machine.LoopApplied (s t : State) (r : LoopRecord) (op : Option Nat) (rest : List (LoopRecord × Option Nat)) : Prop :=
  t.loop.inbox = rest ∧ t.loop.applied = s.loop.applied + 1 ∧ t.pts = tsMax s.pts (recPts r) ∧ ∀ i, op = some i → t.opAt i = none
/-- The record is ignored with a cause: the loop block of its context counts it and names its number (R333). -/
def Sys2Proof.Machine.Ignored (s t : State) (r : LoopRecord) (cause : Nat) : Prop :=
  t.ens64 (0x1000 + 64 * recCtx r + 8) = (s.ens64 (0x1000 + 64 * recCtx r + 8) + 1) % 2 ^ 64 ∧
    t.ens64 (0x1000 + 64 * recCtx r + 0x10) = (s.loop.applied + 1) % 2 ^ 56 * 2 ^ 8 + cause
/-- R329: a record that comes in at a tap with nothing outstanding is the next one to apply. Model's choice:
notes/assumptions/1.md. -/
def Sys2Proof.Claims.RecordsArrive : Prop :=
  ∀ (r : LoopRecord) (s : State), s.loop.joined = true → s.loop.refetch = false → s.loop.inbox = [] → recWhole r = true →
    ∀ f ∈ [Instr.storeRec, .claimRec, .addRec, .launchRec, .pteRec, .slotRec, .freeRec, .abortRec],
      exec (f (some r)) s =
        exec (f none) { s with loop := { s.loop with inbox := [(r, none)], received := s.loop.received + 1 } }
/-- R332, R333: a STORE record writes its bytes to the general area of its context; one that breaks a rule is ignored with the lowest
cause that it breaks. -/
def Sys2Proof.Claims.StoreRecords : Prop :=
  ∀ (s : State) (r : LoopRecord) (op : Option Nat) (rest : List (LoopRecord × Option Nat)), LoopHead s r op rest → recType r = 1 →
    let off := recField r 8 4
    let len := recField r 0x0C 1
    let area := 0x100000 + recCtx r * 0x40000 ≤ off ∧ off + len ≤ 0x100000 + (recCtx r + 1) * 0x40000
    let form := off % 8 = 0 ∧ 1 ≤ len ∧ len ≤ 48
    ∃ t, exec (.storeRec none) s = .next t ∧ LoopApplied s t r op rest ∧
      t.ens64 (0x1000 + 64 * recCtx r) = (s.ens64 (0x1000 + 64 * recCtx r) + 1) % 2 ^ 64 ∧
      (area → form → recField r 0x0D 3 = 0 → Memory.read t.mem (ensKey off) len = recField r 0x10 len) ∧
      (¬area → Ignored s t r 1) ∧ (area → ¬form → Ignored s t r 2) ∧ (area → form → recField r 0x0D 3 ≠ 0 → Ignored s t r 3)
/-- R332: an ADD record adds to a word of the general area, modulo its width. -/
def Sys2Proof.Claims.AddRecords : Prop :=
  ∀ (s : State) (r : LoopRecord) (op : Option Nat) (rest : List (LoopRecord × Option Nat)), LoopHead s r op rest → recType r = 3 →
    let off := recField r 8 4
    let w := recField r 0x0C 1
    inGeneral (recCtx r) off w = true → (w = 4 ∨ w = 8) → off % w = 0 → recField r 0x0D 3 = 0 → recField r 0x18 40 = 0 →
    (w = 4 → recField r 0x14 4 = 0) →
    ∃ t, exec (.addRec none) s = .next t ∧ LoopApplied s t r op rest ∧ Memory.read t.mem (ensKey off) w =
      (Memory.read s.mem (ensKey off) w + recField r 0x10 8) % 2 ^ (8 * w)
/-- R106, R332: a CLAIM record writes the new value where the word holds the old one, and nothing elsewhere; on a STATE word only where
R106 allows the transition, and there the launch that waited for its admission is admitted. -/
def Sys2Proof.Claims.ClaimRecords : Prop :=
  ∀ (s : State) (r : LoopRecord) (op : Option Nat) (rest : List (LoopRecord × Option Nat)), LoopHead s r op rest → recType r = 2 →
    let off := recField r 8 4
    let w := recField r 0x0C 1
    off % w = 0 → recField r 0x0D 3 = 0 → recField r 0x20 32 = 0 →
    (inGeneral (recCtx r) off w = true → (w = 8 ∨ (w = 4 ∧ recField r 0x14 4 = 0 ∧ recField r 0x1C 4 = 0)) →
      ∃ t, exec (.claimRec none) s = .next t ∧ LoopApplied s t r op rest ∧ Memory.read t.mem (ensKey off) w =
        if Memory.read s.mem (ensKey off) w = recField r 0x10 8 then recField r 0x18 8 else Memory.read s.mem (ensKey off) w) ∧
    (isStateWord off = true → w = 8 → s.launches = [] →
      ∃ t, exec (.claimRec none) s = .next t ∧ LoopApplied s t r op rest ∧
        t.ens64 off = if s.claimAllowed r = true then recField r 0x18 8 else s.ens64 off) ∧
    ∀ l, isStateWord off = true → w = 8 → s.launches = [l] → stateOff l.ctx l.queue l.slot = off → l.stage = .claiming →
      s.claimAllowed r = true → recField r 0x18 8 = l.seq % 2 ^ 48 * 2 ^ 16 + 2 →
      ∃ t, exec (.claimRec none) s = .next t ∧ t.launches = [{ l with stage := .admitted }]
/-- R102, R105: an accepted LAUNCH record takes the next slot of its queue: its body and its STATE word, with ST = 1, stand in ensign
memory, POSTED counts it, and the package that it names holds the launch; one for a slot that is in use is rejected with cause 16. -/
def Sys2Proof.Claims.LaunchRecords : Prop :=
  ∀ (s : State) (r : LoopRecord) (op : Option Nat) (rest : List (LoopRecord × Option Nat)), LoopHead s r op rest → recType r = 4 →
    recField r 0x28 1 ≤ 63 →
    let n := s.loop.applied + 1
    let c := recCtx r
    let q := recField r 0x28 1
    let b := 0x1000000 + (64 * c + q) * 256
    let k := s.ens64 b % 16
    let st := s.ens64 (b + 0x20 + 8 * k) % 256
    (st ≠ 1 → st ≠ 2 → recField r 0x2A 1 < s.host.pkgs → launchOk r = true → recField r 0x30 8 < n →
      ∃ t, exec (.launchRec none) s = .next t ∧ LoopApplied s t r op rest ∧
        t.ens64 b = (s.ens64 b + 1) % 2 ^ 64 ∧ t.ens64 (b + 0x20 + 8 * k) = n % 2 ^ 48 * 2 ^ 16 + 1 ∧
        Memory.read t.mem (ensKey (0x1100000 + ((64 * c + q) * 16 + k) * 64)) 64 = r.toNat ∧
        (recField r 0x2A 1 ≠ s.host.pkg → t.launches = s.launches) ∧
        (recField r 0x2A 1 = s.host.pkg → ∃ l, t.launches = s.launches ++ [l] ∧ l.seq = n ∧ l.ctx = c ∧ l.queue = q ∧ l.slot = k ∧
          l.stage = .pending ∧ l.nextUnit = 0 ∧ l.image = BitVec.ofNat 64 (recField r 8 8) ∧
          l.params = BitVec.ofNat 64 (recField r 0x10 8) ∧ l.spill = BitVec.ofNat 64 (recField r 0x18 8) ∧
          l.gx = recField r 0x20 2 ∧ l.gy = recField r 0x22 2 ∧ l.gz = recField r 0x24 2 ∧ l.dep = recField r 0x30 8 ∧
          l.done = BitVec.ofNat 64 (recField r 0x38 8))) ∧
    (st = 1 ∨ st = 2 → ∃ t, exec (.launchRec none) s = .next t ∧ LoopApplied s t r op rest ∧ t.launches = s.launches ∧
      t.ens64 (b + 0x10) = (s.ens64 (b + 0x10) + 1) % 2 ^ 64 ∧ t.ens64 (b + 0x18) = n % 2 ^ 56 * 2 ^ 8 + 16)
/-- R245, R246: a PTE record of this package replaces the entry, or, with VALIDATE, only where it holds the old value; a stream
of control that waits for a page of the span to migrate is ready again; a record that breaks a rule is ignored with cause 4. Its entry is
looked for once the record has been counted (R333). Model's choice: notes/assumptions/29.md. -/
def Sys2Proof.Claims.PteRecords : Prop :=
  ∀ (s : State) (r : LoopRecord) (op : Option Nat) (rest : List (LoopRecord × Option Nat)), LoopHead s r op rest → recType r = 5 →
    (pteFieldsOk r = false → ∃ t, exec (.pteRec none) s = .next t ∧ LoopApplied s t r op rest ∧ Ignored s t r 4) ∧
    (pteFieldsOk r = true → (natBits (recField r 0x2D 1) 1 1 = 1 → recField r 0x2E 1 = s.host.pkg) →
      (s.ensPut (0x1000 + 64 * recCtx r) (s.ens64 (0x1000 + 64 * recCtx r) + 1)).pteInTable r = true →
      (natBits (recField r 0x2D 1) 0 1 = 0 → ∃ t, exec (.pteRec none) s = .next t ∧ LoopApplied s t r op rest ∧
        Memory.read t.mem (pteKey r) 8 = recField r 0x18 8 ∧
        ∀ u ∈ s.teams, u.ctx = recCtx r → ∀ f ∈ u.frags, ∀ a, f.wait = .mig a →
          spanCovers (recField r 0x10 8) (recField r 0x2C 1) a.toNat = true →
          ∃ v ∈ t.teams, v.id = u.id ∧ { f with wait := .ready } ∈ v.frags) ∧
      (natBits (recField r 0x2D 1) 0 1 = 1 →
        (pteKey r + 8 ≤ ensKey (0x1000 + 64 * recCtx r) ∨ ensKey (0x1000 + 64 * recCtx r) + 8 ≤ pteKey r) →
        (Memory.read s.mem (pteKey r) 8 = recField r 0x20 8 → ∃ t, exec (.pteRec none) s = .next t ∧
          Memory.read t.mem (pteKey r) 8 = recField r 0x18 8) ∧
        (Memory.read s.mem (pteKey r) 8 ≠ recField r 0x20 8 → ∃ t, exec (.pteRec none) s = .next t ∧ Ignored s t r 4)))
/-- R313, R359, R360: a SLOT record that names one slot, which no claim holds, claims it: its word, the claim that every package knows,
and the verdict 1 with the list of slots; a record that breaks a limit claims nothing and answers verdict 6. -/
def Sys2Proof.Claims.SlotRecords : Prop :=
  ∀ (s : State) (r : LoopRecord) (op : Option Nat) (rest : List (LoopRecord × Option Nat)), LoopHead s r op rest → recType r = 6 →
    let n := s.loop.applied + 1
    let c := recCtx r
    let coll := recField r 8 4
    let head := 0xF00000 + c * 0x1000 + coll % 64 * 64
    (s.slotRecOk r = false → ∃ t, exec (.slotRec none) s = .next t ∧ LoopApplied s t r op rest ∧ t.claims = s.claims ∧
      t.ens64 head = n % 2 ^ 24 * 2 ^ 40 + 6 * 2 ^ 32 + coll) ∧
    (s.slotRecOk r = true → recField r 0x0C 1 = 1 → natBits (recField r 0x18 4) 17 1 = 0 → recField r 0x0D 1 = 0 →
      (∀ k, 0xD00000 ≤ k → k < 0xE00000 → Memory.byte s.mem (ensKey k) = 0) →
      let slot := natBits (recField r 0x18 4) 0 12
      let node := natBits (recField r 0x18 4) 12 5
      ∃ t, exec (.slotRec none) s = .next t ∧ LoopApplied s t r op rest ∧
        t.claims = s.claims ++ [SlotClaim.mk node slot c n (recField r 0x10 2) (natSigned 10 (recField r 0x0E 2))
          (recField r 0x12 2) false] ∧
        t.ens64 (0xD00000 + (node * 4096 + slot) * 8) = coll * 2 ^ 32 + c * 2 ^ 26 + 2 ^ 24 + n % 2 ^ 24 ∧
        t.ens64 head = n % 2 ^ 24 * 2 ^ 40 + 2 ^ 32 + coll ∧
        t.ens64 (head + 8) = slot + 2 ^ 12 * node)
/-- R361, R362: the record clears every slot of its COLLID that its context holds, and writes the verdict. -/
def Sys2Proof.Machine.SlotsCleared (e : Instr) (ty verdict : Nat) : Prop :=
  ∀ (s : State) (r : LoopRecord) (op : Option Nat) (rest : List (LoopRecord × Option Nat)), LoopHead s r op rest → recType r = ty →
    recField r 0x0C 52 = 0 →
    let c := recCtx r
    let coll := recField r 8 4
    ∃ t, exec e s = .next t ∧ LoopApplied s t r op rest ∧
      t.ens64 (0xF00000 + c * 0x1000 + coll % 64 * 64) =
        (s.loop.applied + 1) % 2 ^ 24 * 2 ^ 40 + verdict * 2 ^ 32 + coll ∧
      ∀ node slot, node < 32 → slot < 4096 →
        let w := s.ens64 (0xD00000 + (node * 4096 + slot) * 8)
        t.ens64 (0xD00000 + (node * 4096 + slot) * 8) =
          (if natBits w 24 1 = 1 ∧ natBits w 26 6 = c ∧ natBits w 32 32 = coll then 0 else w) ∧
        (natBits w 24 1 = 1 → natBits w 26 6 = c → natBits w 32 32 = coll → ∀ x ∈ t.claims, ¬(x.node = node ∧ x.slot = slot))
/-- R361, R362: FREE clears with verdict 4, ABORT with verdict 5. -/
def Sys2Proof.Claims.FreeRecords : Prop := SlotsCleared (.freeRec none) 7 4 ∧ SlotsCleared (.abortRec none) 8 5
/-- R328, R329, R331, R334, R336: the pennant takes the record that waits at the tap: it gets the next number and pts; the number goes to
the register of the BCAST that posted it. The tap keeps the last 4,096 records that it has sent (R330). -/
def Sys2Proof.Claims.PennantSends : Prop :=
  ∀ s : State, s.loop.joined = true → s.host.stage = 7 → s.loop.refetch = false → s.loop.inbox = [] → s.loop.backlog = [] →
    (∀ e, (∀ o ∈ s.ops, ∀ g d r q n, o.kind ≠ .bcast g d r q n) → s.loop.queue = [e] → s.maySend e = true → e.op = none →
      recWhole e.record = true →
      ∃ t r, exec .pennantArrive s = .next t ∧ t.loop.queue = [] ∧ t.loop.inbox = [(r, none)] ∧
        t.loop.received = s.loop.received + 1 ∧ recType r = recType e.record ∧ recCtx r = recCtx e.record ∧ recPts r = s.pts ∧
        recOrigin r = s.host.pkg % 256 ∧ t.loop.kept.getLast? = some (s.loop.received + 1, r) ∧ t.loop.kept.length ≤ 4096 ∧
        (∀ k, 6 ≤ k → k < 64 → recField r k 1 = recField e.record k 1) ∧
        cellGet 0 t.loop.sent e.ctx = cellGet 0 s.loop.sent e.ctx + 1 ∧ t.loop.pointer = (e.ctx + 1) % 48 ∧
        (e.fn = some .pf → cellGet 0 t.host.dbseq 0 = BitVec.ofNat 64 (s.loop.received + 1)) ∧
        ∀ v, e.fn = some (.vf v) → cellGet 0 t.host.dbseq (v + 1) = BitVec.ofNat 64 (s.loop.received + 1)) ∧
    ∀ o u g d r, s.ops = [o] → o.kind = .bcast g d r false none → o.deps = [] → o.markers = [] → s.loop.queue = [] →
      s.maySend (s.tapEntry o.ctx false r (some o.id) none) = true → s.teamAt o.team = some u → u.resident = true → g < u.groups.length → d ≠ 0 →
      ∃ t v, exec .pennantArrive s = .next t ∧ t.loop.queue = [] ∧ t.loop.received = s.loop.received + 1 ∧
        t.teamAt o.team = some v ∧ (v.group g).sget d = BitVec.ofNat 64 (s.loop.received + 1)
/-- R330: a record that is uncorrectable holds the tap until it has been fetched again. -/
def Sys2Proof.Claims.Refetches : Prop :=
  ∀ (ok : Bool) (s : State) (r : LoopRecord) (op : Option Nat) (rest : List (LoopRecord × Option Nat)),
    s.loop.inbox = (r, op) :: rest → recWhole r = true →
    ∃ t, exec (.recordRefetch ok) s = .next t ∧ t.loop.refetch = !ok ∧ t.loop.inbox = s.loop.inbox ∧ t.mem = s.mem ∧ t.teams = s.teams
/-- R330, R336, R387: a fetch that has not succeeded takes the tap off the loop; every BCAST that was never sent ends. -/
def Sys2Proof.Claims.LoopLeaves : Prop :=
  ∀ s : State, s.loop.joined = true → s.loop.refetch = true →
    ∃ t, exec .loopLeave s = .next t ∧ t.loop.joined = false ∧ t.loop.left = true ∧ t.loop.queue = [] ∧ t.loop.inbox = [] ∧
      ∀ o ∈ s.ops, ∀ g d r q, o.kind = .bcast g d r q none → t.opAt o.id = none
/-- R334, R382: a budget window, once in each µs of pod time, settles the deficit of every context, D + sent − LBUDGET and not below 0,
children's records counting as their parent's, sets the allowance LBUDGET − D, and counts from 0 again. -/
def Sys2Proof.Claims.BudgetWindows : Prop :=
  ∀ s : State,
    (s.loop.windows < s.ns / 1000 →
      ∃ t, exec .loopBudgetWindow s = .next t ∧ t.mem = s.mem ∧ t.teams = s.teams ∧ t.loop.sent = [] ∧
        t.loop.windows = s.loop.windows + 1 ∧ ∀ c < 48,
          cellGet 0 t.loop.deficit c = cellGet 0 s.loop.deficit c + s.sentBy c - s.lbudget c ∧
          ((s.ctxDesc c).isSome = true → t.allowanceOf c = s.lbudget c - cellGet 0 t.loop.deficit c)) ∧
    (s.ns / 1000 ≤ s.loop.windows → exec .loopBudgetWindow s = .next s)
/-- The events in which loop records are applied. -/
def Obligations.RecordEvents : Prop :=
  Claims.RecordsArrive ∧ Claims.StoreRecords ∧ Claims.AddRecords ∧ Claims.ClaimRecords ∧ Claims.LaunchRecords ∧ Claims.PteRecords ∧
    Claims.SlotRecords ∧ Claims.FreeRecords
/-- The events of the tap. -/
def Obligations.LoopEvents : Prop :=
  Claims.PennantSends ∧ Claims.Refetches ∧ Claims.LoopLeaves ∧ Claims.BudgetWindows

/-! ### Events of the tier engine and of energy -/

/-- A context has copies of every sector from `a` to `b` in a tier. -/
def Sys2Proof.Machine.TierHolds (s : State) (ctx tier a b : Nat) : Prop :=
  ∀ y, a ≤ y → y ≤ b → ∃ c ∈ s.tiers.copies, c.ctx = ctx ∧ c.tier = tier ∧ c.first ≤ y ∧ y ≤ c.last
/-- R344, R346 to R348, R352: the tier engine goes on with a fetch or pin whose turn it is: where the range may be copied and fits, copies of
the sectors that it has come to stand in the tier, a pin is noted, and no REASON stands; else the REASON does, and the engine frees nothing.
Copies of other contexts stay. An entry that is not due is left alone. Model's choices: notes/assumptions/20.md, notes/assumptions/21.md. -/
def Sys2Proof.Claims.TierCarries : Prop :=
  ∀ (team entry n : Nat) (s : State) (u : Team) (e : TEntry), s.teamAt team = some u → s.ttEntry u entry = some e →
    let x := e.span u.linear
    let fails (k : Nat) : Prop := ∃ t v, exec (.tierCarryOut team entry n) s = .next t ∧ t.teamAt team = some v ∧
      v.reason entry = k ∧ t.mem = s.mem ∧ t.tiers = s.tiers
    (e.due (s.ttHead u).2 u = false ∨ s.tierTurn team entry = false → exec (.tierCarryOut team entry n) s = .next s) ∧
    (e.due (s.ttHead u).2 u = true → s.tierTurn team entry = true →
      (∀ k, s.rangeVerdict u.ctx e.tier (e.base u.linear) e.len = .reason k → fails k) ∧
      (s.rangeVerdict u.ctx e.tier (e.base u.linear) e.len = .wait → exec (.tierCarryOut team entry n) s = .next s) ∧
      (s.rangeVerdict u.ctx e.tier (e.base u.linear) e.len = .good →
        (s.canFit u.ctx e.tier x = false → fails 1) ∧
        (s.canFit u.ctx e.tier x = true → 0 < n →
          ∃ t v, exec (.tierCarryOut team entry n) s = .next t ∧ t.teamAt team = some v ∧ v.reason entry = 0 ∧ t.mem = s.mem ∧
            TierHolds t u.ctx e.tier x.1 (min x.2 (x.1 + n - 1)) ∧ (∀ c ∈ s.tiers.copies, c.ctx ≠ u.ctx → c ∈ t.tiers.copies) ∧
            (e.action = 2 → TierPin.mk u.launch u.ctx e.tier x.1 (min x.2 (x.1 + n - 1)) ∈ t.tiers.pins))))
/-- R344: the lease of a copy that must stay resident is renewed when pts comes within 2 ticks of its rts, and not before. -/
def Sys2Proof.Claims.TierLeases : Prop :=
  ∀ (copy x : Nat) (s : State) (c : TierCopy) (v : BitVec 16) (runs : List (Nat × Nat)),
    s.tiers.copies[copy]? = some c → c.rts = some v → s.copyKept c = true →
    (1 ≤ (s.pts - v).toNat ∧ (s.pts - v).toNat ≤ 32768 ∨ (v - s.pts).toNat ≤ 2 →
      s.range c.ctx .load (32 * c.first) (32 * (c.last + 1 - c.first)) = .runs runs → pooledSectors runs = [x] →
      ∃ t, exec (.tierLeaseRenew copy) s = .next t ∧ t.mem = s.mem ∧ t.teams = s.teams ∧
        t.tiers.copies = s.tiers.copies.set copy { c with rts := some (tsMax (s.stampAt x).rts (s.pts + s.leaseOf c.ctx)) }) ∧
    (¬(1 ≤ (s.pts - v).toNat ∧ (s.pts - v).toNat ≤ 32768) → 2 < (v - s.pts).toNat → exec (.tierLeaseRenew copy) s = .next s)
/-- R350: a decay, once in each ms of pod time, halves every granule counter; a granule that 8 or more accesses have reached is copied into
free room of its tier. Model's choice: notes/assumptions/20.md. -/
def Sys2Proof.Claims.Sampling : Prop :=
  (∀ s : State,
    (s.tiers.decays < s.ns / 1000000 → ∃ t, exec .sampleDecay s = .next t ∧ t.teams = s.teams ∧ t.mem = s.mem ∧
      t.tiers = { s.tiers with decays := s.tiers.decays + 1,
                               counters := s.tiers.counters.map fun c => { c with count := c.count / 2 } }) ∧
    (s.ns / 1000000 ≤ s.tiers.decays → exec .sampleDecay s = .next s)) ∧
  ∀ (ctx g : Nat) (s : State) (c : Counter), s.counterOf ctx g = some c →
    let tier := if c.home = spHBM then 0 else 1
    (8 ≤ c.count → s.rangeVerdict ctx tier (65536 * g) 65536 = .good →
      s.tierFits ctx tier ((2048 * g, 2048 * g + 2047) :: s.heldStretches ctx tier) = true →
      ∃ t, exec (.hotGranuleCopy ctx g) s = .next t ∧ t.mem = s.mem ∧ t.teams = s.teams ∧
        TierHolds t ctx tier (2048 * g) (2048 * g + 2047)) ∧
    (c.count < 8 → exec (.hotGranuleCopy ctx g) s = .next s)
/-- R373, R375, R376: KVT_RECOMPUTE takes the next KVT of every die; RECONCILE splits the rail energy over the contexts by their
charges of the interval and adds node refresh, gives the device what is left, and begins the next interval. Each comes once in its period
of pod time. Model's choices: notes/assumptions/11.md, notes/assumptions/12.md. -/
def Sys2Proof.Claims.EnergyIntervals : Prop :=
  (∀ s : State,
    (s.energy.kvtRound < s.ns / 100000 →
      exec .kvtRecompute s = .next { s with energy := { s.energy with kvtRound := s.energy.kvtRound + 1 } }) ∧
    (s.ns / 100000 ≤ s.energy.kvtRound → exec .kvtRecompute s = .next s)) ∧
  ∀ (rail : Nat) (s : State), s.energy.interval < s.ns / 1000000 → s.energy.quota = [] → s.settleOwned.chargeSum ≠ 0 →
    let r := s.settleOwned
    let share (c : Nat) : Nat := (cellGet 0 s.energy.live c + r.sharedCost c s.energy.interval * 2 ^ 16) * rail / r.chargeSum
    ∃ t, exec (.reconcile rail) s = .next t ∧ t.mem = s.mem ∧ t.energy.live = [] ∧ t.energy.active = [] ∧
      t.energy.interval = s.energy.interval + 1 ∧ t.energy.begun = s.ns ∧ t.energy.owned = [] ∧
      (∀ c < 48, cellGet 0 t.energy.total c =
        cellGet 0 s.energy.total c + BitVec.ofNat 64 (share c + Config.nodeRefresh s.energy.interval c)) ∧
      t.energy.totalDev = s.energy.totalDev + BitVec.ofNat 64 (rail - ((List.range 48).map share).sum) ∧
      t.energy.scale = BitVec.ofNat 32 (rail * 2 ^ 32 / r.chargeSum)
/-- The running teams of a context have begun to stop (R224). -/
def Sys2Proof.Machine.TeamsStop (s t : State) (c : Nat) : Prop :=
  ∀ u, s.teamAt u.id = some u → u.ctx = c → u.phase = .running → u.kernel.determ = false →
    ∃ v, t.teamAt u.id = some v ∧ v.phase = .stopping
/-- R378, R379: a VF whose context has used its quota is exhausted: QX is set and its teams stop; a quota that is written holds, and one
below the estimate exhausts the VF at once. -/
def Sys2Proof.Claims.Quotas : Prop :=
  ∀ (vf c : Nat) (s : State), s.ctxOfVf vf = some c → s.update = [] →
    (s.quotaOf vf ≠ BitVec.allOnes 64 → (s.quotaOf vf).toNat ≤ s.estimate c →
      ∃ t, exec (.quotaExhausted vf) s = .next t ∧ vf ∈ t.energy.qx ∧ t.mem = s.mem ∧ t.ops = s.ops ∧ TeamsStop s t c) ∧
    (s.quotaOf vf = BitVec.allOnes 64 → exec (.quotaExhausted vf) s = .next s) ∧
    ∀ value, vf < 2048 → ∃ t, exec (.quotaWrite vf value) s = .next t ∧ t.quotaOf vf = value ∧ t.mem = s.mem ∧
      (∀ v, v ≠ vf → t.quotaOf v = s.quotaOf v) ∧ (value.toNat < s.estimate c → vf ∈ t.energy.qx ∧ TeamsStop s t c) ∧
      (s.estimate c ≤ value.toNat → t.energy.qx = s.energy.qx ∧ t.teams = s.teams)
/-- The events of the tier engine and of energy. -/
def Obligations.TierAndEnergyEvents : Prop :=
  Claims.TierCarries ∧ Claims.TierLeases ∧ Claims.Sampling ∧ Claims.EnergyIntervals ∧ Claims.Quotas

/-! ### Events of the host side -/

/-- R310, R393: LEASE(c) takes 1 to 255; clearing DBSTAT clears DBERR of the function. -/
def Sys2Proof.Claims.LeaseAndStatus : Prop :=
  ∀ s : State,
    (∀ c (v : DWord), c < 48 → 1 ≤ v.toNat → v.toNat ≤ 255 → ∃ t, exec (.leaseWrite c v) s = .next t ∧
      cellGet 10 t.host.lease c = v ∧ (∀ d, d ≠ c → cellGet 10 t.host.lease d = cellGet 10 s.host.lease d) ∧ t.mem = s.mem) ∧
    (∀ c (v : DWord), v = 0 ∨ 255 < v.toNat → exec (.leaseWrite c v) s = .next s) ∧
    (s.host.frozenVfs = [] → ∀ fn, ∃ t, exec (.dbstatClear fn) s = .next t ∧ fnKey fn ∉ t.host.dberr ∧
      (∀ f, f ≠ fn → fnKey f ∈ s.host.dberr → fnKey f ∈ t.host.dberr) ∧ t.mem = s.mem ∧ t.teams = s.teams)
/-- R393, R394: a host write reaches the register that its selector names, where the function may make it; LROOT takes multiples
of 8000H; a command runs while CMDSTAT says that none does; any other write is ignored. Model's choice: notes/assumptions/59.md. -/
def Sys2Proof.Claims.RegisterWrites : Prop :=
  ∀ (s : State) (v : DWord), s.barsLive = true →
    (∀ c < 48, v.toNat % 0x8000 = 0 → ∃ t, exec (.registerWrite .pf (0x100 + c) v) s = .next t ∧ cellGet 0 t.host.lroot c = v ∧
      ∀ d, d ≠ c → cellGet 0 t.host.lroot d = cellGet 0 s.host.lroot d) ∧
    (∀ fn c, c < 48 → (fn = .pf ∨ ∃ k, fn = .vf k ∧ s.ctxOfVf k = some c ∧ k ∉ s.host.frozenVfs) → 1 ≤ v.toNat → v.toNat ≤ 255 →
      ∃ t, exec (.registerWrite fn (0x200 + c) v) s = .next t ∧ cellGet 10 t.host.lease c = v) ∧
    (∀ k < 2048, ∃ t, exec (.registerWrite .pf (0x1000 + k) v) s = .next t ∧ t.quotaOf k = v) ∧
    (s.host.cmdstat.getLsbD 0 = false → ∃ t, exec (.registerWrite .pf 0x0008 v) s = .next t ∧ t.host.cmd = v ∧
      t.host.cmdstat = if 1 ≤ v.toNat % 256 ∧ v.toNat % 256 ≤ 5 then 1 else 0x100) ∧
    (v.getLsbD 0 = true → ∃ t, exec (.registerWrite .pf 0x0003 v) s = .next t ∧ 0 ∉ t.host.dberr) ∧
    (∀ k sel, (sel = 0x0008 ∨ (0x100 ≤ sel ∧ sel < 0x130) ∨ (0x1000 ≤ sel ∧ sel < 0x1800)) →
      exec (.registerWrite (.vf k) sel v) s = .next s) ∧
    ∀ k sel, k ∈ s.host.frozenVfs → exec (.registerWrite (.vf k) sel v) s = .next s
/-- R334, R383, R392: a record that a function posts enters the tap queue under its context with DEV = 0, or waits while the queue is full;
one with no context or an unassigned TYPE sets DBERR instead. Model's choice: notes/assumptions/55.md. -/
def Sys2Proof.Claims.Doorbells : Prop :=
  ∀ (s : State) (fn : HostFn) (r : LoopRecord), s.barsLive = true →
    (∀ c, ((fn = .pf ∧ recCtx r = c ∧ c ≤ 47) ∨ ∃ k, fn = .vf k ∧ s.ctxOfVf k = some c ∧ k ∉ s.host.frozenVfs) →
      (1 ≤ recType r ∧ recType r ≤ 8 → Config.tapEntries ≤ s.tapUsed → ∃ t e, exec (.recordDoorbell fn r) s = .next t ∧
        t.loop.queue = s.loop.queue ∧ t.loop.backlog = s.loop.backlog ++ [e] ∧ e.ctx = c ∧ e.fn = some fn) ∧
      (1 ≤ recType r ∧ recType r ≤ 8 → TapRoom s → ∃ t e, exec (.recordDoorbell fn r) s = .next t ∧ t.loop.queue = s.loop.queue ++ [e] ∧
        e.ctx = c ∧ e.dev = false ∧ e.fn = some fn ∧ e.op = none ∧ recType e.record = recType r ∧ recDev e.record = false ∧
        (c < 256 → recCtx e.record = c) ∧ ∀ k, 8 ≤ k → k < 64 → recField e.record k 1 = recField r k 1) ∧
      (recType r = 0 ∨ 8 < recType r → ∃ t, exec (.recordDoorbell fn r) s = .next t ∧ t.loop = s.loop ∧ fnKey fn ∈ t.host.dberr)) ∧
    ((fn = .pf ∧ 47 < recCtx r) ∨ (∃ k, fn = .vf k ∧ (s.ctxOfVf k = none ∨ k ∈ s.host.frozenVfs)) →
      ∃ t, exec (.recordDoorbell fn r) s = .next t ∧ t.loop = s.loop ∧ fnKey fn ∈ t.host.dberr)
/-- R381, R382, R385, R394: the PF creates a context whose descriptor, read from the 256-byte block of the command, keeps the rules with those of the others, with its
accounts at zero; a change that takes half-cores away leaves them to be scrubbed; a descriptor that breaks a rule is refused.
Model's choices: notes/assumptions/57.md, notes/assumptions/59.md. -/
def Sys2Proof.Claims.ContextCommands : Prop :=
  ∀ (s : State) (b : BitVec 2048) (d : CtxDesc), CtxDesc.ofBlock b = d → s.barsLive = true → d.parent = none →
    d.ctx ∉ s.host.dissolving → (∀ old, s.ctxDesc d.ctx = some old → old.parent = none) →
    let all := (s.host.ctxs.filter fun x => x.ctx != d.ctx) ++ [d]
    (ctxsOk all = true → s.ctxDesc d.ctx = none → ∃ t, exec (.createContext .pf b) s = .next t ∧ t.host.ctxs = all ∧
      t.host.cmdstat = 0 ∧ cellGet 0 t.energy.total d.ctx = 0 ∧ cellGet 0 t.energy.live d.ctx = 0 ∧
      cellGet 0 t.host.errSeq d.ctx = 0 ∧ cellGet 0 t.loop.deficit d.ctx = 0 ∧ t.mem = s.mem) ∧
    (ctxsOk all = true → ∀ old, s.ctxDesc d.ctx = some old → ∃ t, exec (.createContext .pf b) s = .next t ∧ t.host.ctxs = all ∧
      t.host.cmdstat = 0 ∧ ∀ i < 384, old.halfmap.getLsbD i = true → d.halfmap.getLsbD i = false →
        ∃ x ∈ t.host.changes, x.ctx = d.ctx ∧ i ∈ x.halves) ∧
    (ctxsOk all = false → ∃ t, exec (.createContext .pf b) s = .next t ∧ t.host.ctxs = s.host.ctxs ∧ t.host.cmdstat = 0x100)
/-- R386, R390: dissolving a context that has no children ends its work at once, removes its descriptor, its keys and its VFs,
and leaves its half-cores to be scrubbed. Model's choice: notes/assumptions/56.md. -/
def Sys2Proof.Claims.Dissolving : Prop :=
  ∀ (s : State) (c : Nat) (d : CtxDesc), s.barsLive = true → s.ctxDesc c = some d → (∀ x ∈ s.host.ctxs, x.parent ≠ some c) →
    ∃ t, exec (.dissolveContext .pf c) s = .next t ∧ t.ctxDesc c = none ∧ t.host.cmdstat = 0 ∧ (∀ u ∈ t.teams, u.ctx ≠ c) ∧
      (∀ o ∈ t.ops, o.ctx ≠ c) ∧ (∀ l ∈ t.launches, l.ctx ≠ c) ∧ (∀ p ∈ t.ports, tableFind p.keys c = none) ∧
      (∀ v, t.ctxOfVf v ≠ some c) ∧
      ∀ i < 384, d.halfmap.getLsbD i = true → ∃ x ∈ t.host.changes, x.ctx = c ∧ i ∈ x.halves
/-- R306, R307, R383, R394, R395: MAP_VF, INSTALL_PORT_KEY and STAGE_FIRMWARE by the PF take effect and end with CMDSTAT 0; a VF
is refused; a key that stands already is not installed anew, so that no packet counter repeats under it. Model's choices:
notes/assumptions/18.md, notes/assumptions/59.md. -/
def Sys2Proof.Claims.PfCommands : Prop :=
  ∀ s : State, s.barsLive = true →
    (∀ v c, v < 2048 → (s.ctxDesc c).isSome = true → ∃ t, exec (.mapVf .pf v (some c)) s = .next t ∧ t.ctxOfVf v = some c ∧
      t.host.cmdstat = 0) ∧
    (∀ v < 2048, ∃ t, exec (.mapVf .pf v none) s = .next t ∧ t.ctxOfVf v = none ∧ t.host.cmdstat = 0) ∧
    (∀ c n k x, c < 48 → n < 32 → s.ports[n]? = some x → tableFind x.keys c ≠ some k → ∃ t y, exec (.installPortKey .pf c n (some k)) s = .next t ∧
      t.ports[n]? = some y ∧ tableFind y.keys c = some k ∧ cellGet 0 y.txCount c = 0 ∧ cellGet 0 y.rxCount c = 0 ∧
      t.host.cmdstat = 0) ∧
    (∀ c n k x, c < 48 → n < 32 → s.ports[n]? = some x → tableFind x.keys c = some k →
      ∃ t, exec (.installPortKey .pf c n (some k)) s = .next t ∧ t.ports = s.ports ∧ t.host.cmdstat = 0) ∧
    (∀ fn c n, ∃ t, exec (.installPortKey fn c n none) s = .next t ∧ t.ports = s.ports ∧ t.host.cmdstat = 0x100) ∧
    (∀ image len ok v, ∃ t, exec (.stageFirmware .pf image len ok v) s = .next t ∧ t.host.staged = some (image, len, ok, v) ∧
      t.host.cmdstat = 0) ∧
    ∀ k e, (e ∈ [Instr.stageFirmware (.vf k) 0 0 true 0, .mapVf (.vf k) 0 none, .installPortKey (.vf k) 0 0 (some 0)]) →
      ∃ t, exec e s = .next t ∧ t.host.cmdstat = 0x100 ∧ t.ports = s.ports ∧ t.host.vfmap = s.host.vfmap ∧
        t.host.staged = s.host.staged
/-- R387, R388: an error in a half-core is delivered to the context that owns it: the next record of its ring, with KIND 1, its
number and the unit; while the reader still holds that slot, nothing is written and the next record will say so. Model's
choices: notes/assumptions/19.md, notes/assumptions/26.md. -/
def Sys2Proof.Claims.ErrorDelivery : Prop :=
  ∀ (s : State) (d : CtxDesc) (unit : Nat) (blast : BitVec 48) (addr : DWord), s.host.ctxs = [d] → d.parent = none →
    s.host.changes = [] → d.halfmap.getLsbD unit = true →
    let n := cellGet 0 s.host.errSeq d.ctx
    let p := flatKey spHBM (d.errlog + 32 * (n % 256))
    (Memory.byte s.mem (p + 8) = 0 → ∃ t, exec (.errorDelivery 1 unit blast addr) s = .next t ∧ t.teams = s.teams ∧
      Memory.read t.mem p 8 = n % 2 ^ 64 ∧ Memory.byte t.mem (p + 8) = 1 ∧ Memory.byte t.mem (p + 9) = BitVec.ofNat 8 d.ctx ∧
      Memory.byte t.mem (p + 11) = (if d.ctx ∈ s.host.errOver then 1 else 0) ∧
      Memory.read t.mem (p + 12) 4 = 1 + 256 * (unit / 2 % 65536) ∧ Memory.read t.mem (p + 16) 8 = addr.toNat ∧
      Memory.read t.mem (p + 24) 8 = s.ns % 2 ^ 64 ∧ cellGet 0 t.host.errSeq d.ctx = n + 1) ∧
    (Memory.byte s.mem (p + 8) ≠ 0 → ∃ t, exec (.errorDelivery 1 unit blast addr) s = .next t ∧ t.mem = s.mem ∧
      d.ctx ∈ t.host.errOver)
/-- R389, R390: a VF that is frozen is held, and its context's teams stop; a frozen port and context pair is closed; disabling
the only VF of a context ends its work without a save and leaves it defined. Model's choice: notes/assumptions/58.md. -/
def Sys2Proof.Claims.Freezes : Prop :=
  ∀ (s : State) (v c : Nat),
    (s.ctxOfVf v = some c → v ∉ s.host.frozenVfs → ∃ t, exec (.masterFreeze (some v) c 0) s = .next t ∧ v ∈ t.host.frozenVfs ∧
      TeamsStop s t c ∧ t.host.pfLog.length = s.host.pfLog.length + 1) ∧
    (∀ p, ∃ t, exec (.masterFreeze none c p) s = .next t ∧ (p, c) ∈ t.host.frozenPorts ∧ t.portOpen c p = false ∧
      t.teams = s.teams) ∧
    (s.ctxOfVf v = some c → (s.vfsOf c = [v] ∨ v ∈ s.host.frozenVfs) → (s.ctxDesc c).isSome = true →
      ∃ t, exec (.vfDisable v) s = .next t ∧ (∀ u ∈ t.teams, u.ctx ≠ c) ∧ (∀ o ∈ t.ops, o.ctx ≠ c) ∧ t.ctxDesc c = s.ctxDesc c ∧
        v ∉ t.host.frozenVfs) ∧
    ∀ k, k ≠ v → s.ctxOfVf v = some c → k ∈ s.vfsOf c → v ∉ s.host.frozenVfs →
      ∃ t, exec (.vfDisable v) s = .next t ∧ t.teams = s.teams ∧ t.ops = s.ops ∧ t.mem = s.mem
/-- R391: an ATS invalidation waits for the operations that use a HOST translation of its range; IDE_KM over a session sets whether link
IDE stands. -/
def Sys2Proof.Claims.HostLink : Prop :=
  ∀ s : State,
    (∀ addr len, ∃ t, exec (.atsInvalidate addr len) s = .next t ∧ t.mem = s.mem ∧ t.ops = s.ops ∧ t.teams = s.teams ∧
      ∀ o ∈ s.ops, runsMeet o.kind.translated [(flatKey spHOST addr.toNat, len)] = true → ∃ l ∈ t.host.ats, o.id ∈ l) ∧
    ∀ b, (s.host.spdm.session = true → ∃ t, exec (.ideKm b) s = .next t ∧ t.host.ideUp = b ∧ t.mem = s.mem) ∧
      (s.host.spdm.session = false → exec (.ideKm b) s = .next s)
/-- R385: once nothing stands on the resources taken away, they hold zero and pass on. -/
def Sys2Proof.Claims.OwnerScrubs : Prop :=
  ∀ (n : Nat) (s : State) (x : OwnerChange), (s.host.changes.find? fun y => y.id == n) = some x → Memory.wf s.mem = true →
    (∀ u ∈ s.teams, u.usesHalf x.halves = false) → (∀ o ∈ s.ops, o.locks = []) →
    ∃ t, exec (.ownerChangeScrubComplete n) s = .next t ∧ (∀ y ∈ t.host.changes, y.id ≠ n) ∧
      ∀ k, Memory.byte t.mem k = if (keySpace k = spHBM ∧ keyOff k / 2 ^ 30 ∈ x.slices) ∨
        (keySpace k = spSRAM ∧ keyOff k / 2 ^ 21 ∈ x.units) then 0 else Memory.byte s.mem k
/-- R395: a reset of the package ends everything in it; nodes, trays, host memory and pod time go on. -/
def Sys2Proof.Claims.Resets : Prop :=
  ∀ s : State, Memory.wf s.mem = true → ∃ t, exec .reset s = .next t ∧ t.teams = [] ∧ t.ops = [] ∧ t.launches = [] ∧ t.pts = 0 ∧
    t.cc = 0 ∧ t.ns = s.ns ∧ t.nodes = s.nodes ∧ t.host.stage = 0 ∧ t.host.error = 0 ∧ t.host.ctxs = [] ∧ t.loop.joined = false ∧
    t.host.staged = s.host.staged ∧ (∀ p ∈ t.ports, p.up = false ∧ p.keys = []) ∧ t.ports.length = 32 ∧
    ∀ k, Memory.byte t.mem k =
      if keySpace k = spPOOL ∨ keySpace k = spTRAY ∨ keySpace k = spHOST then Memory.byte s.mem k else 0
/-- R395: the boot stages: a stage that fails stops the sequence with its code; stage 1 takes a staged image that verifies,
stage 3 zeroes HBM, stage 4 enables the ports that have a node and fixes PKGINFO, stage 6 joins the loop as of the record that
the snapshot names, with its claims and the pending launches of this package. Model's choices: notes/assumptions/5.md, notes/assumptions/11.md, notes/assumptions/61.md. -/
def Sys2Proof.Claims.BootStages : Prop :=
  ∀ (s : State) (snap : Option Snapshot), s.host.stage < 7 → s.host.error = 0 →
    (∀ r, r ≠ 0 → r < 16 → s.host.stage ≠ 0 → exec (.bootStageAdvance r snap) s = .next { s with host := { s.host with error := r } }) ∧
    ∃ t, exec (.bootStageAdvance 0 snap) s = .next t ∧ t.host.stage = s.host.stage + 1 ∧ t.teams = s.teams ∧
      (s.host.stage = 1 → ∀ img len v, s.host.staged = some (img, len, true, v) → Config.minVersion ≤ v →
        t.host.version = some v ∧ t.host.installs = s.host.installs + 1 ∧ t.host.staged = none) ∧
      (s.host.stage = 1 → ∀ img len v, s.host.staged = some (img, len, false, v) →
        t.host.version = s.host.version ∧ t.host.staged = none) ∧
      (s.host.stage = 3 → Memory.wf s.mem = true →
        ∀ k, Memory.byte t.mem k = if keySpace k = spHBM then 0 else Memory.byte s.mem k) ∧
      (s.host.stage = 4 → t.host.pkg = Config.pkg.toNat ∧ t.host.nodes = Config.numNodes ∧ t.host.pkgs = Config.numPkgs ∧
        ∀ (i : Nat) (x : Port), s.ports[i]? = some x → t.ports[i]? = some { x with up := decide (i < Config.numNodes) }) ∧
      (s.host.stage = 6 → snap = none → t.loop.joined = true ∧ t.loop.received = 0 ∧ t.loop.applied = 0) ∧
      (s.host.stage = 6 → ∀ x, snap = some x → t.loop.joined = true ∧ t.loop.received = x.n ∧ t.loop.applied = x.n ∧
        t.pts = tsMax s.pts x.pts ∧ t.claims = x.claims ∧
        ((x.bytes.map fun e => e.1).Nodup → ∀ e ∈ x.bytes, e.1 < Config.ensBytes → Memory.byte t.mem (ensKey e.1) = e.2) ∧
        ∀ c q k, c < 48 → q < 64 → k < 16 → t.ens64 (stateOff c q k) % 256 = 1 →
          let r : LoopRecord := BitVec.ofNat 512 (Memory.read t.mem (ensKey (0x1100000 + ((64 * c + q) * 16 + k) * 64)) 64)
          recField r 0x2A 1 = s.host.pkg → launchOf (fullSeq x.n (t.ens64 (stateOff c q k) / 2 ^ 16)) k r ∈ t.launches)
/-- The SPDM responder answers a request `e` with `r` and goes on as `x` once the negotiation has come as far as `need`, with an error
before, and not at all before boot stage 3 (R395, R396). -/
def Sys2Proof.Machine.SpdmAnswers (e : Instr) (s : State) (need : Nat) (r : SpdmReply) (x : Spdm) : Prop :=
  (s.host.stage < 3 → exec e s = .next s) ∧
  (3 ≤ s.host.stage → s.host.spdm.stage < need → exec e s = .next { s with host := { s.host with
    spdm := { s.host.spdm with replies := s.host.spdm.replies ++ [.error] } } }) ∧
  (3 ≤ s.host.stage → need ≤ s.host.spdm.stage → exec e s = .next { s with host := { s.host with
    spdm := { x with replies := s.host.spdm.replies ++ [r] } } })
/-- R396: the requests of SPDM 1.3 in their order of negotiation. Model's choices: notes/assumptions/18.md,
notes/assumptions/60.md. -/
def Sys2Proof.Claims.SpdmRequests : Prop :=
  ∀ s : State,
    let x := s.host.spdm
    SpdmAnswers .getVersion s 0 (.version 0x13) { x with stage := 1, session := false } ∧
    SpdmAnswers .getCapabilities s 1 .capabilities { x with stage := max x.stage 2 } ∧
    (∀ a b, SpdmAnswers (.negotiateAlgorithms a b) s 2 (.algorithms (a && b)) (if a && b then { x with stage := max x.stage 3 } else x)) ∧
    SpdmAnswers .getDigests s 3 (.digests Config.certDigest) x ∧
    (∀ o n, SpdmAnswers (.getCertificate o n) s 3
      (.certificate ((List.range (min n (Config.certLen - o))).map fun i => Config.certByte (o + i))) x) ∧
    (∀ n, SpdmAnswers (.challenge n) s 3 (.challengeAuth (Config.sign n)) x) ∧
    (∀ n, SpdmAnswers (.getMeasurements 1 n) s 3 (.measurements [(1, Config.digest 0)] (Config.sign n)) x) ∧
    (∀ k n, k ≠ 0xFF → (k = 0 ∨ 5 < k) → SpdmAnswers (.getMeasurements k n) s 3 .error x) ∧
    (∀ p, SpdmAnswers (.keyExchange p) s 3 (.keyExchange (Config.spdmKey x.exchanges))
      { x with stage := 4, exchanges := x.exchanges + 1 }) ∧
    SpdmAnswers (.finish true) s 4 .finish { x with stage := 5, session := true } ∧
    SpdmAnswers (.finish false) s 4 .error { x with stage := 3, session := false }
/-- The registers and commands of the host side. -/
def Obligations.HostCommands : Prop :=
  Claims.LeaseAndStatus ∧ Claims.RegisterWrites ∧ Claims.Doorbells ∧ Claims.ContextCommands ∧ Claims.Dissolving ∧ Claims.PfCommands
/-- The other events of the host side. -/
def Obligations.HostEvents : Prop :=
  Claims.ErrorDelivery ∧ Claims.Freezes ∧ Claims.HostLink ∧ Claims.OwnerScrubs ∧ Claims.Resets ∧ Claims.BootStages ∧
    Claims.SpdmRequests

/-! ### Every event of the agents completes -/

/-- R245, R262 to R264, R276, R283, R285, R292, R309: each event of memory and of the copy engines completes where the rule lets it happen: a line
goes home, a marker is answered, an acknowledgement is posted, an item of CPL moves, a finished operation ends, an idle engine takes an item,
a landing is made, and the lease tick comes. Model's choice: notes/assumptions/2.md. -/
def Sys2Proof.Claims.MemoryEventsComplete : Prop :=
  ∀ s : State,
    (∀ core line, ∃ t, exec (.updateOnlyFlush core line) s = .next t ∧
      ∀ e, e ∈ t.update ↔ e ∈ s.update ∧ ¬(e.core = core ∧ e.line = line)) ∧
    (∀ port o, s.pathDrained port = true → (s.ops.find? fun x => x.markers.contains port && s.depsDone x) = some o →
      s.opAt o.id = some o → (∀ e, o.kind ≠ .engine e) → s.portOpen o.ctx port = true →
      cellGet 0 (s.portAt port).txCount o.ctx ≠ BitVec.allOnes 64 → cellGet 0 (s.portAt port).rxCount o.ctx ≠ BitVec.allOnes 64 →
      ∃ t, exec (.flushMarkerAck port) s = .next t ∧ ∀ p, t.opAt o.id = some p → port ∉ p.markers) ∧
    (∀ id a, (s.loop.acks.find? fun x => x.id == id) = some a → (∀ i ∈ a.ops, s.opAt i = none) →
      s.bufferUses a.ctx a.old a.lvl = false → TapRoom s →
      ∃ t, exec (.pteAckPost id) s = .next t ∧ t.loop.acks = s.loop.acks.filter (fun x => x.id != id) ∧
        t.loop.queue.length = s.loop.queue.length + 1) ∧
    (∀ o e k i a b, s.opAt o.id = some o → o.kind = .engine e → e.kind = .cpl → e.items[k]? = some i → s.itemDue o e k i = true →
      i.stage = .idle → s.settleOp (fun p => p.isNone) o = s → i.src = .runs a → i.dst = .runs b → LocalRuns s a → LocalRuns s b →
      ∃ t p, exec (.copyItemComplete o.id k) s = .next t ∧ t.opAt o.id = some p ∧
        p.kind = .engine { e with items := e.items.set k { i with done := true } } ∧
        t.mem = Memory.writeRuns s.mem b (Memory.runBytes s.mem a)) ∧
    (∀ o e, s.opAt o.id = some o → o.kind = .engine e → e.finished = true → s.depsDone o = true → (∀ m n, e.kind ≠ .cpbox (some m) n) →
      ∃ t, exec (.copyFinalWord o.id) s = .next t ∧ t.opAt o.id = none) ∧
    (∀ engine v, s.untaken engine = 0 → s.busiest ((List.range 48).map fun k => engine / 48 * 48 + k) = some v →
      ∃ t, exec (.workSteal engine) s = .next t ∧
        ∃ o ∈ t.ops, ∃ e, o.kind = .engine e ∧ ∃ i ∈ e.items, i.engine = engine ∧ i.taken = true) ∧
    (∀ o e grp roff n ps i, s.opAt o.id = some o → o.kind = .engine e → e.kind = .cpmc grp roff n ps.length → e.items = ps ++ [i] →
      (∀ p ∈ ps, p.done = true ∧ p.cause = 0) → i.done = false →
      (∀ u st, s.teamAt i.peer = some u → (u.group grp).station = some st → st.op ≠ o.id) →
      ∃ t p f j, exec (.cpmcLanding o.id i.lane) s = .next t ∧ t.opAt o.id = some p ∧ p.kind = .engine f ∧ f.items = ps ++ [j] ∧
        j.done = true) ∧
    (s.ticks < s.ns / 1024 → ∃ t, exec .leaseTick s = .next t ∧ t.ticks = s.ticks + 1 ∧ t.pts = tsMax (s.pts + 1) (BitVec.ofNat 16 (s.ticks + 1)))
/-- R117, R304, R305, R308, R310 to R316, R318, R319, R321, R322, R354, R362: each event of a node and of the fabric completes where the rule lets
it happen: the node takes the oldest packet of the path and answers it, holds a write or lets it go, gives up a sector, takes a slot's
configuration; a reply reaches this package, an arbiter grants, a packet fails its check or is sent again, a path fails, and what another
package asks is done. Model's choice: notes/assumptions/2.md. -/
def Sys2Proof.Claims.FabricEventsComplete : Prop :=
  ∀ (n : Nat) (s : State),
    (∀ p, NodeHead s n p →
      (∀ k, p.load = .read k → ∃ t l, exec (.nodeRead n none) s = .next t ∧ NodeAnswers s t n p l) ∧
      (∀ b, p.load = .write b → s.packetHeld p = false →
        ∃ t l, exec (.nodeWrite n none) s = .next t ∧ NodeAnswers s t n p l ∧ t.mem = Memory.writeBytes s.mem p.addr b) ∧
      (∀ ops, p.load = .atomic ops → s.packetHeld p = false → ∃ t l, exec (.nodeAtomic n none) s = .next t ∧ NodeAnswers s t n p l) ∧
      (p.load = .tsQuery → ∃ t l, exec (.timestampQuery n none) s = .next t ∧ NodeAnswers s t n p l) ∧
      (∀ sl r a w f m es c, p.load = .contrib sl r a w f m es c →
        ∃ t l, exec (.reductionContribution n none) s = .next t ∧ NodeAnswers s t n p l) ∧
      (∀ sl c x, p.load = .redRead sl c → (s.nodeAt n).dueRead = none → tableFind (s.nodeAt n).slots sl = some x → x.claimed = true →
        x.owner = p.ctx → x.recNo = c → x.got.length = x.ranks → x.elems ≤ 4096 →
        ∃ t, exec (.reductionRead n none) s = .next t ∧ NodeSends s t n (x.answers p)) ∧
      ∀ c sl w a m r, p.load = .config c sl w a m r → tableFind (s.nodeAt n).slots sl = none →
        ∃ t x, exec (.slotConfigApply n none) s = .next t ∧ tableFind (t.nodeAt n).slots sl = some x ∧ x.recNo = c ∧ x.got = []) ∧
    (∀ p rest b, (s.nodeAt n).heldWrites = p :: rest → s.packetHeld p = false → p.load = .write b → s.update = [] → CountRoom s n p.ctx →
      ∃ t, exec (.heldWriteRelease n) s = .next t ∧ (t.nodeAt n).heldWrites = rest ∧ t.mem = Memory.writeBytes s.mem p.addr b) ∧
    (∀ sec leave, tableFind (s.nodeAt n).cache sec = some leave → leave ≤ s.ticks →
      ∃ t, exec (.atomicCacheWriteback n sec) s = .next t ∧ tableFind (t.nodeAt n).cache sec = none) ∧
    (∀ x p rest, s.ports[n]? = some x → x.up = true → x.fromNode = p :: rest → (∀ d ∈ x.dropped, d.1 = true) →
      ∃ t y, exec (.replyReceive n none) s = .next t ∧ t.ports[n]? = some y ∧ y.fromNode = rest ∧
        cellGet 0 y.rxCount p.ctx = cellGet 0 x.rxCount p.ctx + 1) ∧
    (∀ a w x, tableFind s.arbiters n = some a → a.waiting = [w] → s.ports[n]? = some x → s.portOpen w.pkt.ctx n = true →
      cellGet 0 x.txCount w.pkt.ctx ≠ BitVec.allOnes 64 →
      ∃ t y, exec (.arbiterGrant n) s = .next t ∧ tableFind t.arbiters n = some { waiting := [], pointer := w.input + 1 } ∧
        t.ports[n]? = some y ∧ cellGet 0 y.txCount w.pkt.ctx = cellGet 0 x.txCount w.pkt.ctx + 1) ∧
    (∀ x p rest, s.ports[n]? = some x → x.up = true → x.toNode = p :: rest → x.dropped = [] → x.consecutive < 7 →
      ∃ t y, exec (.packetIntegrityFailure n true) s = .next t ∧ t.ports[n]? = some y ∧ y.toNode = rest ∧ y.dropped = [(true, p)] ∧
        y.integrity = x.integrity + 1) ∧
    (∀ x p, s.ports[n]? = some x → x.dropped = [(true, p)] →
      ∃ t y, exec (.retransmissionRequest n true) s = .next t ∧ t.ports[n]? = some y ∧ y.toNode = p :: x.toNode ∧ y.dropped = []) ∧
    (∀ x, s.ports[n]? = some x → x.up = true →
      ∃ t y, exec (.linkFailure n) s = .next t ∧ t.ports[n]? = some y ∧ y.up = false ∧ y.toNode = [] ∧ y.fromNode = []) ∧
    ∀ p key leaf, RemoteHere s p → keySpace key = spHBM ∨ keySpace key = spSRAM →
      (∀ b, p.load = .write b → s.check p.ctx .store 1 p.addr = .ok key leaf → LocalRuns s [(key, b.length)] →
        ∃ t, exec (.remotePacketApply p) s = .next t ∧ t.mem = Memory.writeRuns s.mem [(key, b.length)] b ∧
          RemoteAnswers t s p (.writeAck 0 0)) ∧
      ∀ k, p.load = .read k → s.check p.ctx .load 1 p.addr = .ok key leaf → LocalRuns s [(key, k)] →
        ∃ t, exec (.remoteRead p) s = .next t ∧ RemoteAnswers t s p (.readData (Memory.runBytes s.mem [(key, k)]) 0 0)
/-- R265, R328 to R330, R332 to R334, R336: each event of the loop completes where the rule lets it happen: the oldest record received is
applied, whatever its type; the pennant takes a record from the tap; a record is fetched again; the tap leaves the loop; a budget window
begins. Model's choice: notes/assumptions/2.md. -/
def Sys2Proof.Claims.LoopEventsComplete : Prop :=
  ∀ s : State,
    (∀ r op rest, LoopHead s r op rest → s.launches = [] →
      ∀ x ∈ [(Instr.storeRec none, 1), (.claimRec none, 2), (.addRec none, 3), (.launchRec none, 4), (.pteRec none, 5), (.slotRec none, 6),
        (.freeRec none, 7), (.abortRec none, 8)], recType r = x.2 → ∃ t, exec x.1 s = .next t ∧ LoopApplied s t r op rest) ∧
    (∀ e, s.loop.joined = true → s.host.stage = 7 → s.ops = [] → s.loop.backlog = [] → s.loop.queue = [e] → s.maySend e = true →
      ∃ t, exec .pennantArrive s = .next t ∧ t.loop.queue = [] ∧ t.loop.received = s.loop.received + 1) ∧
    (∀ ok, s.loop.inbox ≠ [] → ∃ t, exec (.recordRefetch ok) s = .next t ∧ t.loop.refetch = !ok) ∧
    (s.loop.joined = true → s.loop.refetch = true → ∃ t, exec .loopLeave s = .next t ∧ t.loop.joined = false ∧ t.loop.left = true) ∧
    (s.loop.windows < s.ns / 1000 → ∃ t, exec .loopBudgetWindow s = .next t ∧ t.loop.windows = s.loop.windows + 1 ∧ t.loop.sent = [])
/-- R344, R346, R350, R373, R376, R378, R379: each event of the tier engine and of energy completes where the rule lets it happen. Model's choices:
notes/assumptions/2.md, notes/assumptions/20.md. -/
def Sys2Proof.Claims.TierAndEnergyComplete : Prop :=
  ∀ s : State,
    (∀ team entry n u e, s.teamAt team = some u → s.ttEntry u entry = some e → e.due (s.ttHead u).2 u = true → s.tierTurn team entry = true →
      s.rangeVerdict u.ctx e.tier (e.base u.linear) e.len = .good → s.canFit u.ctx e.tier (e.span u.linear) = true → 0 < n →
      ∃ t, exec (.tierCarryOut team entry n) s = .next t ∧
        TierHolds t u.ctx e.tier (e.span u.linear).1 (min (e.span u.linear).2 ((e.span u.linear).1 + n - 1))) ∧
    (∀ copy c v, s.tiers.copies[copy]? = some c → c.rts = some v → s.copyKept c = true → (v - s.pts).toNat ≤ 2 →
      ∃ t q, exec (.tierLeaseRenew copy) s = .next t ∧ t.tiers.copies = s.tiers.copies.set copy { c with rts := q }) ∧
    (s.tiers.decays < s.ns / 1000000 → ∃ t, exec .sampleDecay s = .next t ∧
      t.tiers.counters = s.tiers.counters.map fun c => { c with count := c.count / 2 }) ∧
    (∀ ctx g c, s.counterOf ctx g = some c → 8 ≤ c.count →
      let tier := if c.home = spHBM then 0 else 1
      s.rangeVerdict ctx tier (65536 * g) 65536 = .good →
      s.tierFits ctx tier ((2048 * g, 2048 * g + 2047) :: s.heldStretches ctx tier) = true →
      ∃ t, exec (.hotGranuleCopy ctx g) s = .next t ∧ TierHolds t ctx tier (2048 * g) (2048 * g + 2047)) ∧
    (s.energy.kvtRound < s.ns / 100000 → ∃ t, exec .kvtRecompute s = .next t ∧ t.energy.kvtRound = s.energy.kvtRound + 1) ∧
    (∀ rail, s.energy.interval < s.ns / 1000000 →
      ∃ t, exec (.reconcile rail) s = .next t ∧ t.energy.interval = s.energy.interval + 1 ∧ t.energy.live = [] ∧ t.energy.begun = s.ns) ∧
    (∀ v, s.vfOver v = true → ∃ t, exec (.quotaExhausted v) s = .next t ∧ v ∈ t.energy.qx) ∧
    ∀ v x, v < 2048 → ∃ t, exec (.quotaWrite v x) s = .next t ∧ t.quotaOf v = x
/-- R381, R383, R386, R392 to R395: each register write, doorbell and command of the host completes where the rule lets it take effect. Model's
choices: notes/assumptions/2.md, notes/assumptions/59.md. -/
def Sys2Proof.Claims.HostEventsComplete : Prop :=
  ∀ s : State,
    (∀ c (v : DWord), c < 48 → 1 ≤ v.toNat → v.toNat ≤ 255 → ∃ t, exec (.leaseWrite c v) s = .next t ∧ cellGet 10 t.host.lease c = v) ∧
    (∀ fn, s.fnFrozen fn = false → ∃ t, exec (.dbstatClear fn) s = .next t ∧ fnKey fn ∉ t.host.dberr) ∧
    (s.barsLive = true →
      (∀ c v, c < 48 → v.toNat % 0x8000 = 0 → ∃ t, exec (.registerWrite .pf (0x100 + c) v) s = .next t ∧ cellGet 0 t.host.lroot c = v) ∧
      (∀ r, recCtx r ≤ 47 → 1 ≤ recType r → recType r ≤ 8 → TapRoom s →
        ∃ t e, exec (.recordDoorbell .pf r) s = .next t ∧ t.loop.queue = s.loop.queue ++ [e] ∧ e.ctx = recCtx r ∧ e.dev = false) ∧
      (∀ b, let d := CtxDesc.ofBlock b
        d.parent = none → s.ctxDesc d.ctx = none → d.ctx ∉ s.host.dissolving → ctxsOk (s.host.ctxs ++ [d]) = true →
        ∃ t, exec (.createContext .pf b) s = .next t ∧ d ∈ t.host.ctxs ∧ t.host.cmdstat = 0) ∧
      (∀ c d, s.ctxDesc c = some d → (∀ x ∈ s.host.ctxs, x.parent ≠ some c) →
        ∃ t, exec (.dissolveContext .pf c) s = .next t ∧ t.ctxDesc c = none ∧ t.host.cmdstat = 0) ∧
      (∀ v c, v < 2048 → (s.ctxDesc c).isSome = true →
        ∃ t, exec (.mapVf .pf v (some c)) s = .next t ∧ t.ctxOfVf v = some c ∧ t.host.cmdstat = 0) ∧
      (∀ c n k x, c < 48 → n < 32 → s.ports[n]? = some x →
        ∃ t y, exec (.installPortKey .pf c n (some k)) s = .next t ∧ t.ports[n]? = some y ∧ tableFind y.keys c = some k ∧
          t.host.cmdstat = 0) ∧
      ∀ image len ok v, ∃ t, exec (.stageFirmware .pf image len ok v) s = .next t ∧ t.host.staged = some (image, len, ok, v) ∧
        t.host.cmdstat = 0)
/-- Every event of memory, the engines, the fabric, the loop, the tier engine, energy and the host's commands completes. -/
def Obligations.EventsComplete : Prop :=
  Claims.MemoryEventsComplete ∧ Claims.FabricEventsComplete ∧ Claims.LoopEventsComplete ∧ Claims.TierAndEnergyComplete ∧
    Claims.HostEventsComplete

/-! ### Steps, reset, invariants -/

/-- The latch as the step sets it for the slot at the fragment's PC, whose line is `l`. -/
def Sys2Proof.Machine.Who.latched (w : Who) (l : BitVec 512) (pairUp : Bool) : Issue :=
  let pc := w.frag.pc
  { w.iss with
    pc := pc, slot := pcSlot pc, line := pcLine pc, fa := lineFA l, fb := lineFB l,
    next := slotNext (pcLine pc) (if pairUp then pcSlot pc + 1 else pcSlot pc), snap := if pairUp then some w.team.snapshot else none }
/-- What one instruction's answer becomes: the work of an instruction that has retired is booked to its team (R374). -/
def Sys2Proof.Machine.Booked (i : Instr) (s t : State) : State :=
  match s.who with
  | some w => if t.last = .retired then t.bookWork w i else t
  | none => t
/-- R21 to R33, R46: where a fragment issues, has not arrived at a frame, stands on the slot of a line that is entered, and the
slot is no lower slot of a pair, then the step runs the instruction that the slot's word decodes to, if nothing that it waits
for is outstanding; time passes after it. A word that decodes to none is an illegal instruction, with the check that it breaks
as INFO. Model's choices: notes/assumptions/3.md, notes/assumptions/15.md. -/
def Sys2Proof.Claims.StepRunsDecoded : Prop :=
  ∀ (s : State) (w : Who) (l : BitVec 512), s.who = some w → (w.thr = none → w.team.arrivesAt w.frag = none) →
    s.lineFor w.team.ctx w.frag = .line l → s.wmClear w.team.id (w.thr.map fun x => x.group) w.frag l = true →
    (pairSlots (linePT l)).contains (pcSlot w.frag.pc) = false →
    let w' : Who := { w with iss := w.latched l false }
    let s' : State := s.onFrag w fun f => { f with line := some l }
    (∀ i, decode (lineSlot l (pcSlot w.frag.pc)) = .ok i → s'.mustWait w' [i] = false → s'.roundStop w' i = false →
      let r : State := { s' with issue := some (w.latched l false) }
      step s = match exec i r with
        | .next t => .next (Booked i r t).tick
        | .fault x => .fault x
        | .refused x => .refused x) ∧
    ∀ e, decode (lineSlot l (pcSlot w.frag.pc)) = .error e →
      step s = .next (s'.trapWho w' 0x01 (BitVec.ofNat 64 e.number) w.frag.pc).tick
/-- R27 to R29: the lower slot of a pair runs both slots in the one step: first the V instruction, then its partner, which reads
the registers as they stood before; where either traps, the pair has no other effect than the trap. Model's choices:
notes/assumptions/14.md, notes/assumptions/41.md. -/
def Sys2Proof.Claims.StepRunsPair : Prop :=
  ∀ (s : State) (w : Who) (l : BitVec 512) (a b : Instr), s.who = some w → (w.thr = none → w.team.arrivesAt w.frag = none) →
    s.lineFor w.team.ctx w.frag = .line l → s.wmClear w.team.id (w.thr.map fun x => x.group) w.frag l = true →
    let k := pcSlot w.frag.pc
    (pairSlots (linePT l)).contains k = true →
    decode (lineSlot l k) = .ok a → decode (lineSlot l (k + 1)) = .ok b → issueClass (lineSlot l k) = some .v →
    let w' : Who := { w with iss := w.latched l true }
    let s' : State := s.onFrag w fun f => { f with line := some l }
    s'.mustWait w' [a, b] = false → s'.roundStop w' a = false → s'.roundStop w' b = false →
    Instr.closing b = false →
    let r : State := { s' with issue := some (w.latched l true) }
    (∀ x y, exec a (r.latchAs (w.latched l true) k) = .next x → x.last = .retired →
      exec b (x.latchAs (w.latched l true) (k + 1)) = .next y → y.last = .retired →
      step s = .next (Booked b r (Booked a r y)).tick) ∧
    ∀ x c info, exec a (r.latchAs (w.latched l true) k) = .next x → x.last = .trapped c info →
      ∃ t, step s = .next t.tick ∧ t = Booked b r (Booked a r (r.pairTrap (w.latched l true) k c info))
/-- R23 to R26, R241, R242: a fragment that enters a line reads its 64 bytes as a fetch; parity and the line checks hold before
any slot issues. Model's choices: notes/assumptions/9.md, notes/assumptions/10.md. -/
def Sys2Proof.Claims.LineEntry : Prop :=
  ∀ (s : State) (c : Nat) (f : Fragment), f.line = none →
    (∀ key leaf, s.check c .fetch 64 (pcLine f.pc).toNat = .ok key leaf →
      let l := BitVec.ofNat 512 (Memory.read s.mem key 64)
      s.lineFor c f = if parityOk l = false then .trap 0x03 (pcLine f.pc)
        else if lineIllegal l = true then .trap 0x02 (pcLine f.pc) else .line l) ∧
    ∀ cause, s.check c .fetch 64 (pcLine f.pc).toNat = .fault cause → s.lineFor c f = .trap cause (pcLine f.pc)
/-- The model's own rule (notes/assumptions/2.md): with nothing to issue, a step performs the oldest event of the agenda, and else the event
whose turn it is; time passes after it. -/
def Sys2Proof.Claims.StepRunsEvents : Prop :=
  ∀ (s : State), s.issue = none →
    (∀ e rest t, s.agenda = e :: rest → e.isEvent = true → exec e { s with agenda := rest } = .next t → step s = .next t.tick) ∧
    ∀ t, s.agenda = [] → exec s.nextEvent { s with turn := s.turn + 1 } = .next t → step s = .next t.tick
/-- Each step does what it is named for. -/
def Obligations.StepMeaning : Prop :=
  Claims.StepRunsDecoded ∧ Claims.StepRunsPair ∧ Claims.LineEntry ∧ Claims.StepRunsEvents

/-- The tables of the machine are in their canonical form: memory, memory as a deterministic round began, and every tile. -/
def Sys2Proof.Machine.State.canonical (s : State) : Prop :=
  Memory.wf s.mem = true ∧ (∀ l ∈ s.launches, ∀ m, l.roundMem = some m → Memory.wf m = true) ∧
    ∀ u ∈ s.teams, ∀ t ∈ u.tiles, cellWf Elem.zero t.elems = true
/-- Every outstanding operation has a number that has been given. -/
def Sys2Proof.Machine.State.numbered (s : State) : Prop := ∀ o ∈ s.ops, o.id < s.nextOp
/-- R393: what the registers hold after a reset: LEASE 10, QUOTA all ones, PKGINFO, BOOTSTAT, DBSTAT, DBSEQ, CMD, CMDSTAT, LROOT, ENERGY,
ESCALE, QX and MCNT 0. -/
def Sys2Proof.Claims.ResetRegisters : Prop :=
  (∀ c < 48, cellGet 10 State.reset.host.lease c = 10 ∧ cellGet 0 State.reset.host.lroot c = 0 ∧
    cellGet 0 State.reset.energy.total c = 0) ∧
  (∀ v < 2048, State.reset.quotaOf v = BitVec.allOnes 64 ∧ v ∉ State.reset.energy.qx) ∧
  State.reset.host.pkg = 0 ∧ State.reset.host.nodes = 0 ∧ State.reset.host.stage = 0 ∧ State.reset.host.error = 0 ∧
  State.reset.host.dberr = [] ∧ State.reset.host.dbseq = [] ∧ State.reset.host.cmd = 0 ∧ State.reset.host.cmdstat = 0 ∧
  State.reset.energy.totalDev = 0 ∧ State.reset.energy.scale = 0 ∧ ∀ k, cellGet 0 State.reset.host.mcnt k = 0
/-- After a reset there is no team, launch or operation, and the tables are in their canonical form. Model's choice:
notes/assumptions/5.md. -/
def Sys2Proof.Claims.ResetEmpty : Prop :=
  State.reset.teams = [] ∧ State.reset.launches = [] ∧ State.reset.ops = [] ∧ State.reset.issue = none ∧
  State.reset.canonical ∧ State.reset.numbered
/-- The state after a reset. -/
def Obligations.ResetState : Prop := Claims.ResetRegisters ∧ Claims.ResetEmpty
/-- Every step keeps the canonical form of memory and of the tiles. Model's choice: notes/assumptions/4.md. -/
def Obligations.StepsKeepCanonical : Prop := ∀ s t : State, s.canonical → step s = .next t → t.canonical
/-- Every step keeps the numbering of the outstanding operations. Model's choice: notes/assumptions/3.md. -/
def Obligations.StepsKeepNumbers : Prop := ∀ s t : State, s.numbered → step s = .next t → t.numbered
end

