-- ==== Sys2Proof/Laws/Cells.lean ====
section
/-! SUPPORT. The laws of sparse tables and of memory bytes over them: reading after writing, and the canonical form. -/

namespace Sys2Proof.Machine
open Sys2Proof

/-! ### Reading after writing -/

/-- Leaving out keys up to `k` changes no reading above `k`. -/
theorem cellGet_dropWhile {α : Type} (d : α) (k : Nat) : ∀ (c : Cells α) (j : Nat), k < j →
    cellGet d (c.dropWhile fun e => e.1 ≤ k) j = cellGet d c j
  | [], _, _ => rfl
  | (i, w) :: t, j, h => by
    rw [List.dropWhile_cons]
    by_cases hi : i ≤ k
    · simp only [hi, decide_true, if_true]
      rw [cellGet_dropWhile d k t j h]
      have h1 : ¬ j < i := by omega
      have h2 : ¬ j = i := by omega
      simp [cellGet, h1, h2]
    · simp [hi]
/-- A key at or below `k` reads as the default once keys up to `k` are left out. -/
theorem cellGet_dropWhile_le {α : Type} (d : α) (k : Nat) : ∀ (c : Cells α) (j : Nat), j ≤ k →
    cellGet d (c.dropWhile fun e => e.1 ≤ k) j = d
  | [], _, _ => rfl
  | (i, w) :: t, j, h => by
    rw [List.dropWhile_cons]
    by_cases hi : i ≤ k
    · simp only [hi, decide_true, if_true]
      exact cellGet_dropWhile_le d k t j h
    · have h1 : j < i := by omega
      simp [hi, cellGet, h1]
/-- What a key reads as after a key is set. -/
theorem cellGet_cellPut {α : Type} [DecidableEq α] (d v : α) (k j : Nat) : ∀ c : Cells α,
    cellGet d (cellPut d c k v) j = if j = k then v else cellGet d c j
  | [] => by
    by_cases hv : v = d
    · simp [cellPut, cellGet, hv]
    · by_cases h1 : j < k
      · have : j ≠ k := by omega
        simp [cellPut, cellGet, hv, h1, this]
      · simp [cellPut, cellGet, hv, h1]
  | (i, w) :: t => by
    have ih := cellGet_cellPut d v k j t
    unfold cellPut
    by_cases h1 : k < i
    · by_cases hv : v = d
      · by_cases h2 : j = k
        · subst h2; simp [h1, hv, cellGet]
        · simp [h1, hv, h2]
      · simp only [h1, hv, if_true, if_false, cellGet]
        by_cases h3 : j < k
        · have h4 : j ≠ k := by omega
          have h5 : j < i := by omega
          simp [h3, h4, h5]
        · simp [h3]
    · by_cases h2 : k = i
      · subst h2
        by_cases hv : v = d
        · simp only [hv, if_true, if_false, Nat.lt_irrefl]
          by_cases h4 : j = k
          · subst h4; simp [cellGet_dropWhile_le]
          · by_cases h5 : j < k
            · rw [cellGet_dropWhile_le d k t j (by omega)]
              simp [h4, cellGet, h5]
            · rw [cellGet_dropWhile d k t j (by omega)]
              simp [cellGet, h4, h5]
        · simp only [hv, if_true, if_false, Nat.lt_irrefl, cellGet]
          by_cases h3 : j < k
          · have h4 : j ≠ k := by omega
            simp [h3, h4]
          · by_cases h4 : j = k
            · simp [h4]
            · simp [h4]
      · simp only [h1, h2, if_false, cellGet, ih]
        by_cases h3 : j < i
        · have : j ≠ k := by omega
          simp [h3, this]
        · by_cases h4 : j = i
          · have : j ≠ k := by omega
            simp [h4]
            omega
          · simp [h3, h4]
/-- The key that was set reads as its value. -/
@[simp] theorem cellGet_cellPut_self {α : Type} [DecidableEq α] (d v : α) (k : Nat) (c : Cells α) :
    cellGet d (cellPut d c k v) k = v := by simp [cellGet_cellPut]
/-- Any other key reads as before. -/
theorem cellGet_cellPut_ne {α : Type} [DecidableEq α] (d v : α) (k j : Nat) (c : Cells α) (h : j ≠ k) :
    cellGet d (cellPut d c k v) j = cellGet d c j := by simp [cellGet_cellPut, h]

/-! ### The canonical form -/

/-- Nothing is left out of a table that lies above `k`. -/
theorem dropWhile_cellAbove {α : Type} (k : Nat) : ∀ t : Cells α, cellAbove k t = true → (t.dropWhile fun e => e.1 ≤ k) = t
  | [], _ => rfl
  | e :: r, h => by
    have h3 : ¬ e.1 ≤ k := by
      simp only [cellAbove, decide_eq_true_eq] at h
      omega
    simp [h3]
/-- A table above a bound lies above a lower one. -/
theorem cellAbove_mono {α : Type} (a b : Nat) (h : a ≤ b) : ∀ t : Cells α, cellAbove b t = true → cellAbove a t = true
  | [], _ => rfl
  | e :: r, hb => by
    simp only [cellAbove, decide_eq_true_eq] at hb ⊢
    omega
/-- Setting a key above a bound keeps every key above it. -/
theorem cellAbove_cellPut {α : Type} [DecidableEq α] (d v : α) (k b : Nat) (h : b < k) : ∀ c : Cells α,
    cellWf d c = true → cellAbove b c = true → cellAbove b (cellPut d c k v) = true
  | [], _, _ => by by_cases hv : v = d <;> simp [cellPut, cellAbove, hv, h]
  | (i, w) :: t, hw, ha => by
    simp only [cellWf, Bool.and_eq_true, cellAbove, decide_eq_true_eq] at hw ha
    unfold cellPut
    by_cases h1 : k < i
    · by_cases hv : v = d <;> simp [h1, hv, cellAbove, ha, h]
    · by_cases h2 : k = i
      · subst h2
        by_cases hv : v = d
        · simp only [hv, if_true, Nat.lt_irrefl, if_false, dropWhile_cellAbove k t hw.1.2]
          exact cellAbove_mono b k (by omega) t hw.1.2
        · simp [hv, cellAbove, h]
      · simp [h1, h2, cellAbove, ha]
/-- Setting a key keeps the canonical form. -/
theorem cellWf_cellPut {α : Type} [DecidableEq α] (d v : α) (k : Nat) : ∀ c : Cells α,
    cellWf d c = true → cellWf d (cellPut d c k v) = true
  | [], _ => by by_cases hv : v = d <;> simp [cellPut, cellWf, cellAbove, hv]
  | (i, w) :: t, h => by
    have h0 := h
    simp only [cellWf, Bool.and_eq_true, bne_iff_ne, ne_eq] at h
    obtain ⟨⟨hw, ha⟩, ht⟩ := h
    unfold cellPut
    by_cases h1 : k < i
    · by_cases hv : v = d
      · simpa [h1, hv] using h0
      · simp only [h1, hv, if_true, if_false, cellWf, Bool.and_eq_true, bne_iff_ne, ne_eq, not_false_eq_true, true_and]
        exact ⟨by simpa [cellAbove] using h1, ⟨hw, ha⟩, ht⟩
    · by_cases h2 : k = i
      · subst h2
        by_cases hv : v = d
        · simp only [hv, if_true, Nat.lt_irrefl, if_false, dropWhile_cellAbove k t ha, ht]
        · simp only [hv, if_true, if_false, Nat.lt_irrefl, cellWf, Bool.and_eq_true, bne_iff_ne, ne_eq, not_false_eq_true, true_and]
          exact ⟨ha, ht⟩
      · simp only [h1, h2, if_false, cellWf, Bool.and_eq_true, bne_iff_ne, ne_eq]
        exact ⟨⟨hw, cellAbove_cellPut d v k i (by omega) t ht ha⟩, cellWf_cellPut d v k t ht⟩
/-- Leaving out entries of a canonical table, by their keys and values, leaves a canonical table. -/
theorem cellWf_filter {α : Type} [DecidableEq α] (d : α) (p : Nat × α → Bool) : ∀ c : Cells α,
    cellWf d c = true → cellWf d (c.filter p) = true ∧ ∀ b, cellAbove b c = true → cellAbove b (c.filter p) = true
  | [], _ => by simp [cellWf]
  | (i, w) :: t, h => by
    simp only [cellWf, Bool.and_eq_true, bne_iff_ne, ne_eq] at h
    obtain ⟨⟨hw, ha⟩, ht⟩ := h
    obtain ⟨h1, h2⟩ := cellWf_filter d p t ht
    by_cases hp : p (i, w) = true
    · rw [List.filter_cons_of_pos hp]
      refine ⟨?_, fun b hb => hb⟩
      simp only [cellWf, Bool.and_eq_true, bne_iff_ne, ne_eq]
      exact ⟨⟨hw, h2 i ha⟩, h1⟩
    · rw [List.filter_cons_of_neg hp]
      refine ⟨h1, fun b hb => h2 b ?_⟩
      simp only [cellAbove, decide_eq_true_eq] at hb
      exact cellAbove_mono b i (by omega) t ha

/-! ### Memory -/

/-- What a byte reads as after a byte is written. -/
theorem Memory.byte_setByte (m : Memory) (a b : Nat) (v : Byte) :
    Memory.byte (Memory.setByte m a v) b = if b = a then v else Memory.byte m b := cellGet_cellPut 0#8 v a b m
/-- Writing a byte keeps the canonical form. -/
theorem Memory.wf_setByte (m : Memory) (a : Nat) (v : Byte) (h : Memory.wf m = true) : Memory.wf (Memory.setByte m a v) = true :=
  cellWf_cellPut 0#8 v a m h
/-- A little-endian write keeps the canonical form. -/
theorem Memory.wf_write : ∀ (n : Nat) (m : Memory) (a v : Nat), Memory.wf m = true → Memory.wf (Memory.write m a n v) = true
  | 0, _, _, _, h => h
  | n + 1, m, a, v, h => Memory.wf_write n _ (a + 1) (v / 256) (Memory.wf_setByte m a _ h)
/-- A write of bytes keeps the canonical form. -/
theorem Memory.wf_writeBytes : ∀ (l : List Byte) (m : Memory) (a : Nat), Memory.wf m = true → Memory.wf (Memory.writeBytes m a l) = true
  | [], _, _, h => h
  | b :: t, m, a, h => Memory.wf_writeBytes t _ (a + 1) (Memory.wf_setByte m a b h)
/-- A byte outside those written reads as before. -/
theorem Memory.byte_writeBytes_out : ∀ (l : List Byte) (m : Memory) (a b : Nat), b < a ∨ a + l.length ≤ b →
    Memory.byte (Memory.writeBytes m a l) b = Memory.byte m b
  | [], _, _, _, _ => rfl
  | v :: t, m, a, b, h => by
    have h2 : b < a + 1 ∨ a + 1 + t.length ≤ b := by simp only [List.length_cons] at h; omega
    have h3 : b ≠ a := by simp only [List.length_cons] at h; omega
    rw [Memory.writeBytes, Memory.byte_writeBytes_out t _ (a + 1) b h2, Memory.byte_setByte, if_neg h3]
/-- A byte that is written reads as its value. -/
theorem Memory.byte_writeBytes_in : ∀ (l : List Byte) (m : Memory) (a i : Nat) (h : i < l.length),
    Memory.byte (Memory.writeBytes m a l) (a + i) = l[i]
  | v :: t, m, a, 0, _ => by
    rw [Memory.writeBytes, Memory.byte_writeBytes_out t _ (a + 1) (a + 0) (by omega), Memory.byte_setByte]
    simp
  | v :: t, m, a, i + 1, h => by
    have h2 : i < t.length := by simpa using h
    have := Memory.byte_writeBytes_in t (Memory.setByte m a v) (a + 1) i h2
    rw [Memory.writeBytes, show a + (i + 1) = a + 1 + i by omega, this]
    simp

end Sys2Proof.Machine
end

