-- ==== Sys2Proof/Laws/Teams.lean ====
section
/-! SUPPORT. What the operations over teams, fragments and groups do: each changes one team, and of it what its name says. -/

namespace Sys2Proof.Machine
open Sys2Proof

/-! ### Looking up after updating -/

/-- The team that `onTeam` names holds its update; every other team is as before. -/
theorem teamAt_onTeam (s : State) (id k : Nat) (f : Team → Team) (hf : ∀ t, (f t).id = t.id) :
    (s.onTeam id f).teamAt k = if k = id then (s.teamAt k).map f else s.teamAt k := by
  simp only [State.onTeam, State.teamAt]
  induction s.teams with
  | nil => by_cases h : k = id <;> simp [h]
  | cons t l ih =>
    have e0 : (if t.id == id then f t else t).id = t.id := by split <;> simp [hf]
    rw [List.map_cons, List.find?_cons, List.find?_cons, e0]
    by_cases hk : t.id = k
    · have hk' : (t.id == k) = true := by simpa using hk
      simp only [hk']
      by_cases h : k = id
      · simp [h, hk]
      · have h' : ¬ t.id = id := by omega
        simp [h, h']
    · have hk' : (t.id == k) = false := by simpa using hk
      simp only [hk']
      exact ih
/-- A team that is found has the id it was looked up by. -/
theorem teamAt_id (s : State) (k : Nat) (t : Team) (h : s.teamAt k = some t) : t.id = k := by
  simpa using List.find?_some h
/-- A fragment that is found has the id it was looked up by. -/
theorem fragAt_id (t : Team) (k : Nat) (f : Fragment) (h : t.fragAt k = some f) : f.id = k := by
  simpa using List.find?_some h
/-- An access thread that is found has the group it was looked up by. -/
theorem threadAt_group (t : Team) (k : Nat) (x : Thread) (h : t.threadAt k = some x) : x.group = k := by
  simpa using List.find?_some h
/-- An update of one team touches nothing else. -/
@[simp] theorem onTeam_rest (s : State) (id : Nat) (f : Team → Team) (l : List Team) (i : Option Issue) (x : Last) :
    { s.onTeam id f with teams := l, issue := i, last := x } = { s with teams := l, issue := i, last := x } := rfl
/-- The issuer's team, fragment and thread are the ones the state holds. -/
theorem who_some (s : State) (w : Who) (h : s.who = some w) :
    s.issue = some w.iss ∧ s.teamAt w.team.id = some w.team ∧
      (w.thr = none → w.team.fragAt w.frag.id = some w.frag) ∧
      (∀ x, w.thr = some x → w.team.threadAt x.group = some x ∧ w.frag = x.frag) := by
  unfold State.who at h
  split at h
  · cases h
  · rename_i iss hi
    split at h
    · cases h
    · rename_i t ht
      have hid := teamAt_id s iss.team t ht
      split at h
      · cases hf : t.fragAt iss.frag with
        | none => simp [hf] at h
        | some f =>
          simp only [hf, Option.map_some, Option.some.injEq] at h
          subst h
          refine ⟨hi, by rw [hid]; exact ht, fun _ => ?_, fun x hx => by simp at hx⟩
          simp only [fragAt_id t iss.frag f hf, hf]
      · rename_i g hg
        cases hx : t.threadAt g with
        | none => simp [hx] at h
        | some x =>
          simp only [hx, Option.map_some, Option.some.injEq] at h
          subst h
          refine ⟨hi, by rw [hid]; exact ht, fun h => by simp at h, fun y hy => ?_⟩
          simp only [Option.some.injEq] at hy
          subst hy
          rw [threadAt_group t g x hx]
          exact ⟨hx, rfl⟩

/-! ### Groups -/

/-- Group `g` after group `h` is updated. -/
theorem group_onGroup (t : Team) (g h : Nat) (f : Group → Group) :
    (t.onGroup h f).group g = if g = h ∧ g < t.groups.length then f (t.group g) else t.group g := by
  simp only [Team.onGroup, Team.group, List.getD_eq_getElem?_getD, List.getElem?_set]
  by_cases h1 : h = g
  · subst h1
    by_cases h2 : h < t.groups.length
    · simp [h2]
    · simp [h2]
  · have : ¬ g = h := fun e => h1 e.symm
    simp [h1, this]
/-- The number of groups stays. -/
@[simp] theorem groups_length_onGroup (t : Team) (h : Nat) (f : Group → Group) :
    (t.onGroup h f).groups.length = t.groups.length := by simp [Team.onGroup]

/-! ### Registers (R118) -/

/-- v[r] after a write of v[k]: v0 stays uniform 0. -/
theorem vget_vput (x : Group) (r k : Nat) (v : VReg) :
    (x.vput k v).vget r = if r = k ∧ r ≠ 0 then v else x.vget r := by
  simp only [Group.vget, Group.vput]
  by_cases hk : k = 0
  · by_cases hr : r = 0
    · simp [hk, hr]
    · have : ¬ r = k := by omega
      simp [hk, hr]
  · by_cases hr : r = 0
    · simp [hr]
    · by_cases h : r = k
      · have hk' : ¬ k = 0 := hk
        simp [h, hk']
      · simp [hk, hr, h, cellGet_cellPut]
/-- s[r] after a write of s[k]: s0 stays 0. -/
theorem sget_sput (x : Group) (r k : Nat) (v : DWord) :
    (x.sput k v).sget r = if r = k ∧ r ≠ 0 then v else x.sget r := by
  simp only [Group.sget, Group.sput]
  by_cases hk : k = 0
  · by_cases hr : r = 0
    · simp [hk, hr]
    · have : ¬ r = k := by omega
      simp [hk, hr]
  · by_cases hr : r = 0
    · simp [hr]
    · by_cases h : r = k
      · have hk' : ¬ k = 0 := hk
        simp [h, hk']
      · simp [hk, hr, h, cellGet_cellPut]
/-- The same of an access thread's registers (R195). -/
theorem thread_sget_sput (x : Thread) (r k : Nat) (v : DWord) :
    (x.sput k v).sget r = if r = k ∧ r ≠ 0 then v else x.sget r := by
  simp only [Thread.sget, Thread.sput]
  by_cases hk : k = 0
  · by_cases hr : r = 0
    · simp [hk, hr]
    · have : ¬ r = k := by omega
      simp [hk, hr]
  · by_cases hr : r = 0
    · simp [hr]
    · by_cases h : r = k
      · have hk' : ¬ k = 0 := hk
        simp [h, hk']
      · simp [hk, hr, h, cellGet_cellPut]
/-- v0 reads as uniform 0. -/
@[simp] theorem vget_zero (x : Group) : x.vget 0 = .uniform 0 := rfl
/-- s0 reads as 0. -/
@[simp] theorem sget_zero (x : Group) : x.sget 0 = 0 := rfl
/-- A vector write touches the v registers alone. -/
@[simp] theorem vput_rest (x : Group) (k : Nat) (v : VReg) (l : Cells VReg) : { x.vput k v with v := l } = { x with v := l } := by
  simp only [Group.vput]
  split <;> rfl
/-- A scalar write touches the s registers alone. -/
@[simp] theorem sput_rest (x : Group) (k : Nat) (v : DWord) (l : Cells DWord) : { x.sput k v with s := l } = { x with s := l } := by
  simp only [Group.sput]
  split <;> rfl
/-- A lane of a register made from its lanes. -/
theorem lane_ofLanes (f : Nat → Word) (i : Nat) (h : i < 64) : (VReg.ofLanes f).lane i = f i := by
  simp [VReg.ofLanes, VReg.lane, laneList, h]

end Sys2Proof.Machine
end

