-- ==== Sys2Proof/Laws/Alu.lean ====
section
/-! SUPPORT. What the shared operations of arithmetic and move instructions do: register writes, FSTAT bits, retirement, and the frame
in which an instruction executes. -/

namespace Sys2Proof.Machine
open Sys2Proof

/-! ### Changes of one team -/

/-- `t` is `s` but for the team `id`, which has changed as `R` says. -/
def TeamChange (s t : State) (id : Nat) (R : Team → Team → Prop) : Prop :=
  { t with teams := s.teams, issue := s.issue, last := s.last } = s ∧ (∀ k, k ≠ id → t.teamAt k = s.teamAt k) ∧
    ∀ x, s.teamAt id = some x → ∃ y, t.teamAt id = some y ∧ R x y

theorem TeamChange.refl (s : State) (id : Nat) (R : Team → Team → Prop) (hR : ∀ x, R x x) : TeamChange s s id R :=
  ⟨rfl, fun _ _ => rfl, fun x h => ⟨x, h, hR x⟩⟩
theorem TeamChange.trans {s t u : State} {id : Nat} {R : Team → Team → Prop} (hR : ∀ x y z, R x y → R y z → R x z)
    (h1 : TeamChange s t id R) (h2 : TeamChange t u id R) : TeamChange s u id R := by
  obtain ⟨a1, b1, c1⟩ := h1
  obtain ⟨a2, b2, c2⟩ := h2
  refine ⟨?_, fun k hk => (b2 k hk).trans (b1 k hk), fun x hx => ?_⟩
  · have e : { u with teams := s.teams, issue := s.issue, last := s.last } =
        { ({ u with teams := t.teams, issue := t.issue, last := t.last } : State) with
          teams := s.teams, issue := s.issue, last := s.last } := rfl
    rw [e, a2, a1]
  · obtain ⟨y, hy, r1⟩ := c1 x hx
    obtain ⟨z, hz, r2⟩ := c2 y hy
    exact ⟨z, hz, hR x y z r1 r2⟩
theorem TeamChange.onTeam (s : State) (id : Nat) (f : Team → Team) (R : Team → Team → Prop) (hf : ∀ t, (f t).id = t.id)
    (hR : ∀ x, R x (f x)) : TeamChange s (s.onTeam id f) id R := by
  refine ⟨rfl, fun k hk => by rw [teamAt_onTeam s id k f hf, if_neg hk], fun x hx => ⟨f x, ?_, hR x⟩⟩
  rw [teamAt_onTeam s id id f hf, if_pos rfl, hx]
  rfl
theorem TeamChange.latch (s : State) (id : Nat) (i : Option Issue) (l : Last) (R : Team → Team → Prop) (hR : ∀ x, R x x) :
    TeamChange s { s with issue := i, last := l } id R :=
  ⟨rfl, fun _ _ => rfl, fun x h => ⟨x, h, hR x⟩⟩
theorem TeamChange.foldl {α : Type} {id : Nat} {R : Team → Team → Prop} (hR0 : ∀ x, R x x) (hR : ∀ x y z, R x y → R y z → R x z)
    (f : State → α → State) : ∀ (l : List α) (s : State), (∀ s, ∀ a ∈ l, TeamChange s (f s a) id R) → TeamChange s (l.foldl f s) id R
  | [], s, _ => TeamChange.refl s id R hR0
  | a :: l, s, h => by
    have h1 := h s a (by simp)
    have h2 := TeamChange.foldl hR0 hR f l (f s a) fun s b hb => h s b (by simp [hb])
    exact TeamChange.trans hR h1 h2

/-! ### The relation of register writes -/

/-- What an arithmetic instruction may do to its team: write the v registers of `vs` and the s registers of `ss`, of an access thread
those of `ts`, and raise FSTAT bits. -/
def RegChange (vs ss : Nat → Nat → Prop) (ts : Nat → Nat → Prop) (x y : Team) : Prop :=
  { y with groups := x.groups, frags := x.frags, threads := x.threads } = x ∧ y.groups.length = x.groups.length ∧
  (∀ g, { y.group g with s := (x.group g).s, v := (x.group g).v, fstat := (x.group g).fstat } = x.group g) ∧
  y.frags.map Fragment.core = x.frags.map Fragment.core ∧ (∀ g, (y.threadAt g).map Thread.core = (x.threadAt g).map Thread.core) ∧
  (∀ g r, ¬ vs g r → (y.group g).vget r = (x.group g).vget r) ∧
  (∀ g r, ¬ ss g r → (y.group g).sget r = (x.group g).sget r) ∧
  (∀ g, (x.group g).fstat ||| (y.group g).fstat = (y.group g).fstat) ∧
  (∀ g r z, ¬ ts g r → x.threadAt g = some z → ∃ z', y.threadAt g = some z' ∧ z'.sget r = z.sget r)

theorem RegChange.refl (vs ss ts) (x : Team) : RegChange vs ss ts x x :=
  ⟨rfl, rfl, fun _ => rfl, rfl, fun _ => rfl, fun _ _ _ => rfl, fun _ _ _ => rfl, fun _ => by simp, fun _ _ z _ h => ⟨z, h, rfl⟩⟩
theorem or_absorb_trans (a b c : FBits) (h1 : a ||| b = b) (h2 : b ||| c = c) : a ||| c = c := by
  rw [← h2, ← BitVec.or_assoc, h1]
theorem RegChange.trans (vs ss ts) (x y z : Team) (h1 : RegChange vs ss ts x y) (h2 : RegChange vs ss ts y z) :
    RegChange vs ss ts x z := by
  obtain ⟨a1, b1, c1, d1, e1, f1, g1, i1, j1⟩ := h1
  obtain ⟨a2, b2, c2, d2, e2, f2, g2, i2, j2⟩ := h2
  refine ⟨?_, b2.trans b1, fun g => ?_, d2.trans d1, fun g => (e2 g).trans (e1 g), fun g r h => (f2 g r h).trans (f1 g r h),
    fun g r h => (g2 g r h).trans (g1 g r h), fun g => or_absorb_trans _ _ _ (i1 g) (i2 g), fun g r u h hu => ?_⟩
  · have e : { z with groups := x.groups, frags := x.frags, threads := x.threads } =
        { ({ z with groups := y.groups, frags := y.frags, threads := y.threads } : Team) with
          groups := x.groups, frags := x.frags, threads := x.threads } := rfl
    rw [e, a2, a1]
  · have e : { z.group g with s := (x.group g).s, v := (x.group g).v, fstat := (x.group g).fstat } =
        { ({ z.group g with s := (y.group g).s, v := (y.group g).v, fstat := (y.group g).fstat } : Group) with
          s := (x.group g).s, v := (x.group g).v, fstat := (x.group g).fstat } := rfl
    rw [e, c2, c1]
  · obtain ⟨u', hu', s1⟩ := j1 g r u h hu
    obtain ⟨u'', hu'', s2⟩ := j2 g r u' h hu'
    exact ⟨u'', hu'', s2.trans s1⟩
theorem Team.group_mapCore (t : Team) (g : Nat) (gs : List Group) (h : gs = t.groups) : ({ t with groups := gs } : Team).group g = t.group g := by
  subst h; rfl

/-- An update of a group that writes registers and raises FSTAT bits. -/
theorem RegChange.onGroup (vs ss ts) (x : Team) (g : Nat) (f : Group → Group)
    (h0 : ∀ a, { f a with s := a.s, v := a.v, fstat := a.fstat } = a)
    (h1 : ∀ a r, ¬ vs g r → (f a).vget r = a.vget r) (h2 : ∀ a r, ¬ ss g r → (f a).sget r = a.sget r)
    (h3 : ∀ a, a.fstat ||| (f a).fstat = (f a).fstat) : RegChange vs ss ts x (x.onGroup g f) := by
  refine ⟨rfl, groups_length_onGroup x g f, fun k => ?_, rfl, fun _ => rfl, fun k r h => ?_, fun k r h => ?_, fun k => ?_,
    fun _ _ z _ h => ⟨z, h, rfl⟩⟩
  · rw [group_onGroup]
    by_cases e : k = g ∧ k < x.groups.length
    · rw [if_pos e]; exact h0 _
    · rw [if_neg e]
  · rw [group_onGroup]
    by_cases e : k = g ∧ k < x.groups.length
    · rw [if_pos e]; exact h1 _ r (e.1 ▸ h)
    · rw [if_neg e]
  · rw [group_onGroup]
    by_cases e : k = g ∧ k < x.groups.length
    · rw [if_pos e]; exact h2 _ r (e.1 ▸ h)
    · rw [if_neg e]
  · rw [group_onGroup]
    by_cases e : k = g ∧ k < x.groups.length
    · rw [if_pos e]; exact h3 _
    · rw [if_neg e]; simp
/-- An update of fragments that keeps their cores. -/
theorem RegChange.onFrags (vs ss ts) (x : Team) (f : Fragment → Fragment) (h : ∀ a, (f a).core = a.core) :
    RegChange vs ss ts x { x with frags := x.frags.map f } := by
  refine ⟨rfl, rfl, fun _ => rfl, ?_, fun _ => rfl, fun _ _ _ => rfl, fun _ _ _ => rfl, fun _ => by simp [Team.group],
    fun _ _ z _ h => ⟨z, h, rfl⟩⟩
  simp only [List.map_map]
  exact List.map_congr_left fun a _ => h a
/-- An access thread after one is replaced. -/
theorem threadAt_putThread (x : Team) (z : Thread) (g : Nat) :
    (x.putThread z).threadAt g = if g = z.group then (x.threadAt g).map fun _ => z else x.threadAt g := by
  simp only [Team.putThread, Team.threadAt]
  induction x.threads with
  | nil => by_cases h : g = z.group <;> simp [h]
  | cons y l ih =>
    rw [List.map_cons, List.find?_cons, List.find?_cons]
    by_cases hy : y.group = z.group
    · by_cases hg : g = z.group
      · simp [hy, hg]
      · have h1 : (z.group == g) = false := by simpa using fun e => hg e.symm
        simp only [hy, beq_self_eq_true, if_true, h1, hg, if_false] at ih ⊢
        exact ih
    · have h1 : (y.group == z.group) = false := by simpa using hy
      simp only [h1]
      by_cases hg : y.group = g
      · have h2 : ¬ g = z.group := fun e => hy (hg.trans e)
        simp [hg, h2]
      · have h2 : (y.group == g) = false := by simpa using hg
        simpa [h2] using ih
/-- A replacement of an access thread that keeps its core and its registers but those of `ts`. -/
theorem RegChange.putThread (vs ss ts) (x : Team) (y z : Thread) (hy : x.threadAt z.group = some y) (hc : z.core = y.core)
    (h : ∀ r, ¬ ts z.group r → z.sget r = y.sget r) : RegChange vs ss ts x (x.putThread z) := by
  refine ⟨rfl, rfl, fun _ => rfl, rfl, fun g => ?_, fun _ _ _ => rfl, fun _ _ _ => rfl, fun _ => by simp [Team.group, Team.putThread],
    fun g r u hr h' => ?_⟩
  · rw [threadAt_putThread]
    by_cases e : g = z.group
    · subst e; simp [hy, hc]
    · simp [e]
  · rw [threadAt_putThread]
    by_cases e : g = z.group
    · subst e
      rw [if_pos rfl, h']
      refine ⟨z, rfl, ?_⟩
      rw [hy] at h'
      cases h'
      exact h r hr
    · rw [if_neg e]; exact ⟨u, h', rfl⟩

/-! ### The shared operations -/

/-- Raising FSTAT bits. -/
theorem raiseF_change (vs ss ts) (s : State) (w : Who) (g : Nat) (b : FBits) (hw : w.thr = none) :
    TeamChange s (s.raiseF w g b) w.team.id (RegChange vs ss ts) := by
  unfold State.raiseF
  split
  · exact TeamChange.refl _ _ _ (RegChange.refl vs ss ts)
  · split
    · unfold State.onFrag
      rw [hw]
      refine TeamChange.onTeam _ _ _ _ (fun _ => rfl) fun x => RegChange.onFrags vs ss ts x _ fun a => ?_
      split <;> rfl
    · refine TeamChange.onTeam _ _ _ _ (fun _ => rfl) fun x => RegChange.onGroup vs ss ts x g _ (fun _ => rfl) (fun _ _ _ => rfl)
        (fun _ _ _ => rfl) fun a => ?_
      simp [← BitVec.or_assoc]
/-- Writing a list of v registers. -/
theorem putV_change (vs ss ts) (w : Who) : ∀ (l : List VWrite) (s : State), (∀ x ∈ l, vs x.g x.r) →
    TeamChange s (s.putV w l) w.team.id (RegChange vs ss ts) := by
  intro l s h
  refine TeamChange.foldl (RegChange.refl vs ss ts) (RegChange.trans vs ss ts) _ l s fun s x hx => ?_
  refine TeamChange.onTeam _ _ _ _ (fun _ => rfl) fun y => RegChange.onGroup vs ss ts y x.g _ (fun a => ?_) (fun a r hr => ?_)
    (fun a r _ => ?_) fun a => ?_
  · unfold Group.vput; split <;> rfl
  · rw [vget_vput, if_neg]
    intro e
    exact hr (e.1 ▸ h x hx)
  · unfold Group.vput; split <;> rfl
  · unfold Group.vput; split <;> simp
/-- Retirement of a fragment's instruction. -/
theorem retire_change (vs ss ts) (s : State) (w : Who) (fall : Bool) (hw : w.thr = none) :
    TeamChange s (s.retire w fall) w.team.id (RegChange vs ss ts) := by
  unfold State.retire
  rw [hw]
  refine TeamChange.trans (RegChange.trans vs ss ts) (TeamChange.latch s _ none .retired _ (RegChange.refl vs ss ts)) ?_
  refine TeamChange.onTeam _ _ _ _ (fun _ => rfl) fun x => RegChange.onFrags vs ss ts x _ fun a => ?_
  dsimp only
  split
  · split <;> rfl
  · rfl
/-- What `execOn` answers where the instruction is legal, its stream may issue it, and its body is done. -/
theorem execOn_ok (stream : Stream) (limits : Who → Bool) (body : Who → State → Result) (s s' : State) (w : Who)
    (hw : s.who = some w) (hl : limits w = true) (ha : stream.allows w = true) (hb : body w s = .ok s') :
    execOn stream false limits body s = .next (s'.retire w true) := by
  simp [execOn, hw, hl, ha, hb]
/-- What register writes answer where no general value meets a register at or above genmax (R123). -/
theorem writeV_ok (s : State) (w : Who) (l : List VWrite) (fl : List (Nat × FBits)) (h : ∀ x ∈ l, w.shapeBad x = false) :
    s.writeV w l fl = .ok (fl.foldl (fun s f => s.raiseF w f.1 f.2) (s.putV w l)) := by
  have : l.find? (fun x => w.shapeBad x) = none := by simpa [List.find?_eq_none] using h
  simp [State.writeV, this]

end Sys2Proof.Machine
end

