-- ==== Sys2Proof/Laws/State.lean ====
section
/-! SUPPORT. What the updates of State change: one lemma for each field that an update leaves alone. -/

namespace Sys2Proof.Machine
open Sys2Proof

/-! ### putTeam -/

@[simp] theorem putTeam_agenda (s : State) (x : Team) : (s.putTeam x).agenda = s.agenda := rfl
@[simp] theorem putTeam_issue (s : State) (x : Team) : (s.putTeam x).issue = s.issue := rfl
@[simp] theorem putTeam_last (s : State) (x : Team) : (s.putTeam x).last = s.last := rfl
@[simp] theorem putTeam_forced (s : State) (x : Team) : (s.putTeam x).forced = s.forced := rfl
@[simp] theorem putTeam_nextOp (s : State) (x : Team) : (s.putTeam x).nextOp = s.nextOp := rfl
@[simp] theorem putTeam_nextTeam (s : State) (x : Team) : (s.putTeam x).nextTeam = s.nextTeam := rfl
@[simp] theorem putTeam_nextScrub (s : State) (x : Team) : (s.putTeam x).nextScrub = s.nextScrub := rfl
@[simp] theorem putTeam_nextGrow (s : State) (x : Team) : (s.putTeam x).nextGrow = s.nextGrow := rfl
@[simp] theorem putTeam_stepNo (s : State) (x : Team) : (s.putTeam x).stepNo = s.stepNo := rfl
@[simp] theorem putTeam_turn (s : State) (x : Team) : (s.putTeam x).turn = s.turn := rfl
@[simp] theorem putTeam_cc (s : State) (x : Team) : (s.putTeam x).cc = s.cc := rfl
@[simp] theorem putTeam_ns (s : State) (x : Team) : (s.putTeam x).ns = s.ns := rfl
@[simp] theorem putTeam_mem (s : State) (x : Team) : (s.putTeam x).mem = s.mem := rfl
@[simp] theorem putTeam_ops (s : State) (x : Team) : (s.putTeam x).ops = s.ops := rfl
@[simp] theorem putTeam_launches (s : State) (x : Team) : (s.putTeam x).launches = s.launches := rfl
@[simp] theorem putTeam_scrubs (s : State) (x : Team) : (s.putTeam x).scrubs = s.scrubs := rfl
@[simp] theorem putTeam_update (s : State) (x : Team) : (s.putTeam x).update = s.update := rfl
@[simp] theorem putTeam_pts (s : State) (x : Team) : (s.putTeam x).pts = s.pts := rfl
@[simp] theorem putTeam_copies (s : State) (x : Team) : (s.putTeam x).copies = s.copies := rfl
@[simp] theorem putTeam_ports (s : State) (x : Team) : (s.putTeam x).ports = s.ports := rfl
@[simp] theorem putTeam_arbiters (s : State) (x : Team) : (s.putTeam x).arbiters = s.arbiters := rfl
@[simp] theorem putTeam_nodes (s : State) (x : Team) : (s.putTeam x).nodes = s.nodes := rfl
@[simp] theorem putTeam_loop (s : State) (x : Team) : (s.putTeam x).loop = s.loop := rfl
@[simp] theorem putTeam_claims (s : State) (x : Team) : (s.putTeam x).claims = s.claims := rfl
@[simp] theorem putTeam_tiers (s : State) (x : Team) : (s.putTeam x).tiers = s.tiers := rfl
@[simp] theorem putTeam_energy (s : State) (x : Team) : (s.putTeam x).energy = s.energy := rfl
@[simp] theorem putTeam_host (s : State) (x : Team) : (s.putTeam x).host = s.host := rfl

/-! ### onTeam -/

@[simp] theorem onTeam_agenda (s : State) (id : Nat) (f : Team → Team) : (s.onTeam id f).agenda = s.agenda := rfl
@[simp] theorem onTeam_issue (s : State) (id : Nat) (f : Team → Team) : (s.onTeam id f).issue = s.issue := rfl
@[simp] theorem onTeam_last (s : State) (id : Nat) (f : Team → Team) : (s.onTeam id f).last = s.last := rfl
@[simp] theorem onTeam_forced (s : State) (id : Nat) (f : Team → Team) : (s.onTeam id f).forced = s.forced := rfl
@[simp] theorem onTeam_nextOp (s : State) (id : Nat) (f : Team → Team) : (s.onTeam id f).nextOp = s.nextOp := rfl
@[simp] theorem onTeam_nextTeam (s : State) (id : Nat) (f : Team → Team) : (s.onTeam id f).nextTeam = s.nextTeam := rfl
@[simp] theorem onTeam_nextScrub (s : State) (id : Nat) (f : Team → Team) : (s.onTeam id f).nextScrub = s.nextScrub := rfl
@[simp] theorem onTeam_nextGrow (s : State) (id : Nat) (f : Team → Team) : (s.onTeam id f).nextGrow = s.nextGrow := rfl
@[simp] theorem onTeam_stepNo (s : State) (id : Nat) (f : Team → Team) : (s.onTeam id f).stepNo = s.stepNo := rfl
@[simp] theorem onTeam_turn (s : State) (id : Nat) (f : Team → Team) : (s.onTeam id f).turn = s.turn := rfl
@[simp] theorem onTeam_cc (s : State) (id : Nat) (f : Team → Team) : (s.onTeam id f).cc = s.cc := rfl
@[simp] theorem onTeam_ns (s : State) (id : Nat) (f : Team → Team) : (s.onTeam id f).ns = s.ns := rfl
@[simp] theorem onTeam_mem (s : State) (id : Nat) (f : Team → Team) : (s.onTeam id f).mem = s.mem := rfl
@[simp] theorem onTeam_ops (s : State) (id : Nat) (f : Team → Team) : (s.onTeam id f).ops = s.ops := rfl
@[simp] theorem onTeam_launches (s : State) (id : Nat) (f : Team → Team) : (s.onTeam id f).launches = s.launches := rfl
@[simp] theorem onTeam_scrubs (s : State) (id : Nat) (f : Team → Team) : (s.onTeam id f).scrubs = s.scrubs := rfl
@[simp] theorem onTeam_update (s : State) (id : Nat) (f : Team → Team) : (s.onTeam id f).update = s.update := rfl
@[simp] theorem onTeam_pts (s : State) (id : Nat) (f : Team → Team) : (s.onTeam id f).pts = s.pts := rfl
@[simp] theorem onTeam_copies (s : State) (id : Nat) (f : Team → Team) : (s.onTeam id f).copies = s.copies := rfl
@[simp] theorem onTeam_ports (s : State) (id : Nat) (f : Team → Team) : (s.onTeam id f).ports = s.ports := rfl
@[simp] theorem onTeam_arbiters (s : State) (id : Nat) (f : Team → Team) : (s.onTeam id f).arbiters = s.arbiters := rfl
@[simp] theorem onTeam_nodes (s : State) (id : Nat) (f : Team → Team) : (s.onTeam id f).nodes = s.nodes := rfl
@[simp] theorem onTeam_loop (s : State) (id : Nat) (f : Team → Team) : (s.onTeam id f).loop = s.loop := rfl
@[simp] theorem onTeam_claims (s : State) (id : Nat) (f : Team → Team) : (s.onTeam id f).claims = s.claims := rfl
@[simp] theorem onTeam_tiers (s : State) (id : Nat) (f : Team → Team) : (s.onTeam id f).tiers = s.tiers := rfl
@[simp] theorem onTeam_energy (s : State) (id : Nat) (f : Team → Team) : (s.onTeam id f).energy = s.energy := rfl
@[simp] theorem onTeam_host (s : State) (id : Nat) (f : Team → Team) : (s.onTeam id f).host = s.host := rfl

/-! ### onGroup -/

@[simp] theorem onGroup_agenda (s : State) (id g : Nat) (f : Group → Group) : (s.onGroup id g f).agenda = s.agenda := rfl
@[simp] theorem onGroup_issue (s : State) (id g : Nat) (f : Group → Group) : (s.onGroup id g f).issue = s.issue := rfl
@[simp] theorem onGroup_last (s : State) (id g : Nat) (f : Group → Group) : (s.onGroup id g f).last = s.last := rfl
@[simp] theorem onGroup_forced (s : State) (id g : Nat) (f : Group → Group) : (s.onGroup id g f).forced = s.forced := rfl
@[simp] theorem onGroup_nextOp (s : State) (id g : Nat) (f : Group → Group) : (s.onGroup id g f).nextOp = s.nextOp := rfl
@[simp] theorem onGroup_nextTeam (s : State) (id g : Nat) (f : Group → Group) : (s.onGroup id g f).nextTeam = s.nextTeam := rfl
@[simp] theorem onGroup_nextScrub (s : State) (id g : Nat) (f : Group → Group) : (s.onGroup id g f).nextScrub = s.nextScrub := rfl
@[simp] theorem onGroup_nextGrow (s : State) (id g : Nat) (f : Group → Group) : (s.onGroup id g f).nextGrow = s.nextGrow := rfl
@[simp] theorem onGroup_stepNo (s : State) (id g : Nat) (f : Group → Group) : (s.onGroup id g f).stepNo = s.stepNo := rfl
@[simp] theorem onGroup_turn (s : State) (id g : Nat) (f : Group → Group) : (s.onGroup id g f).turn = s.turn := rfl
@[simp] theorem onGroup_cc (s : State) (id g : Nat) (f : Group → Group) : (s.onGroup id g f).cc = s.cc := rfl
@[simp] theorem onGroup_ns (s : State) (id g : Nat) (f : Group → Group) : (s.onGroup id g f).ns = s.ns := rfl
@[simp] theorem onGroup_mem (s : State) (id g : Nat) (f : Group → Group) : (s.onGroup id g f).mem = s.mem := rfl
@[simp] theorem onGroup_ops (s : State) (id g : Nat) (f : Group → Group) : (s.onGroup id g f).ops = s.ops := rfl
@[simp] theorem onGroup_launches (s : State) (id g : Nat) (f : Group → Group) : (s.onGroup id g f).launches = s.launches := rfl
@[simp] theorem onGroup_scrubs (s : State) (id g : Nat) (f : Group → Group) : (s.onGroup id g f).scrubs = s.scrubs := rfl
@[simp] theorem onGroup_update (s : State) (id g : Nat) (f : Group → Group) : (s.onGroup id g f).update = s.update := rfl
@[simp] theorem onGroup_pts (s : State) (id g : Nat) (f : Group → Group) : (s.onGroup id g f).pts = s.pts := rfl
@[simp] theorem onGroup_copies (s : State) (id g : Nat) (f : Group → Group) : (s.onGroup id g f).copies = s.copies := rfl
@[simp] theorem onGroup_ports (s : State) (id g : Nat) (f : Group → Group) : (s.onGroup id g f).ports = s.ports := rfl
@[simp] theorem onGroup_arbiters (s : State) (id g : Nat) (f : Group → Group) : (s.onGroup id g f).arbiters = s.arbiters := rfl
@[simp] theorem onGroup_nodes (s : State) (id g : Nat) (f : Group → Group) : (s.onGroup id g f).nodes = s.nodes := rfl
@[simp] theorem onGroup_loop (s : State) (id g : Nat) (f : Group → Group) : (s.onGroup id g f).loop = s.loop := rfl
@[simp] theorem onGroup_claims (s : State) (id g : Nat) (f : Group → Group) : (s.onGroup id g f).claims = s.claims := rfl
@[simp] theorem onGroup_tiers (s : State) (id g : Nat) (f : Group → Group) : (s.onGroup id g f).tiers = s.tiers := rfl
@[simp] theorem onGroup_energy (s : State) (id g : Nat) (f : Group → Group) : (s.onGroup id g f).energy = s.energy := rfl
@[simp] theorem onGroup_host (s : State) (id g : Nat) (f : Group → Group) : (s.onGroup id g f).host = s.host := rfl

/-! ### putOp -/

@[simp] theorem putOp_agenda (s : State) (o : Op) : (s.putOp o).agenda = s.agenda := rfl
@[simp] theorem putOp_issue (s : State) (o : Op) : (s.putOp o).issue = s.issue := rfl
@[simp] theorem putOp_last (s : State) (o : Op) : (s.putOp o).last = s.last := rfl
@[simp] theorem putOp_forced (s : State) (o : Op) : (s.putOp o).forced = s.forced := rfl
@[simp] theorem putOp_nextOp (s : State) (o : Op) : (s.putOp o).nextOp = s.nextOp := rfl
@[simp] theorem putOp_nextTeam (s : State) (o : Op) : (s.putOp o).nextTeam = s.nextTeam := rfl
@[simp] theorem putOp_nextScrub (s : State) (o : Op) : (s.putOp o).nextScrub = s.nextScrub := rfl
@[simp] theorem putOp_nextGrow (s : State) (o : Op) : (s.putOp o).nextGrow = s.nextGrow := rfl
@[simp] theorem putOp_stepNo (s : State) (o : Op) : (s.putOp o).stepNo = s.stepNo := rfl
@[simp] theorem putOp_turn (s : State) (o : Op) : (s.putOp o).turn = s.turn := rfl
@[simp] theorem putOp_cc (s : State) (o : Op) : (s.putOp o).cc = s.cc := rfl
@[simp] theorem putOp_ns (s : State) (o : Op) : (s.putOp o).ns = s.ns := rfl
@[simp] theorem putOp_mem (s : State) (o : Op) : (s.putOp o).mem = s.mem := rfl
@[simp] theorem putOp_teams (s : State) (o : Op) : (s.putOp o).teams = s.teams := rfl
@[simp] theorem putOp_launches (s : State) (o : Op) : (s.putOp o).launches = s.launches := rfl
@[simp] theorem putOp_scrubs (s : State) (o : Op) : (s.putOp o).scrubs = s.scrubs := rfl
@[simp] theorem putOp_update (s : State) (o : Op) : (s.putOp o).update = s.update := rfl
@[simp] theorem putOp_pts (s : State) (o : Op) : (s.putOp o).pts = s.pts := rfl
@[simp] theorem putOp_copies (s : State) (o : Op) : (s.putOp o).copies = s.copies := rfl
@[simp] theorem putOp_ports (s : State) (o : Op) : (s.putOp o).ports = s.ports := rfl
@[simp] theorem putOp_arbiters (s : State) (o : Op) : (s.putOp o).arbiters = s.arbiters := rfl
@[simp] theorem putOp_nodes (s : State) (o : Op) : (s.putOp o).nodes = s.nodes := rfl
@[simp] theorem putOp_loop (s : State) (o : Op) : (s.putOp o).loop = s.loop := rfl
@[simp] theorem putOp_claims (s : State) (o : Op) : (s.putOp o).claims = s.claims := rfl
@[simp] theorem putOp_tiers (s : State) (o : Op) : (s.putOp o).tiers = s.tiers := rfl
@[simp] theorem putOp_energy (s : State) (o : Op) : (s.putOp o).energy = s.energy := rfl
@[simp] theorem putOp_host (s : State) (o : Op) : (s.putOp o).host = s.host := rfl

/-! ### endOp -/

@[simp] theorem endOp_agenda (s : State) (id : Nat) : (s.endOp id).agenda = s.agenda := rfl
@[simp] theorem endOp_issue (s : State) (id : Nat) : (s.endOp id).issue = s.issue := rfl
@[simp] theorem endOp_last (s : State) (id : Nat) : (s.endOp id).last = s.last := rfl
@[simp] theorem endOp_forced (s : State) (id : Nat) : (s.endOp id).forced = s.forced := rfl
@[simp] theorem endOp_nextOp (s : State) (id : Nat) : (s.endOp id).nextOp = s.nextOp := rfl
@[simp] theorem endOp_nextTeam (s : State) (id : Nat) : (s.endOp id).nextTeam = s.nextTeam := rfl
@[simp] theorem endOp_nextScrub (s : State) (id : Nat) : (s.endOp id).nextScrub = s.nextScrub := rfl
@[simp] theorem endOp_nextGrow (s : State) (id : Nat) : (s.endOp id).nextGrow = s.nextGrow := rfl
@[simp] theorem endOp_stepNo (s : State) (id : Nat) : (s.endOp id).stepNo = s.stepNo := rfl
@[simp] theorem endOp_turn (s : State) (id : Nat) : (s.endOp id).turn = s.turn := rfl
@[simp] theorem endOp_cc (s : State) (id : Nat) : (s.endOp id).cc = s.cc := rfl
@[simp] theorem endOp_ns (s : State) (id : Nat) : (s.endOp id).ns = s.ns := rfl
@[simp] theorem endOp_mem (s : State) (id : Nat) : (s.endOp id).mem = s.mem := rfl
@[simp] theorem endOp_teams (s : State) (id : Nat) : (s.endOp id).teams = s.teams := rfl
@[simp] theorem endOp_launches (s : State) (id : Nat) : (s.endOp id).launches = s.launches := rfl
@[simp] theorem endOp_scrubs (s : State) (id : Nat) : (s.endOp id).scrubs = s.scrubs := rfl
@[simp] theorem endOp_update (s : State) (id : Nat) : (s.endOp id).update = s.update := rfl
@[simp] theorem endOp_pts (s : State) (id : Nat) : (s.endOp id).pts = s.pts := rfl
@[simp] theorem endOp_copies (s : State) (id : Nat) : (s.endOp id).copies = s.copies := rfl
@[simp] theorem endOp_ports (s : State) (id : Nat) : (s.endOp id).ports = s.ports := rfl
@[simp] theorem endOp_arbiters (s : State) (id : Nat) : (s.endOp id).arbiters = s.arbiters := rfl
@[simp] theorem endOp_nodes (s : State) (id : Nat) : (s.endOp id).nodes = s.nodes := rfl
@[simp] theorem endOp_loop (s : State) (id : Nat) : (s.endOp id).loop = s.loop := rfl
@[simp] theorem endOp_claims (s : State) (id : Nat) : (s.endOp id).claims = s.claims := rfl
@[simp] theorem endOp_tiers (s : State) (id : Nat) : (s.endOp id).tiers = s.tiers := rfl
@[simp] theorem endOp_energy (s : State) (id : Nat) : (s.endOp id).energy = s.energy := rfl
@[simp] theorem endOp_host (s : State) (id : Nat) : (s.endOp id).host = s.host := rfl

/-! ### addOp -/

@[simp] theorem addOp_agenda (s : State) (o : Op) : (s.addOp o).agenda = s.agenda := rfl
@[simp] theorem addOp_issue (s : State) (o : Op) : (s.addOp o).issue = s.issue := rfl
@[simp] theorem addOp_last (s : State) (o : Op) : (s.addOp o).last = s.last := rfl
@[simp] theorem addOp_forced (s : State) (o : Op) : (s.addOp o).forced = s.forced := rfl
@[simp] theorem addOp_nextTeam (s : State) (o : Op) : (s.addOp o).nextTeam = s.nextTeam := rfl
@[simp] theorem addOp_nextScrub (s : State) (o : Op) : (s.addOp o).nextScrub = s.nextScrub := rfl
@[simp] theorem addOp_nextGrow (s : State) (o : Op) : (s.addOp o).nextGrow = s.nextGrow := rfl
@[simp] theorem addOp_stepNo (s : State) (o : Op) : (s.addOp o).stepNo = s.stepNo := rfl
@[simp] theorem addOp_turn (s : State) (o : Op) : (s.addOp o).turn = s.turn := rfl
@[simp] theorem addOp_cc (s : State) (o : Op) : (s.addOp o).cc = s.cc := rfl
@[simp] theorem addOp_ns (s : State) (o : Op) : (s.addOp o).ns = s.ns := rfl
@[simp] theorem addOp_mem (s : State) (o : Op) : (s.addOp o).mem = s.mem := rfl
@[simp] theorem addOp_teams (s : State) (o : Op) : (s.addOp o).teams = s.teams := rfl
@[simp] theorem addOp_launches (s : State) (o : Op) : (s.addOp o).launches = s.launches := rfl
@[simp] theorem addOp_scrubs (s : State) (o : Op) : (s.addOp o).scrubs = s.scrubs := rfl
@[simp] theorem addOp_update (s : State) (o : Op) : (s.addOp o).update = s.update := rfl
@[simp] theorem addOp_pts (s : State) (o : Op) : (s.addOp o).pts = s.pts := rfl
@[simp] theorem addOp_copies (s : State) (o : Op) : (s.addOp o).copies = s.copies := rfl
@[simp] theorem addOp_ports (s : State) (o : Op) : (s.addOp o).ports = s.ports := rfl
@[simp] theorem addOp_arbiters (s : State) (o : Op) : (s.addOp o).arbiters = s.arbiters := rfl
@[simp] theorem addOp_nodes (s : State) (o : Op) : (s.addOp o).nodes = s.nodes := rfl
@[simp] theorem addOp_loop (s : State) (o : Op) : (s.addOp o).loop = s.loop := rfl
@[simp] theorem addOp_claims (s : State) (o : Op) : (s.addOp o).claims = s.claims := rfl
@[simp] theorem addOp_tiers (s : State) (o : Op) : (s.addOp o).tiers = s.tiers := rfl
@[simp] theorem addOp_energy (s : State) (o : Op) : (s.addOp o).energy = s.energy := rfl
@[simp] theorem addOp_host (s : State) (o : Op) : (s.addOp o).host = s.host := rfl

/-! ### putLaunch -/

@[simp] theorem putLaunch_agenda (s : State) (l : Launch) : (s.putLaunch l).agenda = s.agenda := rfl
@[simp] theorem putLaunch_issue (s : State) (l : Launch) : (s.putLaunch l).issue = s.issue := rfl
@[simp] theorem putLaunch_last (s : State) (l : Launch) : (s.putLaunch l).last = s.last := rfl
@[simp] theorem putLaunch_forced (s : State) (l : Launch) : (s.putLaunch l).forced = s.forced := rfl
@[simp] theorem putLaunch_nextOp (s : State) (l : Launch) : (s.putLaunch l).nextOp = s.nextOp := rfl
@[simp] theorem putLaunch_nextTeam (s : State) (l : Launch) : (s.putLaunch l).nextTeam = s.nextTeam := rfl
@[simp] theorem putLaunch_nextScrub (s : State) (l : Launch) : (s.putLaunch l).nextScrub = s.nextScrub := rfl
@[simp] theorem putLaunch_nextGrow (s : State) (l : Launch) : (s.putLaunch l).nextGrow = s.nextGrow := rfl
@[simp] theorem putLaunch_stepNo (s : State) (l : Launch) : (s.putLaunch l).stepNo = s.stepNo := rfl
@[simp] theorem putLaunch_turn (s : State) (l : Launch) : (s.putLaunch l).turn = s.turn := rfl
@[simp] theorem putLaunch_cc (s : State) (l : Launch) : (s.putLaunch l).cc = s.cc := rfl
@[simp] theorem putLaunch_ns (s : State) (l : Launch) : (s.putLaunch l).ns = s.ns := rfl
@[simp] theorem putLaunch_mem (s : State) (l : Launch) : (s.putLaunch l).mem = s.mem := rfl
@[simp] theorem putLaunch_teams (s : State) (l : Launch) : (s.putLaunch l).teams = s.teams := rfl
@[simp] theorem putLaunch_ops (s : State) (l : Launch) : (s.putLaunch l).ops = s.ops := rfl
@[simp] theorem putLaunch_scrubs (s : State) (l : Launch) : (s.putLaunch l).scrubs = s.scrubs := rfl
@[simp] theorem putLaunch_update (s : State) (l : Launch) : (s.putLaunch l).update = s.update := rfl
@[simp] theorem putLaunch_pts (s : State) (l : Launch) : (s.putLaunch l).pts = s.pts := rfl
@[simp] theorem putLaunch_copies (s : State) (l : Launch) : (s.putLaunch l).copies = s.copies := rfl
@[simp] theorem putLaunch_ports (s : State) (l : Launch) : (s.putLaunch l).ports = s.ports := rfl
@[simp] theorem putLaunch_arbiters (s : State) (l : Launch) : (s.putLaunch l).arbiters = s.arbiters := rfl
@[simp] theorem putLaunch_nodes (s : State) (l : Launch) : (s.putLaunch l).nodes = s.nodes := rfl
@[simp] theorem putLaunch_loop (s : State) (l : Launch) : (s.putLaunch l).loop = s.loop := rfl
@[simp] theorem putLaunch_claims (s : State) (l : Launch) : (s.putLaunch l).claims = s.claims := rfl
@[simp] theorem putLaunch_tiers (s : State) (l : Launch) : (s.putLaunch l).tiers = s.tiers := rfl
@[simp] theorem putLaunch_energy (s : State) (l : Launch) : (s.putLaunch l).energy = s.energy := rfl
@[simp] theorem putLaunch_host (s : State) (l : Launch) : (s.putLaunch l).host = s.host := rfl

/-! ### raisePts -/

@[simp] theorem raisePts_agenda (s : State) (v : BitVec 16) : (s.raisePts v).agenda = s.agenda := rfl
@[simp] theorem raisePts_issue (s : State) (v : BitVec 16) : (s.raisePts v).issue = s.issue := rfl
@[simp] theorem raisePts_last (s : State) (v : BitVec 16) : (s.raisePts v).last = s.last := rfl
@[simp] theorem raisePts_forced (s : State) (v : BitVec 16) : (s.raisePts v).forced = s.forced := rfl
@[simp] theorem raisePts_nextOp (s : State) (v : BitVec 16) : (s.raisePts v).nextOp = s.nextOp := rfl
@[simp] theorem raisePts_nextTeam (s : State) (v : BitVec 16) : (s.raisePts v).nextTeam = s.nextTeam := rfl
@[simp] theorem raisePts_nextScrub (s : State) (v : BitVec 16) : (s.raisePts v).nextScrub = s.nextScrub := rfl
@[simp] theorem raisePts_nextGrow (s : State) (v : BitVec 16) : (s.raisePts v).nextGrow = s.nextGrow := rfl
@[simp] theorem raisePts_stepNo (s : State) (v : BitVec 16) : (s.raisePts v).stepNo = s.stepNo := rfl
@[simp] theorem raisePts_turn (s : State) (v : BitVec 16) : (s.raisePts v).turn = s.turn := rfl
@[simp] theorem raisePts_cc (s : State) (v : BitVec 16) : (s.raisePts v).cc = s.cc := rfl
@[simp] theorem raisePts_ns (s : State) (v : BitVec 16) : (s.raisePts v).ns = s.ns := rfl
@[simp] theorem raisePts_mem (s : State) (v : BitVec 16) : (s.raisePts v).mem = s.mem := rfl
@[simp] theorem raisePts_teams (s : State) (v : BitVec 16) : (s.raisePts v).teams = s.teams := rfl
@[simp] theorem raisePts_ops (s : State) (v : BitVec 16) : (s.raisePts v).ops = s.ops := rfl
@[simp] theorem raisePts_launches (s : State) (v : BitVec 16) : (s.raisePts v).launches = s.launches := rfl
@[simp] theorem raisePts_scrubs (s : State) (v : BitVec 16) : (s.raisePts v).scrubs = s.scrubs := rfl
@[simp] theorem raisePts_update (s : State) (v : BitVec 16) : (s.raisePts v).update = s.update := rfl
@[simp] theorem raisePts_ports (s : State) (v : BitVec 16) : (s.raisePts v).ports = s.ports := rfl
@[simp] theorem raisePts_arbiters (s : State) (v : BitVec 16) : (s.raisePts v).arbiters = s.arbiters := rfl
@[simp] theorem raisePts_nodes (s : State) (v : BitVec 16) : (s.raisePts v).nodes = s.nodes := rfl
@[simp] theorem raisePts_loop (s : State) (v : BitVec 16) : (s.raisePts v).loop = s.loop := rfl
@[simp] theorem raisePts_claims (s : State) (v : BitVec 16) : (s.raisePts v).claims = s.claims := rfl
@[simp] theorem raisePts_tiers (s : State) (v : BitVec 16) : (s.raisePts v).tiers = s.tiers := rfl
@[simp] theorem raisePts_energy (s : State) (v : BitVec 16) : (s.raisePts v).energy = s.energy := rfl
@[simp] theorem raisePts_host (s : State) (v : BitVec 16) : (s.raisePts v).host = s.host := rfl

/-! ### putNode -/

@[simp] theorem putNode_agenda (s : State) (n : Nat) (x : Node) : (s.putNode n x).agenda = s.agenda := rfl
@[simp] theorem putNode_issue (s : State) (n : Nat) (x : Node) : (s.putNode n x).issue = s.issue := rfl
@[simp] theorem putNode_last (s : State) (n : Nat) (x : Node) : (s.putNode n x).last = s.last := rfl
@[simp] theorem putNode_forced (s : State) (n : Nat) (x : Node) : (s.putNode n x).forced = s.forced := rfl
@[simp] theorem putNode_nextOp (s : State) (n : Nat) (x : Node) : (s.putNode n x).nextOp = s.nextOp := rfl
@[simp] theorem putNode_nextTeam (s : State) (n : Nat) (x : Node) : (s.putNode n x).nextTeam = s.nextTeam := rfl
@[simp] theorem putNode_nextScrub (s : State) (n : Nat) (x : Node) : (s.putNode n x).nextScrub = s.nextScrub := rfl
@[simp] theorem putNode_nextGrow (s : State) (n : Nat) (x : Node) : (s.putNode n x).nextGrow = s.nextGrow := rfl
@[simp] theorem putNode_stepNo (s : State) (n : Nat) (x : Node) : (s.putNode n x).stepNo = s.stepNo := rfl
@[simp] theorem putNode_turn (s : State) (n : Nat) (x : Node) : (s.putNode n x).turn = s.turn := rfl
@[simp] theorem putNode_cc (s : State) (n : Nat) (x : Node) : (s.putNode n x).cc = s.cc := rfl
@[simp] theorem putNode_ns (s : State) (n : Nat) (x : Node) : (s.putNode n x).ns = s.ns := rfl
@[simp] theorem putNode_mem (s : State) (n : Nat) (x : Node) : (s.putNode n x).mem = s.mem := rfl
@[simp] theorem putNode_teams (s : State) (n : Nat) (x : Node) : (s.putNode n x).teams = s.teams := rfl
@[simp] theorem putNode_ops (s : State) (n : Nat) (x : Node) : (s.putNode n x).ops = s.ops := rfl
@[simp] theorem putNode_launches (s : State) (n : Nat) (x : Node) : (s.putNode n x).launches = s.launches := rfl
@[simp] theorem putNode_scrubs (s : State) (n : Nat) (x : Node) : (s.putNode n x).scrubs = s.scrubs := rfl
@[simp] theorem putNode_update (s : State) (n : Nat) (x : Node) : (s.putNode n x).update = s.update := rfl
@[simp] theorem putNode_pts (s : State) (n : Nat) (x : Node) : (s.putNode n x).pts = s.pts := rfl
@[simp] theorem putNode_copies (s : State) (n : Nat) (x : Node) : (s.putNode n x).copies = s.copies := rfl
@[simp] theorem putNode_ports (s : State) (n : Nat) (x : Node) : (s.putNode n x).ports = s.ports := rfl
@[simp] theorem putNode_arbiters (s : State) (n : Nat) (x : Node) : (s.putNode n x).arbiters = s.arbiters := rfl
@[simp] theorem putNode_loop (s : State) (n : Nat) (x : Node) : (s.putNode n x).loop = s.loop := rfl
@[simp] theorem putNode_claims (s : State) (n : Nat) (x : Node) : (s.putNode n x).claims = s.claims := rfl
@[simp] theorem putNode_tiers (s : State) (n : Nat) (x : Node) : (s.putNode n x).tiers = s.tiers := rfl
@[simp] theorem putNode_energy (s : State) (n : Nat) (x : Node) : (s.putNode n x).energy = s.energy := rfl
@[simp] theorem putNode_host (s : State) (n : Nat) (x : Node) : (s.putNode n x).host = s.host := rfl

/-! ### logFault -/

@[simp] theorem logFault_agenda (s : State) (ctx team cause : Nat) (info pc : DWord) : (s.logFault ctx team cause info pc).agenda = s.agenda := rfl
@[simp] theorem logFault_issue (s : State) (ctx team cause : Nat) (info pc : DWord) : (s.logFault ctx team cause info pc).issue = s.issue := rfl
@[simp] theorem logFault_last (s : State) (ctx team cause : Nat) (info pc : DWord) : (s.logFault ctx team cause info pc).last = s.last := rfl
@[simp] theorem logFault_forced (s : State) (ctx team cause : Nat) (info pc : DWord) : (s.logFault ctx team cause info pc).forced = s.forced := rfl
@[simp] theorem logFault_nextOp (s : State) (ctx team cause : Nat) (info pc : DWord) : (s.logFault ctx team cause info pc).nextOp = s.nextOp := rfl
@[simp] theorem logFault_nextTeam (s : State) (ctx team cause : Nat) (info pc : DWord) : (s.logFault ctx team cause info pc).nextTeam = s.nextTeam := rfl
@[simp] theorem logFault_nextScrub (s : State) (ctx team cause : Nat) (info pc : DWord) : (s.logFault ctx team cause info pc).nextScrub = s.nextScrub := rfl
@[simp] theorem logFault_nextGrow (s : State) (ctx team cause : Nat) (info pc : DWord) : (s.logFault ctx team cause info pc).nextGrow = s.nextGrow := rfl
@[simp] theorem logFault_stepNo (s : State) (ctx team cause : Nat) (info pc : DWord) : (s.logFault ctx team cause info pc).stepNo = s.stepNo := rfl
@[simp] theorem logFault_turn (s : State) (ctx team cause : Nat) (info pc : DWord) : (s.logFault ctx team cause info pc).turn = s.turn := rfl
@[simp] theorem logFault_cc (s : State) (ctx team cause : Nat) (info pc : DWord) : (s.logFault ctx team cause info pc).cc = s.cc := rfl
@[simp] theorem logFault_ns (s : State) (ctx team cause : Nat) (info pc : DWord) : (s.logFault ctx team cause info pc).ns = s.ns := rfl
@[simp] theorem logFault_mem (s : State) (ctx team cause : Nat) (info pc : DWord) : (s.logFault ctx team cause info pc).mem = s.mem := rfl
@[simp] theorem logFault_teams (s : State) (ctx team cause : Nat) (info pc : DWord) : (s.logFault ctx team cause info pc).teams = s.teams := rfl
@[simp] theorem logFault_ops (s : State) (ctx team cause : Nat) (info pc : DWord) : (s.logFault ctx team cause info pc).ops = s.ops := rfl
@[simp] theorem logFault_launches (s : State) (ctx team cause : Nat) (info pc : DWord) : (s.logFault ctx team cause info pc).launches = s.launches := rfl
@[simp] theorem logFault_scrubs (s : State) (ctx team cause : Nat) (info pc : DWord) : (s.logFault ctx team cause info pc).scrubs = s.scrubs := rfl
@[simp] theorem logFault_update (s : State) (ctx team cause : Nat) (info pc : DWord) : (s.logFault ctx team cause info pc).update = s.update := rfl
@[simp] theorem logFault_pts (s : State) (ctx team cause : Nat) (info pc : DWord) : (s.logFault ctx team cause info pc).pts = s.pts := rfl
@[simp] theorem logFault_copies (s : State) (ctx team cause : Nat) (info pc : DWord) : (s.logFault ctx team cause info pc).copies = s.copies := rfl
@[simp] theorem logFault_ports (s : State) (ctx team cause : Nat) (info pc : DWord) : (s.logFault ctx team cause info pc).ports = s.ports := rfl
@[simp] theorem logFault_arbiters (s : State) (ctx team cause : Nat) (info pc : DWord) : (s.logFault ctx team cause info pc).arbiters = s.arbiters := rfl
@[simp] theorem logFault_nodes (s : State) (ctx team cause : Nat) (info pc : DWord) : (s.logFault ctx team cause info pc).nodes = s.nodes := rfl
@[simp] theorem logFault_loop (s : State) (ctx team cause : Nat) (info pc : DWord) : (s.logFault ctx team cause info pc).loop = s.loop := rfl
@[simp] theorem logFault_claims (s : State) (ctx team cause : Nat) (info pc : DWord) : (s.logFault ctx team cause info pc).claims = s.claims := rfl
@[simp] theorem logFault_tiers (s : State) (ctx team cause : Nat) (info pc : DWord) : (s.logFault ctx team cause info pc).tiers = s.tiers := rfl
@[simp] theorem logFault_energy (s : State) (ctx team cause : Nat) (info pc : DWord) : (s.logFault ctx team cause info pc).energy = s.energy := rfl

/-! ### onPort -/

@[simp] theorem onPort_agenda (s : State) (p : Nat) (f : Port → Port) : (s.onPort p f).agenda = s.agenda := rfl
@[simp] theorem onPort_issue (s : State) (p : Nat) (f : Port → Port) : (s.onPort p f).issue = s.issue := rfl
@[simp] theorem onPort_last (s : State) (p : Nat) (f : Port → Port) : (s.onPort p f).last = s.last := rfl
@[simp] theorem onPort_forced (s : State) (p : Nat) (f : Port → Port) : (s.onPort p f).forced = s.forced := rfl
@[simp] theorem onPort_nextOp (s : State) (p : Nat) (f : Port → Port) : (s.onPort p f).nextOp = s.nextOp := rfl
@[simp] theorem onPort_nextTeam (s : State) (p : Nat) (f : Port → Port) : (s.onPort p f).nextTeam = s.nextTeam := rfl
@[simp] theorem onPort_nextScrub (s : State) (p : Nat) (f : Port → Port) : (s.onPort p f).nextScrub = s.nextScrub := rfl
@[simp] theorem onPort_nextGrow (s : State) (p : Nat) (f : Port → Port) : (s.onPort p f).nextGrow = s.nextGrow := rfl
@[simp] theorem onPort_stepNo (s : State) (p : Nat) (f : Port → Port) : (s.onPort p f).stepNo = s.stepNo := rfl
@[simp] theorem onPort_turn (s : State) (p : Nat) (f : Port → Port) : (s.onPort p f).turn = s.turn := rfl
@[simp] theorem onPort_cc (s : State) (p : Nat) (f : Port → Port) : (s.onPort p f).cc = s.cc := rfl
@[simp] theorem onPort_ns (s : State) (p : Nat) (f : Port → Port) : (s.onPort p f).ns = s.ns := rfl
@[simp] theorem onPort_mem (s : State) (p : Nat) (f : Port → Port) : (s.onPort p f).mem = s.mem := rfl
@[simp] theorem onPort_teams (s : State) (p : Nat) (f : Port → Port) : (s.onPort p f).teams = s.teams := rfl
@[simp] theorem onPort_ops (s : State) (p : Nat) (f : Port → Port) : (s.onPort p f).ops = s.ops := rfl
@[simp] theorem onPort_launches (s : State) (p : Nat) (f : Port → Port) : (s.onPort p f).launches = s.launches := rfl
@[simp] theorem onPort_scrubs (s : State) (p : Nat) (f : Port → Port) : (s.onPort p f).scrubs = s.scrubs := rfl
@[simp] theorem onPort_update (s : State) (p : Nat) (f : Port → Port) : (s.onPort p f).update = s.update := rfl
@[simp] theorem onPort_pts (s : State) (p : Nat) (f : Port → Port) : (s.onPort p f).pts = s.pts := rfl
@[simp] theorem onPort_copies (s : State) (p : Nat) (f : Port → Port) : (s.onPort p f).copies = s.copies := rfl
@[simp] theorem onPort_arbiters (s : State) (p : Nat) (f : Port → Port) : (s.onPort p f).arbiters = s.arbiters := rfl
@[simp] theorem onPort_nodes (s : State) (p : Nat) (f : Port → Port) : (s.onPort p f).nodes = s.nodes := rfl
@[simp] theorem onPort_loop (s : State) (p : Nat) (f : Port → Port) : (s.onPort p f).loop = s.loop := rfl
@[simp] theorem onPort_claims (s : State) (p : Nat) (f : Port → Port) : (s.onPort p f).claims = s.claims := rfl
@[simp] theorem onPort_tiers (s : State) (p : Nat) (f : Port → Port) : (s.onPort p f).tiers = s.tiers := rfl
@[simp] theorem onPort_energy (s : State) (p : Nat) (f : Port → Port) : (s.onPort p f).energy = s.energy := rfl
@[simp] theorem onPort_host (s : State) (p : Nat) (f : Port → Port) : (s.onPort p f).host = s.host := rfl

/-! ### cmdDone -/

@[simp] theorem cmdDone_agenda (s : State) (code : Nat) : (s.cmdDone code).agenda = s.agenda := rfl
@[simp] theorem cmdDone_issue (s : State) (code : Nat) : (s.cmdDone code).issue = s.issue := rfl
@[simp] theorem cmdDone_last (s : State) (code : Nat) : (s.cmdDone code).last = s.last := rfl
@[simp] theorem cmdDone_forced (s : State) (code : Nat) : (s.cmdDone code).forced = s.forced := rfl
@[simp] theorem cmdDone_nextOp (s : State) (code : Nat) : (s.cmdDone code).nextOp = s.nextOp := rfl
@[simp] theorem cmdDone_nextTeam (s : State) (code : Nat) : (s.cmdDone code).nextTeam = s.nextTeam := rfl
@[simp] theorem cmdDone_nextScrub (s : State) (code : Nat) : (s.cmdDone code).nextScrub = s.nextScrub := rfl
@[simp] theorem cmdDone_nextGrow (s : State) (code : Nat) : (s.cmdDone code).nextGrow = s.nextGrow := rfl
@[simp] theorem cmdDone_stepNo (s : State) (code : Nat) : (s.cmdDone code).stepNo = s.stepNo := rfl
@[simp] theorem cmdDone_turn (s : State) (code : Nat) : (s.cmdDone code).turn = s.turn := rfl
@[simp] theorem cmdDone_cc (s : State) (code : Nat) : (s.cmdDone code).cc = s.cc := rfl
@[simp] theorem cmdDone_ns (s : State) (code : Nat) : (s.cmdDone code).ns = s.ns := rfl
@[simp] theorem cmdDone_mem (s : State) (code : Nat) : (s.cmdDone code).mem = s.mem := rfl
@[simp] theorem cmdDone_teams (s : State) (code : Nat) : (s.cmdDone code).teams = s.teams := rfl
@[simp] theorem cmdDone_ops (s : State) (code : Nat) : (s.cmdDone code).ops = s.ops := rfl
@[simp] theorem cmdDone_launches (s : State) (code : Nat) : (s.cmdDone code).launches = s.launches := rfl
@[simp] theorem cmdDone_scrubs (s : State) (code : Nat) : (s.cmdDone code).scrubs = s.scrubs := rfl
@[simp] theorem cmdDone_update (s : State) (code : Nat) : (s.cmdDone code).update = s.update := rfl
@[simp] theorem cmdDone_pts (s : State) (code : Nat) : (s.cmdDone code).pts = s.pts := rfl
@[simp] theorem cmdDone_copies (s : State) (code : Nat) : (s.cmdDone code).copies = s.copies := rfl
@[simp] theorem cmdDone_ports (s : State) (code : Nat) : (s.cmdDone code).ports = s.ports := rfl
@[simp] theorem cmdDone_arbiters (s : State) (code : Nat) : (s.cmdDone code).arbiters = s.arbiters := rfl
@[simp] theorem cmdDone_nodes (s : State) (code : Nat) : (s.cmdDone code).nodes = s.nodes := rfl
@[simp] theorem cmdDone_loop (s : State) (code : Nat) : (s.cmdDone code).loop = s.loop := rfl
@[simp] theorem cmdDone_claims (s : State) (code : Nat) : (s.cmdDone code).claims = s.claims := rfl
@[simp] theorem cmdDone_tiers (s : State) (code : Nat) : (s.cmdDone code).tiers = s.tiers := rfl
@[simp] theorem cmdDone_energy (s : State) (code : Nat) : (s.cmdDone code).energy = s.energy := rfl

/-! ### ensPut -/

@[simp] theorem ensPut_agenda (s : State) (off v : Nat) : (s.ensPut off v).agenda = s.agenda := rfl
@[simp] theorem ensPut_issue (s : State) (off v : Nat) : (s.ensPut off v).issue = s.issue := rfl
@[simp] theorem ensPut_last (s : State) (off v : Nat) : (s.ensPut off v).last = s.last := rfl
@[simp] theorem ensPut_forced (s : State) (off v : Nat) : (s.ensPut off v).forced = s.forced := rfl
@[simp] theorem ensPut_nextOp (s : State) (off v : Nat) : (s.ensPut off v).nextOp = s.nextOp := rfl
@[simp] theorem ensPut_nextTeam (s : State) (off v : Nat) : (s.ensPut off v).nextTeam = s.nextTeam := rfl
@[simp] theorem ensPut_nextScrub (s : State) (off v : Nat) : (s.ensPut off v).nextScrub = s.nextScrub := rfl
@[simp] theorem ensPut_nextGrow (s : State) (off v : Nat) : (s.ensPut off v).nextGrow = s.nextGrow := rfl
@[simp] theorem ensPut_stepNo (s : State) (off v : Nat) : (s.ensPut off v).stepNo = s.stepNo := rfl
@[simp] theorem ensPut_turn (s : State) (off v : Nat) : (s.ensPut off v).turn = s.turn := rfl
@[simp] theorem ensPut_cc (s : State) (off v : Nat) : (s.ensPut off v).cc = s.cc := rfl
@[simp] theorem ensPut_ns (s : State) (off v : Nat) : (s.ensPut off v).ns = s.ns := rfl
@[simp] theorem ensPut_teams (s : State) (off v : Nat) : (s.ensPut off v).teams = s.teams := rfl
@[simp] theorem ensPut_ops (s : State) (off v : Nat) : (s.ensPut off v).ops = s.ops := rfl
@[simp] theorem ensPut_launches (s : State) (off v : Nat) : (s.ensPut off v).launches = s.launches := rfl
@[simp] theorem ensPut_scrubs (s : State) (off v : Nat) : (s.ensPut off v).scrubs = s.scrubs := rfl
@[simp] theorem ensPut_update (s : State) (off v : Nat) : (s.ensPut off v).update = s.update := rfl
@[simp] theorem ensPut_pts (s : State) (off v : Nat) : (s.ensPut off v).pts = s.pts := rfl
@[simp] theorem ensPut_copies (s : State) (off v : Nat) : (s.ensPut off v).copies = s.copies := rfl
@[simp] theorem ensPut_ports (s : State) (off v : Nat) : (s.ensPut off v).ports = s.ports := rfl
@[simp] theorem ensPut_arbiters (s : State) (off v : Nat) : (s.ensPut off v).arbiters = s.arbiters := rfl
@[simp] theorem ensPut_nodes (s : State) (off v : Nat) : (s.ensPut off v).nodes = s.nodes := rfl
@[simp] theorem ensPut_loop (s : State) (off v : Nat) : (s.ensPut off v).loop = s.loop := rfl
@[simp] theorem ensPut_claims (s : State) (off v : Nat) : (s.ensPut off v).claims = s.claims := rfl
@[simp] theorem ensPut_tiers (s : State) (off v : Nat) : (s.ensPut off v).tiers = s.tiers := rfl
@[simp] theorem ensPut_energy (s : State) (off v : Nat) : (s.ensPut off v).energy = s.energy := rfl
@[simp] theorem ensPut_host (s : State) (off v : Nat) : (s.ensPut off v).host = s.host := rfl

/-! ### addTeam -/

@[simp] theorem addTeam_agenda (s : State) (x : Team) : (s.addTeam x).agenda = s.agenda := rfl
@[simp] theorem addTeam_issue (s : State) (x : Team) : (s.addTeam x).issue = s.issue := rfl
@[simp] theorem addTeam_last (s : State) (x : Team) : (s.addTeam x).last = s.last := rfl
@[simp] theorem addTeam_forced (s : State) (x : Team) : (s.addTeam x).forced = s.forced := rfl
@[simp] theorem addTeam_nextOp (s : State) (x : Team) : (s.addTeam x).nextOp = s.nextOp := rfl
@[simp] theorem addTeam_nextScrub (s : State) (x : Team) : (s.addTeam x).nextScrub = s.nextScrub := rfl
@[simp] theorem addTeam_nextGrow (s : State) (x : Team) : (s.addTeam x).nextGrow = s.nextGrow := rfl
@[simp] theorem addTeam_stepNo (s : State) (x : Team) : (s.addTeam x).stepNo = s.stepNo := rfl
@[simp] theorem addTeam_turn (s : State) (x : Team) : (s.addTeam x).turn = s.turn := rfl
@[simp] theorem addTeam_cc (s : State) (x : Team) : (s.addTeam x).cc = s.cc := rfl
@[simp] theorem addTeam_ns (s : State) (x : Team) : (s.addTeam x).ns = s.ns := rfl
@[simp] theorem addTeam_mem (s : State) (x : Team) : (s.addTeam x).mem = s.mem := rfl
@[simp] theorem addTeam_ops (s : State) (x : Team) : (s.addTeam x).ops = s.ops := rfl
@[simp] theorem addTeam_launches (s : State) (x : Team) : (s.addTeam x).launches = s.launches := rfl
@[simp] theorem addTeam_scrubs (s : State) (x : Team) : (s.addTeam x).scrubs = s.scrubs := rfl
@[simp] theorem addTeam_update (s : State) (x : Team) : (s.addTeam x).update = s.update := rfl
@[simp] theorem addTeam_pts (s : State) (x : Team) : (s.addTeam x).pts = s.pts := rfl
@[simp] theorem addTeam_copies (s : State) (x : Team) : (s.addTeam x).copies = s.copies := rfl
@[simp] theorem addTeam_ports (s : State) (x : Team) : (s.addTeam x).ports = s.ports := rfl
@[simp] theorem addTeam_arbiters (s : State) (x : Team) : (s.addTeam x).arbiters = s.arbiters := rfl
@[simp] theorem addTeam_nodes (s : State) (x : Team) : (s.addTeam x).nodes = s.nodes := rfl
@[simp] theorem addTeam_loop (s : State) (x : Team) : (s.addTeam x).loop = s.loop := rfl
@[simp] theorem addTeam_claims (s : State) (x : Team) : (s.addTeam x).claims = s.claims := rfl
@[simp] theorem addTeam_tiers (s : State) (x : Team) : (s.addTeam x).tiers = s.tiers := rfl
@[simp] theorem addTeam_energy (s : State) (x : Team) : (s.addTeam x).energy = s.energy := rfl
@[simp] theorem addTeam_host (s : State) (x : Team) : (s.addTeam x).host = s.host := rfl

/-! ### putSlot -/

@[simp] theorem putSlot_agenda (s : State) (n k : Nat) (x : RedSlot) : (s.putSlot n k x).agenda = s.agenda := rfl
@[simp] theorem putSlot_issue (s : State) (n k : Nat) (x : RedSlot) : (s.putSlot n k x).issue = s.issue := rfl
@[simp] theorem putSlot_last (s : State) (n k : Nat) (x : RedSlot) : (s.putSlot n k x).last = s.last := rfl
@[simp] theorem putSlot_forced (s : State) (n k : Nat) (x : RedSlot) : (s.putSlot n k x).forced = s.forced := rfl
@[simp] theorem putSlot_nextOp (s : State) (n k : Nat) (x : RedSlot) : (s.putSlot n k x).nextOp = s.nextOp := rfl
@[simp] theorem putSlot_nextTeam (s : State) (n k : Nat) (x : RedSlot) : (s.putSlot n k x).nextTeam = s.nextTeam := rfl
@[simp] theorem putSlot_nextScrub (s : State) (n k : Nat) (x : RedSlot) : (s.putSlot n k x).nextScrub = s.nextScrub := rfl
@[simp] theorem putSlot_nextGrow (s : State) (n k : Nat) (x : RedSlot) : (s.putSlot n k x).nextGrow = s.nextGrow := rfl
@[simp] theorem putSlot_stepNo (s : State) (n k : Nat) (x : RedSlot) : (s.putSlot n k x).stepNo = s.stepNo := rfl
@[simp] theorem putSlot_turn (s : State) (n k : Nat) (x : RedSlot) : (s.putSlot n k x).turn = s.turn := rfl
@[simp] theorem putSlot_cc (s : State) (n k : Nat) (x : RedSlot) : (s.putSlot n k x).cc = s.cc := rfl
@[simp] theorem putSlot_ns (s : State) (n k : Nat) (x : RedSlot) : (s.putSlot n k x).ns = s.ns := rfl
@[simp] theorem putSlot_mem (s : State) (n k : Nat) (x : RedSlot) : (s.putSlot n k x).mem = s.mem := rfl
@[simp] theorem putSlot_teams (s : State) (n k : Nat) (x : RedSlot) : (s.putSlot n k x).teams = s.teams := rfl
@[simp] theorem putSlot_ops (s : State) (n k : Nat) (x : RedSlot) : (s.putSlot n k x).ops = s.ops := rfl
@[simp] theorem putSlot_launches (s : State) (n k : Nat) (x : RedSlot) : (s.putSlot n k x).launches = s.launches := rfl
@[simp] theorem putSlot_scrubs (s : State) (n k : Nat) (x : RedSlot) : (s.putSlot n k x).scrubs = s.scrubs := rfl
@[simp] theorem putSlot_update (s : State) (n k : Nat) (x : RedSlot) : (s.putSlot n k x).update = s.update := rfl
@[simp] theorem putSlot_pts (s : State) (n k : Nat) (x : RedSlot) : (s.putSlot n k x).pts = s.pts := rfl
@[simp] theorem putSlot_copies (s : State) (n k : Nat) (x : RedSlot) : (s.putSlot n k x).copies = s.copies := rfl
@[simp] theorem putSlot_ports (s : State) (n k : Nat) (x : RedSlot) : (s.putSlot n k x).ports = s.ports := rfl
@[simp] theorem putSlot_arbiters (s : State) (n k : Nat) (x : RedSlot) : (s.putSlot n k x).arbiters = s.arbiters := rfl
@[simp] theorem putSlot_loop (s : State) (n k : Nat) (x : RedSlot) : (s.putSlot n k x).loop = s.loop := rfl
@[simp] theorem putSlot_claims (s : State) (n k : Nat) (x : RedSlot) : (s.putSlot n k x).claims = s.claims := rfl
@[simp] theorem putSlot_tiers (s : State) (n k : Nat) (x : RedSlot) : (s.putSlot n k x).tiers = s.tiers := rfl
@[simp] theorem putSlot_energy (s : State) (n k : Nat) (x : RedSlot) : (s.putSlot n k x).energy = s.energy := rfl
@[simp] theorem putSlot_host (s : State) (n k : Nat) (x : RedSlot) : (s.putSlot n k x).host = s.host := rfl

/-! ### latchAs -/

@[simp] theorem latchAs_agenda (s : State) (i : Issue) (slot : Nat) : (s.latchAs i slot).agenda = s.agenda := rfl
@[simp] theorem latchAs_last (s : State) (i : Issue) (slot : Nat) : (s.latchAs i slot).last = s.last := rfl
@[simp] theorem latchAs_forced (s : State) (i : Issue) (slot : Nat) : (s.latchAs i slot).forced = s.forced := rfl
@[simp] theorem latchAs_nextOp (s : State) (i : Issue) (slot : Nat) : (s.latchAs i slot).nextOp = s.nextOp := rfl
@[simp] theorem latchAs_nextTeam (s : State) (i : Issue) (slot : Nat) : (s.latchAs i slot).nextTeam = s.nextTeam := rfl
@[simp] theorem latchAs_nextScrub (s : State) (i : Issue) (slot : Nat) : (s.latchAs i slot).nextScrub = s.nextScrub := rfl
@[simp] theorem latchAs_nextGrow (s : State) (i : Issue) (slot : Nat) : (s.latchAs i slot).nextGrow = s.nextGrow := rfl
@[simp] theorem latchAs_stepNo (s : State) (i : Issue) (slot : Nat) : (s.latchAs i slot).stepNo = s.stepNo := rfl
@[simp] theorem latchAs_turn (s : State) (i : Issue) (slot : Nat) : (s.latchAs i slot).turn = s.turn := rfl
@[simp] theorem latchAs_cc (s : State) (i : Issue) (slot : Nat) : (s.latchAs i slot).cc = s.cc := rfl
@[simp] theorem latchAs_ns (s : State) (i : Issue) (slot : Nat) : (s.latchAs i slot).ns = s.ns := rfl
@[simp] theorem latchAs_mem (s : State) (i : Issue) (slot : Nat) : (s.latchAs i slot).mem = s.mem := rfl
@[simp] theorem latchAs_teams (s : State) (i : Issue) (slot : Nat) : (s.latchAs i slot).teams = s.teams := rfl
@[simp] theorem latchAs_ops (s : State) (i : Issue) (slot : Nat) : (s.latchAs i slot).ops = s.ops := rfl
@[simp] theorem latchAs_launches (s : State) (i : Issue) (slot : Nat) : (s.latchAs i slot).launches = s.launches := rfl
@[simp] theorem latchAs_scrubs (s : State) (i : Issue) (slot : Nat) : (s.latchAs i slot).scrubs = s.scrubs := rfl
@[simp] theorem latchAs_update (s : State) (i : Issue) (slot : Nat) : (s.latchAs i slot).update = s.update := rfl
@[simp] theorem latchAs_pts (s : State) (i : Issue) (slot : Nat) : (s.latchAs i slot).pts = s.pts := rfl
@[simp] theorem latchAs_copies (s : State) (i : Issue) (slot : Nat) : (s.latchAs i slot).copies = s.copies := rfl
@[simp] theorem latchAs_ports (s : State) (i : Issue) (slot : Nat) : (s.latchAs i slot).ports = s.ports := rfl
@[simp] theorem latchAs_arbiters (s : State) (i : Issue) (slot : Nat) : (s.latchAs i slot).arbiters = s.arbiters := rfl
@[simp] theorem latchAs_nodes (s : State) (i : Issue) (slot : Nat) : (s.latchAs i slot).nodes = s.nodes := rfl
@[simp] theorem latchAs_loop (s : State) (i : Issue) (slot : Nat) : (s.latchAs i slot).loop = s.loop := rfl
@[simp] theorem latchAs_claims (s : State) (i : Issue) (slot : Nat) : (s.latchAs i slot).claims = s.claims := rfl
@[simp] theorem latchAs_tiers (s : State) (i : Issue) (slot : Nat) : (s.latchAs i slot).tiers = s.tiers := rfl
@[simp] theorem latchAs_energy (s : State) (i : Issue) (slot : Nat) : (s.latchAs i slot).energy = s.energy := rfl
@[simp] theorem latchAs_host (s : State) (i : Issue) (slot : Nat) : (s.latchAs i slot).host = s.host := rfl

/-! ### newScrub -/

@[simp] theorem newScrub_agenda (s : State) (x : Scrub) : (s.newScrub x).agenda = s.agenda := rfl
@[simp] theorem newScrub_issue (s : State) (x : Scrub) : (s.newScrub x).issue = s.issue := rfl
@[simp] theorem newScrub_last (s : State) (x : Scrub) : (s.newScrub x).last = s.last := rfl
@[simp] theorem newScrub_forced (s : State) (x : Scrub) : (s.newScrub x).forced = s.forced := rfl
@[simp] theorem newScrub_nextOp (s : State) (x : Scrub) : (s.newScrub x).nextOp = s.nextOp := rfl
@[simp] theorem newScrub_nextTeam (s : State) (x : Scrub) : (s.newScrub x).nextTeam = s.nextTeam := rfl
@[simp] theorem newScrub_nextGrow (s : State) (x : Scrub) : (s.newScrub x).nextGrow = s.nextGrow := rfl
@[simp] theorem newScrub_stepNo (s : State) (x : Scrub) : (s.newScrub x).stepNo = s.stepNo := rfl
@[simp] theorem newScrub_turn (s : State) (x : Scrub) : (s.newScrub x).turn = s.turn := rfl
@[simp] theorem newScrub_cc (s : State) (x : Scrub) : (s.newScrub x).cc = s.cc := rfl
@[simp] theorem newScrub_ns (s : State) (x : Scrub) : (s.newScrub x).ns = s.ns := rfl
@[simp] theorem newScrub_mem (s : State) (x : Scrub) : (s.newScrub x).mem = s.mem := rfl
@[simp] theorem newScrub_teams (s : State) (x : Scrub) : (s.newScrub x).teams = s.teams := rfl
@[simp] theorem newScrub_ops (s : State) (x : Scrub) : (s.newScrub x).ops = s.ops := rfl
@[simp] theorem newScrub_launches (s : State) (x : Scrub) : (s.newScrub x).launches = s.launches := rfl
@[simp] theorem newScrub_update (s : State) (x : Scrub) : (s.newScrub x).update = s.update := rfl
@[simp] theorem newScrub_pts (s : State) (x : Scrub) : (s.newScrub x).pts = s.pts := rfl
@[simp] theorem newScrub_copies (s : State) (x : Scrub) : (s.newScrub x).copies = s.copies := rfl
@[simp] theorem newScrub_ports (s : State) (x : Scrub) : (s.newScrub x).ports = s.ports := rfl
@[simp] theorem newScrub_arbiters (s : State) (x : Scrub) : (s.newScrub x).arbiters = s.arbiters := rfl
@[simp] theorem newScrub_nodes (s : State) (x : Scrub) : (s.newScrub x).nodes = s.nodes := rfl
@[simp] theorem newScrub_loop (s : State) (x : Scrub) : (s.newScrub x).loop = s.loop := rfl
@[simp] theorem newScrub_claims (s : State) (x : Scrub) : (s.newScrub x).claims = s.claims := rfl
@[simp] theorem newScrub_tiers (s : State) (x : Scrub) : (s.newScrub x).tiers = s.tiers := rfl
@[simp] theorem newScrub_energy (s : State) (x : Scrub) : (s.newScrub x).energy = s.energy := rfl
@[simp] theorem newScrub_host (s : State) (x : Scrub) : (s.newScrub x).host = s.host := rfl

/-! ### What they change -/

@[simp] theorem addOp_ops (s : State) (o : Op) : (s.addOp o).ops = s.ops ++ [o] := rfl
@[simp] theorem addOp_nextOp (s : State) (o : Op) : (s.addOp o).nextOp = s.nextOp + 1 := rfl
@[simp] theorem endOp_ops (s : State) (id : Nat) : (s.endOp id).ops = s.ops.filter fun o => o.id != id := rfl
@[simp] theorem putOp_ops (s : State) (o : Op) : (s.putOp o).ops = s.ops.map fun x => if x.id == o.id then o else x := rfl
@[simp] theorem putTeam_teams (s : State) (x : Team) : (s.putTeam x).teams = s.teams.map fun y => if y.id == x.id then x else y := rfl
@[simp] theorem onTeam_teams (s : State) (id : Nat) (f : Team → Team) :
    (s.onTeam id f).teams = s.teams.map fun t => if t.id == id then f t else t := rfl
@[simp] theorem addTeam_teams (s : State) (x : Team) : (s.addTeam x).teams = s.teams ++ [x] := rfl
@[simp] theorem ensPut_mem (s : State) (off v : Nat) : (s.ensPut off v).mem = Memory.write s.mem (ensKey off) 8 v := rfl
@[simp] theorem latchAs_issue (s : State) (i : Issue) (slot : Nat) : (s.latchAs i slot).issue = some { i with slot := slot } := rfl
@[simp] theorem onPort_ports (s : State) (p : Nat) (f : Port → Port) :
    (s.onPort p f).ports = s.ports.mapIdx fun i x => if i == p then f x else x := rfl
@[simp] theorem logFault_faultLog (s : State) (ctx team cause : Nat) (info pc : DWord) :
    (s.logFault ctx team cause info pc).host.faultLog = s.host.faultLog ++ [(ctx, team, cause, info, pc)] := rfl

/-! ### Updates of a team and of a group -/

@[simp] theorem team_onGroup_frags (t : Team) (g : Nat) (f : Group → Group) : (t.onGroup g f).frags = t.frags := rfl
@[simp] theorem team_onGroup_id (t : Team) (g : Nat) (f : Group → Group) : (t.onGroup g f).id = t.id := rfl
@[simp] theorem team_onGroup_ctx (t : Team) (g : Nat) (f : Group → Group) : (t.onGroup g f).ctx = t.ctx := rfl
@[simp] theorem team_onGroup_tiles (t : Team) (g : Nat) (f : Group → Group) : (t.onGroup g f).tiles = t.tiles := rfl
@[simp] theorem team_onGroup_kernel (t : Team) (g : Nat) (f : Group → Group) : (t.onGroup g f).kernel = t.kernel := rfl
@[simp] theorem team_onGroup_bars (t : Team) (g : Nat) (f : Group → Group) : (t.onGroup g f).bars = t.bars := rfl
@[simp] theorem team_onGroup_threads (t : Team) (g : Nat) (f : Group → Group) : (t.onGroup g f).threads = t.threads := rfl
@[simp] theorem team_putFrag_id (t : Team) (f : Fragment) : (t.putFrag f).id = t.id := rfl
@[simp] theorem team_putFrag_groups (t : Team) (f : Fragment) : (t.putFrag f).groups = t.groups := rfl
@[simp] theorem team_putFrag_tiles (t : Team) (f : Fragment) : (t.putFrag f).tiles = t.tiles := rfl
@[simp] theorem team_putFrag_kernel (t : Team) (f : Fragment) : (t.putFrag f).kernel = t.kernel := rfl
@[simp] theorem team_putThread_id (t : Team) (x : Thread) : (t.putThread x).id = t.id := rfl
@[simp] theorem team_putThread_groups (t : Team) (x : Thread) : (t.putThread x).groups = t.groups := rfl
@[simp] theorem team_putThread_tiles (t : Team) (x : Thread) : (t.putThread x).tiles = t.tiles := rfl
@[simp] theorem group_onQueue_v (x : Group) (q : Nat) (f : Queue → Queue) : (x.onQueue q f).v = x.v := rfl
@[simp] theorem group_onQueue_s (x : Group) (q : Nat) (f : Queue → Queue) : (x.onQueue q f).s = x.s := rfl
@[simp] theorem group_onQueue_fstat (x : Group) (q : Nat) (f : Queue → Queue) : (x.onQueue q f).fstat = x.fstat := rfl
@[simp] theorem group_onQueue_genmax (x : Group) (q : Nat) (f : Queue → Queue) : (x.onQueue q f).genmax = x.genmax := rfl

end Sys2Proof.Machine
end

