-- ==== Sys2Proof/Laws/Memory.lean ====
section
/-! SUPPORT. Every operation on memory keeps its canonical form, and says which bytes it leaves alone. -/

namespace Sys2Proof.Machine
open Sys2Proof

/-! ### Operations on memory -/

/-- Writing runs keeps the canonical form. -/
theorem Memory.wf_writeRuns : ∀ (l : List (Nat × Nat)) (m : Memory) (bs : List Byte), Memory.wf m = true →
    Memory.wf (Memory.writeRuns m l bs) = true
  | [], _, _, h => h
  | r :: t, m, _, h => Memory.wf_writeRuns t _ _ (Memory.wf_writeBytes _ m r.1 h)
/-- Removing cells keeps it. -/
theorem Memory.wf_filter (p : Host.Cell → Bool) (m : Memory) (h : Memory.wf m = true) : Memory.wf (m.filter p) = true :=
  (cellWf_filter 0#8 p m h).1
/-- Writing single bytes one after another keeps it. -/
theorem Memory.wf_setBytes {α : Type} (f : Memory → α → Memory) (hf : ∀ m a, Memory.wf m = true → Memory.wf (f m a) = true) :
    ∀ (l : List α) (m : Memory), Memory.wf m = true → Memory.wf (l.foldl f m) = true
  | [], _, h => h
  | a :: t, m, h => Memory.wf_setBytes f hf t (f m a) (hf m a h)
/-- The tables of a load keep it. -/
theorem wf_loadTables (m : Memory) (h : Memory.wf m = true) : Memory.wf (loadTables m) = true :=
  Memory.wf_write 8 _ _ _ (Memory.wf_write 8 _ _ _ h)
/-- A write of `n` bytes at `a` leaves every other byte. -/
theorem Memory.byte_write_out : ∀ (n : Nat) (m : Memory) (a v b : Nat), b < a ∨ a + n ≤ b →
    Memory.byte (Memory.write m a n v) b = Memory.byte m b
  | 0, _, _, _, _, _ => rfl
  | n + 1, m, a, v, b, h => by
    unfold Memory.write
    rw [Memory.byte_write_out n _ (a + 1) _ b (by omega), Memory.byte_setByte, if_neg (by omega)]
/-- A write of runs leaves every byte outside them, where the bytes given are no more than the runs hold. -/
theorem Memory.byte_writeRuns_out : ∀ (l : List (Nat × Nat)) (m : Memory) (bs : List Byte) (b : Nat),
    (∀ r ∈ l, b < r.1 ∨ r.1 + r.2 ≤ b) → Memory.byte (Memory.writeRuns m l bs) b = Memory.byte m b
  | [], _, _, _, _ => rfl
  | r :: t, m, bs, b, h => by
    have h1 := h r (by simp)
    unfold Memory.writeRuns
    rw [Memory.byte_writeRuns_out t _ _ b fun x hx => h x (by simp [hx]),
      Memory.byte_writeBytes_out _ _ _ _ (by have := List.length_take_le r.2 bs; omega)]

/-! ### Operations on State that write memory -/

/-- The memory of a state is in its canonical form. -/
def State.memOk (s : State) : Prop := Memory.wf s.mem = true
/-- A fold of operations that keep it keeps it. -/
theorem memOk_foldl {α : Type} (f : State → α → State) (hf : ∀ s a, s.memOk → (f s a).memOk) :
    ∀ (l : List α) (s : State), s.memOk → (l.foldl f s).memOk
  | [], _, h => h
  | a :: t, s, h => memOk_foldl f hf t (f s a) (hf s a h)
/-- Writes of timestamps, caches and pts leave memory alone. -/
@[simp] theorem writeback_mem (s : State) (x : Nat) : (s.writeback x).mem = s.mem := rfl
@[simp] theorem putStamp_mem (s : State) (x : Nat) (st : Stamp) : (s.putStamp x st).mem = s.mem := rfl
@[simp] theorem homeStamp_mem (s : State) (p : BitVec 16) (x : Nat) : (s.homeStamp p x).1.mem = s.mem := rfl
@[simp] theorem homeRead_mem (s : State) (p l : BitVec 16) (x : Nat) : (s.homeRead p l x).1.mem = s.mem := by
  simp [State.homeRead]
@[simp] theorem linesDone_mem (s : State) (l : List Nat) (n : Nat) : (s.linesDone l n).mem = s.mem := rfl
@[simp] theorem keepCopy_mem (s : State) (x : Nat) (c : LeaseCopy) : (s.keepCopy x c).mem = s.mem := by
  unfold State.keepCopy
  split <;> rfl
@[simp] theorem post_mem (s : State) (port input : Nat) (p : Packet) : (s.post port input p).mem = s.mem := rfl
@[simp] theorem postTo_mem (s : State) (o : Op) (key item : Nat) (l : Payload) : (s.postTo o key item l).mem = s.mem := rfl
@[simp] theorem leaseRead_mem (s : State) (c : Nat) (k : Bool) (x : Nat) : (s.leaseRead c k x).mem = s.mem := by
  unfold State.leaseRead
  split <;> simp
/-- An atomic at its home. -/
theorem memOk_atomAt (s : State) (p : BitVec 16) (lease key n fn : Nat) (sg : Bool) (b c : Nat) (h : s.memOk) :
    (s.atomAt p lease key n fn sg b c).1.memOk := by
  unfold State.atomAt State.memOk
  split <;> exact Memory.wf_write n _ _ _ h
theorem memOk_homeAtomic (s : State) (ctx key n fn : Nat) (sg : Bool) (b c : Nat) (h : s.memOk) :
    (s.homeAtomic ctx key n fn sg b c).1.memOk := by
  have hw := memOk_atomAt s s.pts (s.leaseOf ctx).toNat key n fn sg b c h
  unfold State.homeAtomic
  dsimp only
  split
  · exact hw
  · exact hw
/-- An update-only line that goes home. -/
theorem memOk_flushLine (s : State) (core line : Nat) (h : s.memOk) : (s.flushLine core line).memOk := by
  unfold State.flushLine
  dsimp only
  split
  · refine memOk_foldl _ (fun s a hs => ?_) _ _ h
    split <;> exact hs
  · exact memOk_foldl _ (fun s _ hs => memOk_homeAtomic s _ _ _ _ _ _ _ hs) _ _ h
theorem memOk_flushRuns (s : State) (runs : List (Nat × Nat)) (h : s.memOk) : (s.flushRuns runs).memOk :=
  memOk_foldl _ (fun s _ hs => memOk_flushLine s _ _ hs) _ _ h
theorem memOk_flushCore (s : State) (core : Nat) (h : s.memOk) : (s.flushCore core).memOk :=
  memOk_foldl _ (fun s _ hs => memOk_flushLine s _ _ hs) _ _ h
/-- Reads and writes of the engines. -/
theorem memOk_engineRead (s : State) (c : Nat) (k : Bool) (runs : List (Nat × Nat)) (h : s.memOk) : (s.engineRead c k runs).1.memOk := by
  refine memOk_foldl _ (fun s a hs => ?_) _ _ (memOk_flushRuns s runs h)
  split
  · exact hs
  · simpa [State.memOk] using hs
theorem memOk_engineWrite (s : State) (runs : List (Nat × Nat)) (bs : List Byte) (h : s.memOk) : (s.engineWrite runs bs).memOk := by
  refine Memory.wf_writeRuns _ _ _ (memOk_foldl _ (fun s a hs => ?_) _ _ (memOk_flushRuns s runs h))
  simpa [State.memOk] using hs
/-- Writes to the image of a team. -/
theorem memOk_writeImage (s : State) (t : Team) (off : Nat) (b : List Byte) (h : s.memOk) : (s.writeImage t off b).memOk :=
  Memory.wf_writeBytes _ _ _ h
theorem memOk_onImage (s : State) (t : Team) (g : Nat) (f : Group → Group) (h : s.memOk) : (s.onImage t g f).memOk := by
  unfold State.onImage
  split
  · exact memOk_writeImage _ _ _ _ h
  · exact h
theorem memOk_onLate (s : State) (tid g : Nat) (f : Group → Group) (h : s.memOk) : (s.onLate tid g f).memOk := by
  unfold State.onLate
  split
  · exact h
  · split <;> exact memOk_onImage _ _ _ _ h
theorem memOk_putSreg (s : State) (tid g r : Nat) (v : DWord) (h : s.memOk) : (s.putSreg tid g r v).memOk := memOk_onLate _ _ _ _ h
theorem memOk_putRegs (s : State) (tid g : Nat) (l : List (Nat × VReg)) (h : s.memOk) : (s.putRegs tid g l).memOk := memOk_onLate _ _ _ _ h
theorem memOk_putPair (s : State) (tid g d : Nat) (v : DWord) (h : s.memOk) : (s.putPair tid g d v).memOk := by
  unfold State.putPair
  split
  · exact h
  · exact memOk_putRegs _ _ _ _ h
/-- A word of ensign memory, a record of an error ring. -/
theorem memOk_ensPut (s : State) (off v : Nat) (h : s.memOk) : (s.ensPut off v).memOk := Memory.wf_write 8 _ _ _ h
theorem memOk_logError (s : State) (c k x u : Nat) (a : DWord) (h : s.memOk) : (s.logError c k x u a).memOk := by
  unfold State.logError
  cases s.ctxDesc c with
  | none => exact h
  | some d =>
    dsimp only
    split
    · exact h
    · unfold State.memOk
      dsimp only
      exact Memory.wf_writeBytes _ _ _ h

end Sys2Proof.Machine
end

