-- ==== Sys2Proof/Laws/Keep.lean ====
section
/-! SUPPORT. Which of the shared operations leave memory, the outstanding operations, their numbering and the launches alone, and how the
numbering of the operations goes on where they do not. -/

namespace Sys2Proof.Machine
open Sys2Proof

/-! ### The numbering of the outstanding operations -/

/-- Every operation of `t` was one of `s` or has a number given since. -/
def OpsFrom (s t : State) : Prop :=
  s.nextOp ≤ t.nextOp ∧ ∀ o ∈ t.ops, (∃ p ∈ s.ops, p.id = o.id) ∨ (s.nextOp ≤ o.id ∧ o.id < t.nextOp)
theorem OpsFrom.refl (s : State) : OpsFrom s s := ⟨Nat.le_refl _, fun o h => .inl ⟨o, h, rfl⟩⟩
theorem OpsFrom.trans {s t u : State} (h1 : OpsFrom s t) (h2 : OpsFrom t u) : OpsFrom s u := by
  refine ⟨Nat.le_trans h1.1 h2.1, fun o ho => ?_⟩
  rcases h2.2 o ho with ⟨p, hp, e⟩ | ⟨a, b⟩
  · rcases h1.2 p hp with ⟨q, hq, e'⟩ | ⟨a, b⟩
    · exact .inl ⟨q, hq, e'.trans e⟩
    · exact .inr ⟨e ▸ a, e ▸ Nat.lt_of_lt_of_le b h2.1⟩
  · exact .inr ⟨Nat.le_trans h1.1 a, b⟩
/-- A state with the operations and the next number of another. -/
theorem OpsFrom.of_eq {s t : State} (h1 : t.ops = s.ops) (h2 : t.nextOp = s.nextOp) : OpsFrom s t :=
  ⟨h2 ▸ Nat.le_refl _, fun o h => .inl ⟨o, h1 ▸ h, rfl⟩⟩
/-- Ending operations. -/
theorem OpsFrom.endOp (s : State) (id : Nat) : OpsFrom s (s.endOp id) :=
  ⟨Nat.le_refl _, fun o h => .inl ⟨o, (List.mem_filter.mp h).1, rfl⟩⟩
/-- Replacing one. -/
theorem OpsFrom.putOp (s : State) (x : Op) : OpsFrom s (s.putOp x) := by
  refine ⟨Nat.le_refl _, fun o h => ?_⟩
  simp only [putOp_ops, List.mem_map] at h
  obtain ⟨y, hy, e⟩ := h
  split at e
  · rename_i hi
    exact .inl ⟨y, hy, by subst e; simpa using hi⟩
  · exact .inl ⟨y, hy, by rw [e]⟩
/-- Issuing one, under the next number. -/
theorem OpsFrom.addOp (s : State) (x : Op) (h : x.id = s.nextOp) : OpsFrom s (s.addOp x) := by
  refine ⟨Nat.le_succ _, fun o ho => ?_⟩
  rcases List.mem_append.mp ho with hs | hx
  · exact .inl ⟨o, hs, rfl⟩
  · rw [List.mem_singleton.mp hx, h]
    exact .inr ⟨Nat.le_refl _, Nat.lt_succ_self _⟩
theorem OpsFrom.foldl {α : Type} (f : State → α → State) (hf : ∀ s a, OpsFrom s (f s a)) :
    ∀ (l : List α) (s : State), OpsFrom s (l.foldl f s)
  | [], s => OpsFrom.refl s
  | a :: t, s => (hf s a).trans (OpsFrom.foldl f hf t (f s a))

/-! ### What the shared operations leave alone -/

/-- A fold of operations that leave something alone leaves it alone. -/
theorem foldl_field {α β : Type} (p : State → β) (f : State → α → State) (hf : ∀ s a, p (f s a) = p s) :
    ∀ (l : List α) (s : State), p (l.foldl f s) = p s
  | [], _ => rfl
  | a :: t, s => (foldl_field p f hf t (f s a)).trans (hf s a)
@[simp] theorem settleOp_nextOp (s : State) (due : Option Nat → Bool) (o : Op) : (s.settleOp due o).nextOp = s.nextOp := by unfold State.settleOp; (try dsimp only); (repeat' split) <;> first | rfl | simp | exact foldl_field (fun s => s.nextOp) _ (by intros; (try dsimp only); (repeat' split) <;> first | rfl | simp) _ _
@[simp] theorem settleOp_mem (s : State) (due : Option Nat → Bool) (o : Op) : (s.settleOp due o).mem = s.mem := by unfold State.settleOp; (try dsimp only); (repeat' split) <;> first | rfl | simp | exact foldl_field (fun s => s.mem) _ (by intros; (try dsimp only); (repeat' split) <;> first | rfl | simp) _ _
@[simp] theorem settleOp_launches (s : State) (due : Option Nat → Bool) (o : Op) : (s.settleOp due o).launches = s.launches := by unfold State.settleOp; (try dsimp only); (repeat' split) <;> first | rfl | simp | exact foldl_field (fun s => s.launches) _ (by intros; (try dsimp only); (repeat' split) <;> first | rfl | simp) _ _
@[simp] theorem putWho_ops (s : State) (w : Who) (f : Fragment) : (s.putWho w f).ops = s.ops := rfl
@[simp] theorem putWho_nextOp (s : State) (w : Who) (f : Fragment) : (s.putWho w f).nextOp = s.nextOp := rfl
@[simp] theorem putWho_mem (s : State) (w : Who) (f : Fragment) : (s.putWho w f).mem = s.mem := rfl
@[simp] theorem putWho_launches (s : State) (w : Who) (f : Fragment) : (s.putWho w f).launches = s.launches := rfl
@[simp] theorem onFrag_ops (s : State) (w : Who) (f : Fragment → Fragment) : (s.onFrag w f).ops = s.ops := rfl
@[simp] theorem onFrag_nextOp (s : State) (w : Who) (f : Fragment → Fragment) : (s.onFrag w f).nextOp = s.nextOp := rfl
@[simp] theorem onFrag_mem (s : State) (w : Who) (f : Fragment → Fragment) : (s.onFrag w f).mem = s.mem := rfl
@[simp] theorem onFrag_launches (s : State) (w : Who) (f : Fragment → Fragment) : (s.onFrag w f).launches = s.launches := rfl
@[simp] theorem setS_ops (s : State) (w : Who) (g r : Nat) (v : DWord) : (s.setS w g r v).ops = s.ops := by unfold State.setS; split <;> rfl
@[simp] theorem setS_nextOp (s : State) (w : Who) (g r : Nat) (v : DWord) : (s.setS w g r v).nextOp = s.nextOp := by unfold State.setS; split <;> rfl
@[simp] theorem setS_mem (s : State) (w : Who) (g r : Nat) (v : DWord) : (s.setS w g r v).mem = s.mem := by unfold State.setS; split <;> rfl
@[simp] theorem setS_launches (s : State) (w : Who) (g r : Nat) (v : DWord) : (s.setS w g r v).launches = s.launches := by unfold State.setS; split <;> rfl
@[simp] theorem setAllS_ops (s : State) (w : Who) (r : Nat) (v : Nat → DWord) : (s.setAllS w r v).ops = s.ops := by unfold State.setAllS; exact foldl_field (fun s => s.ops) _ (by intros; simp) _ _
@[simp] theorem setAllS_nextOp (s : State) (w : Who) (r : Nat) (v : Nat → DWord) : (s.setAllS w r v).nextOp = s.nextOp := by unfold State.setAllS; exact foldl_field (fun s => s.nextOp) _ (by intros; simp) _ _
@[simp] theorem setAllS_mem (s : State) (w : Who) (r : Nat) (v : Nat → DWord) : (s.setAllS w r v).mem = s.mem := by unfold State.setAllS; exact foldl_field (fun s => s.mem) _ (by intros; simp) _ _
@[simp] theorem setAllS_launches (s : State) (w : Who) (r : Nat) (v : Nat → DWord) : (s.setAllS w r v).launches = s.launches := by unfold State.setAllS; exact foldl_field (fun s => s.launches) _ (by intros; simp) _ _
@[simp] theorem raiseF_ops (s : State) (w : Who) (g : Nat) (bits : BitVec 6) : (s.raiseF w g bits).ops = s.ops := by unfold State.raiseF; (repeat' split) <;> rfl
@[simp] theorem raiseF_nextOp (s : State) (w : Who) (g : Nat) (bits : BitVec 6) : (s.raiseF w g bits).nextOp = s.nextOp := by unfold State.raiseF; (repeat' split) <;> rfl
@[simp] theorem raiseF_mem (s : State) (w : Who) (g : Nat) (bits : BitVec 6) : (s.raiseF w g bits).mem = s.mem := by unfold State.raiseF; (repeat' split) <;> rfl
@[simp] theorem raiseF_launches (s : State) (w : Who) (g : Nat) (bits : BitVec 6) : (s.raiseF w g bits).launches = s.launches := by unfold State.raiseF; (repeat' split) <;> rfl
@[simp] theorem imprecise_ops (s : State) (o : Op) (cause : Nat) (info : DWord) : (s.imprecise o cause info).ops = s.ops := by unfold State.imprecise; split <;> rfl
@[simp] theorem imprecise_nextOp (s : State) (o : Op) (cause : Nat) (info : DWord) : (s.imprecise o cause info).nextOp = s.nextOp := by unfold State.imprecise; split <;> rfl
@[simp] theorem imprecise_mem (s : State) (o : Op) (cause : Nat) (info : DWord) : (s.imprecise o cause info).mem = s.mem := by unfold State.imprecise; split <;> rfl
@[simp] theorem imprecise_launches (s : State) (o : Op) (cause : Nat) (info : DWord) : (s.imprecise o cause info).launches = s.launches := by unfold State.imprecise; split <;> rfl
@[simp] theorem book_ops (s : State) (ctx : Nat) (team : Option Nat) (a : Nat) : (s.book ctx team a).ops = s.ops := by unfold State.book; split <;> rfl
@[simp] theorem book_nextOp (s : State) (ctx : Nat) (team : Option Nat) (a : Nat) : (s.book ctx team a).nextOp = s.nextOp := by unfold State.book; split <;> rfl
@[simp] theorem book_mem (s : State) (ctx : Nat) (team : Option Nat) (a : Nat) : (s.book ctx team a).mem = s.mem := by unfold State.book; split <;> rfl
@[simp] theorem book_launches (s : State) (ctx : Nat) (team : Option Nat) (a : Nat) : (s.book ctx team a).launches = s.launches := by unfold State.book; split <;> rfl
@[simp] theorem charge_ops (s : State) (ctx : Nat) (team : Option Nat) (k d n : Nat) : (s.charge ctx team k d n).ops = s.ops := by unfold State.charge; split <;> simp
@[simp] theorem charge_nextOp (s : State) (ctx : Nat) (team : Option Nat) (k d n : Nat) : (s.charge ctx team k d n).nextOp = s.nextOp := by unfold State.charge; split <;> simp
@[simp] theorem charge_mem (s : State) (ctx : Nat) (team : Option Nat) (k d n : Nat) : (s.charge ctx team k d n).mem = s.mem := by unfold State.charge; split <;> simp
@[simp] theorem charge_launches (s : State) (ctx : Nat) (team : Option Nat) (k d n : Nat) : (s.charge ctx team k d n).launches = s.launches := by unfold State.charge; split <;> simp
@[simp] theorem chargeMove_ops (s : State) (t : Team) (n : Nat) : (s.chargeMove t n).ops = s.ops := by simp [State.chargeMove]
@[simp] theorem chargeMove_nextOp (s : State) (t : Team) (n : Nat) : (s.chargeMove t n).nextOp = s.nextOp := by simp [State.chargeMove]
@[simp] theorem chargeMove_mem (s : State) (t : Team) (n : Nat) : (s.chargeMove t n).mem = s.mem := by simp [State.chargeMove]
@[simp] theorem chargeMove_launches (s : State) (t : Team) (n : Nat) : (s.chargeMove t n).launches = s.launches := by simp [State.chargeMove]
@[simp] theorem retire_ops (s : State) (w : Who) (fall : Bool) : (s.retire w fall).ops = s.ops := by unfold State.retire; split <;> rfl
@[simp] theorem retire_nextOp (s : State) (w : Who) (fall : Bool) : (s.retire w fall).nextOp = s.nextOp := by unfold State.retire; split <;> rfl
@[simp] theorem retire_mem (s : State) (w : Who) (fall : Bool) : (s.retire w fall).mem = s.mem := by unfold State.retire; split <;> rfl
@[simp] theorem retire_launches (s : State) (w : Who) (fall : Bool) : (s.retire w fall).launches = s.launches := by unfold State.retire; split <;> rfl
@[simp] theorem reopen_ops (s : State) (w : Who) : (s.reopen w).ops = s.ops := by unfold State.reopen; split <;> rfl
@[simp] theorem reopen_nextOp (s : State) (w : Who) : (s.reopen w).nextOp = s.nextOp := by unfold State.reopen; split <;> rfl
@[simp] theorem reopen_mem (s : State) (w : Who) : (s.reopen w).mem = s.mem := by unfold State.reopen; split <;> rfl
@[simp] theorem reopen_launches (s : State) (w : Who) : (s.reopen w).launches = s.launches := by unfold State.reopen; split <;> rfl
@[simp] theorem putV_ops (s : State) (w : Who) (l : List VWrite) : (s.putV w l).ops = s.ops := by unfold State.putV; exact foldl_field (fun s => s.ops) _ (by intros; simp) _ _
@[simp] theorem putV_nextOp (s : State) (w : Who) (l : List VWrite) : (s.putV w l).nextOp = s.nextOp := by unfold State.putV; exact foldl_field (fun s => s.nextOp) _ (by intros; simp) _ _
@[simp] theorem putV_mem (s : State) (w : Who) (l : List VWrite) : (s.putV w l).mem = s.mem := by unfold State.putV; exact foldl_field (fun s => s.mem) _ (by intros; simp) _ _
@[simp] theorem putV_launches (s : State) (w : Who) (l : List VWrite) : (s.putV w l).launches = s.launches := by unfold State.putV; exact foldl_field (fun s => s.launches) _ (by intros; simp) _ _
@[simp] theorem setQual_ops (s : State) (w : Who) (msk : MaskField) (d : Nat) (f : Nat → DWord) : (s.setQual w msk d f).ops = s.ops := by unfold State.setQual; exact foldl_field (fun s => s.ops) _ (by intros; simp) _ _
@[simp] theorem setQual_nextOp (s : State) (w : Who) (msk : MaskField) (d : Nat) (f : Nat → DWord) : (s.setQual w msk d f).nextOp = s.nextOp := by unfold State.setQual; exact foldl_field (fun s => s.nextOp) _ (by intros; simp) _ _
@[simp] theorem setQual_mem (s : State) (w : Who) (msk : MaskField) (d : Nat) (f : Nat → DWord) : (s.setQual w msk d f).mem = s.mem := by unfold State.setQual; exact foldl_field (fun s => s.mem) _ (by intros; simp) _ _
@[simp] theorem setQual_launches (s : State) (w : Who) (msk : MaskField) (d : Nat) (f : Nat → DWord) : (s.setQual w msk d f).launches = s.launches := by unfold State.setQual; exact foldl_field (fun s => s.launches) _ (by intros; simp) _ _
@[simp] theorem idle_ops (s : State) : s.idle.ops = s.ops := rfl
@[simp] theorem idle_nextOp (s : State) : s.idle.nextOp = s.nextOp := rfl
@[simp] theorem idle_mem (s : State) : s.idle.mem = s.mem := rfl
@[simp] theorem idle_launches (s : State) : s.idle.launches = s.launches := rfl
@[simp] theorem setFstat_ops (s : State) (w : Who) (f : Nat → FBits → FBits) : (s.setFstat w f).ops = s.ops := by unfold State.setFstat; exact foldl_field (fun s => s.ops) _ (by intros; simp) _ _
@[simp] theorem setFstat_nextOp (s : State) (w : Who) (f : Nat → FBits → FBits) : (s.setFstat w f).nextOp = s.nextOp := by unfold State.setFstat; exact foldl_field (fun s => s.nextOp) _ (by intros; simp) _ _
@[simp] theorem setFstat_mem (s : State) (w : Who) (f : Nat → FBits → FBits) : (s.setFstat w f).mem = s.mem := by unfold State.setFstat; exact foldl_field (fun s => s.mem) _ (by intros; simp) _ _
@[simp] theorem setFstat_launches (s : State) (w : Who) (f : Nat → FBits → FBits) : (s.setFstat w f).launches = s.launches := by unfold State.setFstat; exact foldl_field (fun s => s.launches) _ (by intros; simp) _ _
@[simp] theorem writeImage_ops (s : State) (t : Team) (off : Nat) (b : List Byte) : (s.writeImage t off b).ops = s.ops := rfl
@[simp] theorem writeImage_nextOp (s : State) (t : Team) (off : Nat) (b : List Byte) : (s.writeImage t off b).nextOp = s.nextOp := rfl
@[simp] theorem writeImage_launches (s : State) (t : Team) (off : Nat) (b : List Byte) : (s.writeImage t off b).launches = s.launches := rfl
@[simp] theorem onImage_ops (s : State) (t : Team) (g : Nat) (f : Group → Group) : (s.onImage t g f).ops = s.ops := by unfold State.onImage; split; exacts [writeImage_ops _ _ _ _, rfl]
@[simp] theorem onLate_ops (s : State) (tid g : Nat) (f : Group → Group) : (s.onLate tid g f).ops = s.ops := by unfold State.onLate; (repeat' split) <;> first | simp only [onGroup_ops, onImage_ops] | rfl
@[simp] theorem onImage_nextOp (s : State) (t : Team) (g : Nat) (f : Group → Group) : (s.onImage t g f).nextOp = s.nextOp := by unfold State.onImage; split; exacts [writeImage_nextOp _ _ _ _, rfl]
@[simp] theorem onLate_nextOp (s : State) (tid g : Nat) (f : Group → Group) : (s.onLate tid g f).nextOp = s.nextOp := by unfold State.onLate; (repeat' split) <;> first | simp only [onGroup_nextOp, onImage_nextOp] | rfl
@[simp] theorem onImage_launches (s : State) (t : Team) (g : Nat) (f : Group → Group) : (s.onImage t g f).launches = s.launches := by unfold State.onImage; split; exacts [writeImage_launches _ _ _ _, rfl]
@[simp] theorem onLate_launches (s : State) (tid g : Nat) (f : Group → Group) : (s.onLate tid g f).launches = s.launches := by unfold State.onLate; (repeat' split) <;> first | simp only [onGroup_launches, onImage_launches] | rfl
@[simp] theorem putRegs_ops (s : State) (tid g : Nat) (l : List (Nat × VReg)) : (s.putRegs tid g l).ops = s.ops := by simp [State.putRegs]
@[simp] theorem putRegs_nextOp (s : State) (tid g : Nat) (l : List (Nat × VReg)) : (s.putRegs tid g l).nextOp = s.nextOp := by simp [State.putRegs]
@[simp] theorem putRegs_launches (s : State) (tid g : Nat) (l : List (Nat × VReg)) : (s.putRegs tid g l).launches = s.launches := by simp [State.putRegs]
@[simp] theorem putSreg_ops (s : State) (tid g r : Nat) (v : DWord) : (s.putSreg tid g r v).ops = s.ops := by simp [State.putSreg]
@[simp] theorem putSreg_nextOp (s : State) (tid g r : Nat) (v : DWord) : (s.putSreg tid g r v).nextOp = s.nextOp := by simp [State.putSreg]
@[simp] theorem putSreg_launches (s : State) (tid g r : Nat) (v : DWord) : (s.putSreg tid g r v).launches = s.launches := by simp [State.putSreg]
@[simp] theorem putPair_ops (s : State) (tid g d : Nat) (v : DWord) : (s.putPair tid g d v).ops = s.ops := by unfold State.putPair; split <;> simp
@[simp] theorem putPair_nextOp (s : State) (tid g d : Nat) (v : DWord) : (s.putPair tid g d v).nextOp = s.nextOp := by unfold State.putPair; split <;> simp
@[simp] theorem putPair_launches (s : State) (tid g d : Nat) (v : DWord) : (s.putPair tid g d v).launches = s.launches := by unfold State.putPair; split <;> simp
@[simp] theorem closeStation_nextOp (s : State) (tid g : Nat) : (s.closeStation tid g).nextOp = s.nextOp := by unfold State.closeStation; split <;> simp
@[simp] theorem closeStation_launches (s : State) (tid g : Nat) : (s.closeStation tid g).launches = s.launches := by unfold State.closeStation; split <;> simp
@[simp] theorem closeBelow_nextOp (s : State) (tid g gen : Nat) : (s.closeBelow tid g gen).nextOp = s.nextOp := by unfold State.closeBelow; (repeat' split) <;> simp
@[simp] theorem closeBelow_launches (s : State) (tid g gen : Nat) : (s.closeBelow tid g gen).launches = s.launches := by unfold State.closeBelow; (repeat' split) <;> simp
@[simp] theorem growSlabs_ops (s : State) (tid : Nat) (gs : List Nat) (gen : Nat) : (s.growSlabs tid gs gen).ops = s.ops := by unfold State.growSlabs; split <;> rfl
@[simp] theorem growSlabs_nextOp (s : State) (tid : Nat) (gs : List Nat) (gen : Nat) : (s.growSlabs tid gs gen).nextOp = s.nextOp := by unfold State.growSlabs; split <;> rfl
@[simp] theorem growSlabs_mem (s : State) (tid : Nat) (gs : List Nat) (gen : Nat) : (s.growSlabs tid gs gen).mem = s.mem := by unfold State.growSlabs; split <;> rfl
@[simp] theorem growSlabs_launches (s : State) (tid : Nat) (gs : List Nat) (gen : Nat) : (s.growSlabs tid gs gen).launches = s.launches := by unfold State.growSlabs; split <;> rfl
@[simp] theorem shrinkSlabs_ops (s : State) (tid : Nat) (gs : List Nat) (gen : Nat) : (s.shrinkSlabs tid gs gen).ops = s.ops := by unfold State.shrinkSlabs; (try dsimp only); (repeat' split) <;> first | rfl | simp | exact foldl_field (fun s => s.ops) _ (by intros; (try dsimp only); (repeat' split) <;> first | rfl | simp) _ _
@[simp] theorem shrinkSlabs_nextOp (s : State) (tid : Nat) (gs : List Nat) (gen : Nat) : (s.shrinkSlabs tid gs gen).nextOp = s.nextOp := by unfold State.shrinkSlabs; (try dsimp only); (repeat' split) <;> first | rfl | simp | exact foldl_field (fun s => s.nextOp) _ (by intros; (try dsimp only); (repeat' split) <;> first | rfl | simp) _ _
@[simp] theorem shrinkSlabs_mem (s : State) (tid : Nat) (gs : List Nat) (gen : Nat) : (s.shrinkSlabs tid gs gen).mem = s.mem := by unfold State.shrinkSlabs; (try dsimp only); (repeat' split) <;> first | rfl | simp | exact foldl_field (fun s => s.mem) _ (by intros; (try dsimp only); (repeat' split) <;> first | rfl | simp) _ _
@[simp] theorem shrinkSlabs_launches (s : State) (tid : Nat) (gs : List Nat) (gen : Nat) : (s.shrinkSlabs tid gs gen).launches = s.launches := by unfold State.shrinkSlabs; (try dsimp only); (repeat' split) <;> first | rfl | simp | exact foldl_field (fun s => s.launches) _ (by intros; (try dsimp only); (repeat' split) <;> first | rfl | simp) _ _
@[simp] theorem chargeSector_ops (s : State) (ctx : Nat) (team : Option Nat) (sec : Nat) : (s.chargeSector ctx team sec).ops = s.ops := by unfold State.chargeSector; (try dsimp only); (repeat' split) <;> first | rfl | simp | exact foldl_field (fun s => s.ops) _ (by intros; (try dsimp only); (repeat' split) <;> first | rfl | simp) _ _
@[simp] theorem chargeSector_nextOp (s : State) (ctx : Nat) (team : Option Nat) (sec : Nat) : (s.chargeSector ctx team sec).nextOp = s.nextOp := by unfold State.chargeSector; (try dsimp only); (repeat' split) <;> first | rfl | simp | exact foldl_field (fun s => s.nextOp) _ (by intros; (try dsimp only); (repeat' split) <;> first | rfl | simp) _ _
@[simp] theorem chargeSector_mem (s : State) (ctx : Nat) (team : Option Nat) (sec : Nat) : (s.chargeSector ctx team sec).mem = s.mem := by unfold State.chargeSector; (try dsimp only); (repeat' split) <;> first | rfl | simp | exact foldl_field (fun s => s.mem) _ (by intros; (try dsimp only); (repeat' split) <;> first | rfl | simp) _ _
@[simp] theorem chargeSector_launches (s : State) (ctx : Nat) (team : Option Nat) (sec : Nat) : (s.chargeSector ctx team sec).launches = s.launches := by unfold State.chargeSector; (try dsimp only); (repeat' split) <;> first | rfl | simp | exact foldl_field (fun s => s.launches) _ (by intros; (try dsimp only); (repeat' split) <;> first | rfl | simp) _ _
@[simp] theorem chargeRuns_ops (s : State) (ctx : Nat) (team : Option Nat) (runs : List (Nat × Nat)) : (s.chargeRuns ctx team runs).ops = s.ops := by simp [State.chargeRuns, foldl_field (fun s => s.ops)]
@[simp] theorem chargeRuns_nextOp (s : State) (ctx : Nat) (team : Option Nat) (runs : List (Nat × Nat)) : (s.chargeRuns ctx team runs).nextOp = s.nextOp := by simp [State.chargeRuns, foldl_field (fun s => s.nextOp)]
@[simp] theorem chargeRuns_mem (s : State) (ctx : Nat) (team : Option Nat) (runs : List (Nat × Nat)) : (s.chargeRuns ctx team runs).mem = s.mem := by simp [State.chargeRuns, foldl_field (fun s => s.mem)]
@[simp] theorem chargeRuns_launches (s : State) (ctx : Nat) (team : Option Nat) (runs : List (Nat × Nat)) : (s.chargeRuns ctx team runs).launches = s.launches := by simp [State.chargeRuns, foldl_field (fun s => s.launches)]
@[simp] theorem chargePacket_ops (s : State) (port : Nat) (p : Packet) : (s.chargePacket port p).ops = s.ops := by simp [State.chargePacket]
@[simp] theorem chargePacket_nextOp (s : State) (port : Nat) (p : Packet) : (s.chargePacket port p).nextOp = s.nextOp := by simp [State.chargePacket]
@[simp] theorem chargePacket_mem (s : State) (port : Nat) (p : Packet) : (s.chargePacket port p).mem = s.mem := by simp [State.chargePacket]
@[simp] theorem chargePacket_launches (s : State) (port : Nat) (p : Packet) : (s.chargePacket port p).launches = s.launches := by simp [State.chargePacket]
@[simp] theorem chargeRead_ops (s : State) (ctx key n : Nat) : (s.chargeRead ctx key n).ops = s.ops := by simp [State.chargeRead]
@[simp] theorem chargeRead_nextOp (s : State) (ctx key n : Nat) : (s.chargeRead ctx key n).nextOp = s.nextOp := by simp [State.chargeRead]
@[simp] theorem chargeRead_mem (s : State) (ctx key n : Nat) : (s.chargeRead ctx key n).mem = s.mem := by simp [State.chargeRead]
@[simp] theorem chargeRead_launches (s : State) (ctx key n : Nat) : (s.chargeRead ctx key n).launches = s.launches := by simp [State.chargeRead]
@[simp] theorem chargeRecord_ops (s : State) (ctx : Nat) : (s.chargeRecord ctx).ops = s.ops := rfl
@[simp] theorem chargeRecord_nextOp (s : State) (ctx : Nat) : (s.chargeRecord ctx).nextOp = s.nextOp := rfl
@[simp] theorem chargeRecord_mem (s : State) (ctx : Nat) : (s.chargeRecord ctx).mem = s.mem := rfl
@[simp] theorem chargeRecord_launches (s : State) (ctx : Nat) : (s.chargeRecord ctx).launches = s.launches := rfl
@[simp] theorem bookWork_ops (s : State) (w : Who) (i : Instr) : (s.bookWork w i).ops = s.ops := by unfold State.bookWork; (repeat' split) <;> simp
@[simp] theorem bookWork_nextOp (s : State) (w : Who) (i : Instr) : (s.bookWork w i).nextOp = s.nextOp := by unfold State.bookWork; (repeat' split) <;> simp
@[simp] theorem bookWork_mem (s : State) (w : Who) (i : Instr) : (s.bookWork w i).mem = s.mem := by unfold State.bookWork; (repeat' split) <;> simp
@[simp] theorem bookWork_launches (s : State) (w : Who) (i : Instr) : (s.bookWork w i).launches = s.launches := by unfold State.bookWork; (repeat' split) <;> simp
@[simp] theorem putStamp_ops (s : State) (sec : Nat) (st : Stamp) : (s.putStamp sec st).ops = s.ops := rfl
@[simp] theorem putStamp_nextOp (s : State) (sec : Nat) (st : Stamp) : (s.putStamp sec st).nextOp = s.nextOp := rfl
@[simp] theorem putStamp_launches (s : State) (sec : Nat) (st : Stamp) : (s.putStamp sec st).launches = s.launches := rfl
@[simp] theorem writeback_ops (s : State) (sec : Nat) : (s.writeback sec).ops = s.ops := rfl
@[simp] theorem writeback_nextOp (s : State) (sec : Nat) : (s.writeback sec).nextOp = s.nextOp := rfl
@[simp] theorem writeback_launches (s : State) (sec : Nat) : (s.writeback sec).launches = s.launches := rfl
@[simp] theorem homeRead_ops (s : State) (p lease : BitVec 16) (sec : Nat) : (s.homeRead p lease sec).1.ops = s.ops := rfl
@[simp] theorem homeRead_nextOp (s : State) (p lease : BitVec 16) (sec : Nat) : (s.homeRead p lease sec).1.nextOp = s.nextOp := rfl
@[simp] theorem homeRead_launches (s : State) (p lease : BitVec 16) (sec : Nat) : (s.homeRead p lease sec).1.launches = s.launches := rfl
@[simp] theorem homeStamp_ops (s : State) (p : BitVec 16) (sec : Nat) : (s.homeStamp p sec).1.ops = s.ops := rfl
@[simp] theorem homeStamp_nextOp (s : State) (p : BitVec 16) (sec : Nat) : (s.homeStamp p sec).1.nextOp = s.nextOp := rfl
@[simp] theorem homeStamp_launches (s : State) (p : BitVec 16) (sec : Nat) : (s.homeStamp p sec).1.launches = s.launches := rfl
@[simp] theorem atomAt_ops (s : State) (p : BitVec 16) (lease key n fn : Nat) (signed : Bool) (b c : Nat) : (s.atomAt p lease key n fn signed b c).1.ops = s.ops := by unfold State.atomAt; split <;> rfl
@[simp] theorem atomAt_nextOp (s : State) (p : BitVec 16) (lease key n fn : Nat) (signed : Bool) (b c : Nat) : (s.atomAt p lease key n fn signed b c).1.nextOp = s.nextOp := by unfold State.atomAt; split <;> rfl
@[simp] theorem atomAt_launches (s : State) (p : BitVec 16) (lease key n fn : Nat) (signed : Bool) (b c : Nat) : (s.atomAt p lease key n fn signed b c).1.launches = s.launches := by unfold State.atomAt; split <;> rfl
@[simp] theorem homeAtomic_ops (s : State) (ctx key n fn : Nat) (signed : Bool) (b c : Nat) : (s.homeAtomic ctx key n fn signed b c).1.ops = s.ops := by unfold State.homeAtomic; split <;> simp
@[simp] theorem homeAtomic_nextOp (s : State) (ctx key n fn : Nat) (signed : Bool) (b c : Nat) : (s.homeAtomic ctx key n fn signed b c).1.nextOp = s.nextOp := by unfold State.homeAtomic; split <;> simp
@[simp] theorem homeAtomic_launches (s : State) (ctx key n fn : Nat) (signed : Bool) (b c : Nat) : (s.homeAtomic ctx key n fn signed b c).1.launches = s.launches := by unfold State.homeAtomic; split <;> simp
@[simp] theorem post_ops (s : State) (port input : Nat) (p : Packet) : (s.post port input p).ops = s.ops := rfl
@[simp] theorem post_nextOp (s : State) (port input : Nat) (p : Packet) : (s.post port input p).nextOp = s.nextOp := rfl
@[simp] theorem post_launches (s : State) (port input : Nat) (p : Packet) : (s.post port input p).launches = s.launches := rfl
@[simp] theorem postTo_ops (s : State) (o : Op) (key item : Nat) (load : Payload) : (s.postTo o key item load).ops = s.ops := rfl
@[simp] theorem postTo_nextOp (s : State) (o : Op) (key item : Nat) (load : Payload) : (s.postTo o key item load).nextOp = s.nextOp := rfl
@[simp] theorem postTo_launches (s : State) (o : Op) (key item : Nat) (load : Payload) : (s.postTo o key item load).launches = s.launches := rfl
@[simp] theorem postRoute_ops (s : State) (o : Op) (pkg va item : Nat) (load : Payload) : (s.postRoute o pkg va item load).ops = s.ops := rfl
@[simp] theorem postRoute_nextOp (s : State) (o : Op) (pkg va item : Nat) (load : Payload) : (s.postRoute o pkg va item load).nextOp = s.nextOp := rfl
@[simp] theorem postRoute_mem (s : State) (o : Op) (pkg va item : Nat) (load : Payload) : (s.postRoute o pkg va item load).mem = s.mem := rfl
@[simp] theorem postRoute_launches (s : State) (o : Op) (pkg va item : Nat) (load : Payload) : (s.postRoute o pkg va item load).launches = s.launches := rfl
@[simp] theorem linesDone_nextOp (s : State) (ids : List Nat) (line : Nat) : (s.linesDone ids line).nextOp = s.nextOp := rfl
@[simp] theorem linesDone_launches (s : State) (ids : List Nat) (line : Nat) : (s.linesDone ids line).launches = s.launches := rfl
@[simp] theorem keepCopy_ops (s : State) (sec : Nat) (c : LeaseCopy) : (s.keepCopy sec c).ops = s.ops := by unfold State.keepCopy; split <;> rfl
@[simp] theorem keepCopy_nextOp (s : State) (sec : Nat) (c : LeaseCopy) : (s.keepCopy sec c).nextOp = s.nextOp := by unfold State.keepCopy; split <;> rfl
@[simp] theorem keepCopy_launches (s : State) (sec : Nat) (c : LeaseCopy) : (s.keepCopy sec c).launches = s.launches := by unfold State.keepCopy; split <;> rfl
@[simp] theorem leaseRead_ops (s : State) (ctx : Nat) (keep : Bool) (sec : Nat) : (s.leaseRead ctx keep sec).ops = s.ops := by unfold State.leaseRead; split <;> simp
@[simp] theorem leaseRead_nextOp (s : State) (ctx : Nat) (keep : Bool) (sec : Nat) : (s.leaseRead ctx keep sec).nextOp = s.nextOp := by unfold State.leaseRead; split <;> simp
@[simp] theorem leaseRead_launches (s : State) (ctx : Nat) (keep : Bool) (sec : Nat) : (s.leaseRead ctx keep sec).launches = s.launches := by unfold State.leaseRead; split <;> simp
@[simp] theorem logError_ops (s : State) (ctx kind cause unit : Nat) (addr : DWord) : (s.logError ctx kind cause unit addr).ops = s.ops := by unfold State.logError; (try dsimp only); (repeat' split) <;> first | rfl | simp | exact foldl_field (fun s => s.ops) _ (by intros; (try dsimp only); (repeat' split) <;> first | rfl | simp) _ _
@[simp] theorem logError_nextOp (s : State) (ctx kind cause unit : Nat) (addr : DWord) : (s.logError ctx kind cause unit addr).nextOp = s.nextOp := by unfold State.logError; (try dsimp only); (repeat' split) <;> first | rfl | simp | exact foldl_field (fun s => s.nextOp) _ (by intros; (try dsimp only); (repeat' split) <;> first | rfl | simp) _ _
@[simp] theorem logError_launches (s : State) (ctx kind cause unit : Nat) (addr : DWord) : (s.logError ctx kind cause unit addr).launches = s.launches := by unfold State.logError; (try dsimp only); (repeat' split) <;> first | rfl | simp | exact foldl_field (fun s => s.launches) _ (by intros; (try dsimp only); (repeat' split) <;> first | rfl | simp) _ _
@[simp] theorem logPf_ops (s : State) (ctx kind cause unit : Nat) (addr : DWord) : (s.logPf ctx kind cause unit addr).ops = s.ops := rfl
@[simp] theorem logPf_nextOp (s : State) (ctx kind cause unit : Nat) (addr : DWord) : (s.logPf ctx kind cause unit addr).nextOp = s.nextOp := rfl
@[simp] theorem logPf_mem (s : State) (ctx kind cause unit : Nat) (addr : DWord) : (s.logPf ctx kind cause unit addr).mem = s.mem := rfl
@[simp] theorem logPf_launches (s : State) (ctx kind cause unit : Nat) (addr : DWord) : (s.logPf ctx kind cause unit addr).launches = s.launches := rfl
@[simp] theorem deliverError_ops (s : State) (blast : List Nat) (unit : Nat) (addr : DWord) : (s.deliverError blast unit addr).ops = s.ops := by unfold State.deliverError; exact foldl_field (fun s => s.ops) _ (by intros; simp) _ _
@[simp] theorem deliverError_nextOp (s : State) (blast : List Nat) (unit : Nat) (addr : DWord) : (s.deliverError blast unit addr).nextOp = s.nextOp := by unfold State.deliverError; exact foldl_field (fun s => s.nextOp) _ (by intros; simp) _ _
@[simp] theorem deliverError_launches (s : State) (blast : List Nat) (unit : Nat) (addr : DWord) : (s.deliverError blast unit addr).launches = s.launches := by unfold State.deliverError; exact foldl_field (fun s => s.launches) _ (by intros; simp) _ _
@[simp] theorem spillFault_ops (s : State) (t : Team) (fid va : Nat) : (s.spillFault t fid va).ops = s.ops := rfl
@[simp] theorem spillFault_nextOp (s : State) (t : Team) (fid va : Nat) : (s.spillFault t fid va).nextOp = s.nextOp := rfl
@[simp] theorem spillFault_mem (s : State) (t : Team) (fid va : Nat) : (s.spillFault t fid va).mem = s.mem := rfl
@[simp] theorem spillFault_launches (s : State) (t : Team) (fid va : Nat) : (s.spillFault t fid va).launches = s.launches := rfl
@[simp] theorem goTo_ops (s : State) (w : Who) (pc : DWord) : (s.goTo w pc).ops = s.ops := rfl
@[simp] theorem goTo_nextOp (s : State) (w : Who) (pc : DWord) : (s.goTo w pc).nextOp = s.nextOp := rfl
@[simp] theorem goTo_mem (s : State) (w : Who) (pc : DWord) : (s.goTo w pc).mem = s.mem := rfl
@[simp] theorem goTo_launches (s : State) (w : Who) (pc : DWord) : (s.goTo w pc).launches = s.launches := rfl
@[simp] theorem waitBar_ops (s : State) (w : Who) (b : Nat) (tokens : List DWord) : (s.waitBar w b tokens).ops = s.ops := by unfold State.waitBar; (repeat' split) <;> rfl
@[simp] theorem waitBar_nextOp (s : State) (w : Who) (b : Nat) (tokens : List DWord) : (s.waitBar w b tokens).nextOp = s.nextOp := by unfold State.waitBar; (repeat' split) <;> rfl
@[simp] theorem waitBar_mem (s : State) (w : Who) (b : Nat) (tokens : List DWord) : (s.waitBar w b tokens).mem = s.mem := by unfold State.waitBar; (repeat' split) <;> rfl
@[simp] theorem waitBar_launches (s : State) (w : Who) (b : Nat) (tokens : List DWord) : (s.waitBar w b tokens).launches = s.launches := by unfold State.waitBar; (repeat' split) <;> rfl
@[simp] theorem setEn_ops (s : State) (w : Who) (f : Nat → Mask → Mask) : (s.setEn w f).ops = s.ops := rfl
@[simp] theorem setEn_nextOp (s : State) (w : Who) (f : Nat → Mask → Mask) : (s.setEn w f).nextOp = s.nextOp := rfl
@[simp] theorem setEn_mem (s : State) (w : Who) (f : Nat → Mask → Mask) : (s.setEn w f).mem = s.mem := rfl
@[simp] theorem setEn_launches (s : State) (w : Who) (f : Nat → Mask → Mask) : (s.setEn w f).launches = s.launches := rfl
@[simp] theorem reloadLate_ops (s : State) (w : Who) (r : RegRef) : (s.reloadLate w r).ops = s.ops := by unfold State.reloadLate; (repeat' split) <;> rfl
@[simp] theorem reloadLate_nextOp (s : State) (w : Who) (r : RegRef) : (s.reloadLate w r).nextOp = s.nextOp := by unfold State.reloadLate; (repeat' split) <;> rfl
@[simp] theorem reloadLate_mem (s : State) (w : Who) (r : RegRef) : (s.reloadLate w r).mem = s.mem := by unfold State.reloadLate; (repeat' split) <;> rfl
@[simp] theorem reloadLate_launches (s : State) (w : Who) (r : RegRef) : (s.reloadLate w r).launches = s.launches := by unfold State.reloadLate; (repeat' split) <;> rfl
@[simp] theorem sampleAdd_ops (s : State) (ctx granule home : Nat) : (s.sampleAdd ctx granule home).ops = s.ops := rfl
@[simp] theorem sampleAdd_nextOp (s : State) (ctx granule home : Nat) : (s.sampleAdd ctx granule home).nextOp = s.nextOp := rfl
@[simp] theorem sampleAdd_mem (s : State) (ctx granule home : Nat) : (s.sampleAdd ctx granule home).mem = s.mem := rfl
@[simp] theorem sampleAdd_launches (s : State) (ctx granule home : Nat) : (s.sampleAdd ctx granule home).launches = s.launches := rfl
@[simp] theorem notePass_ops (s : State) (t : Team) (va sp : Nat) : (s.notePass t va sp).ops = s.ops := by unfold State.notePass; (try dsimp only); (repeat' split) <;> first | rfl | simp | exact foldl_field (fun s => s.ops) _ (by intros; (try dsimp only); (repeat' split) <;> first | rfl | simp) _ _
@[simp] theorem notePass_nextOp (s : State) (t : Team) (va sp : Nat) : (s.notePass t va sp).nextOp = s.nextOp := by unfold State.notePass; (try dsimp only); (repeat' split) <;> first | rfl | simp | exact foldl_field (fun s => s.nextOp) _ (by intros; (try dsimp only); (repeat' split) <;> first | rfl | simp) _ _
@[simp] theorem notePass_mem (s : State) (t : Team) (va sp : Nat) : (s.notePass t va sp).mem = s.mem := by unfold State.notePass; (try dsimp only); (repeat' split) <;> first | rfl | simp | exact foldl_field (fun s => s.mem) _ (by intros; (try dsimp only); (repeat' split) <;> first | rfl | simp) _ _
@[simp] theorem notePass_launches (s : State) (t : Team) (va sp : Nat) : (s.notePass t va sp).launches = s.launches := by unfold State.notePass; (try dsimp only); (repeat' split) <;> first | rfl | simp | exact foldl_field (fun s => s.launches) _ (by intros; (try dsimp only); (repeat' split) <;> first | rfl | simp) _ _
@[simp] theorem waitMig_ops (s : State) (w : Who) (va : DWord) : (s.waitMig w va).ops = s.ops := rfl
@[simp] theorem waitMig_nextOp (s : State) (w : Who) (va : DWord) : (s.waitMig w va).nextOp = s.nextOp := rfl
@[simp] theorem waitMig_mem (s : State) (w : Who) (va : DWord) : (s.waitMig w va).mem = s.mem := rfl
@[simp] theorem waitMig_launches (s : State) (w : Who) (va : DWord) : (s.waitMig w va).launches = s.launches := rfl
@[simp] theorem notePasses_ops (s : State) (w : Who) (gs : List Nat) (l : List (Want × List (Nat × Nat))) : (s.notePasses w gs l).ops = s.ops := by unfold State.notePasses; (try dsimp only); (repeat' split) <;> first | rfl | simp | exact foldl_field (fun s => s.ops) _ (by intros; (try dsimp only); (repeat' split) <;> first | rfl | simp) _ _
@[simp] theorem notePasses_nextOp (s : State) (w : Who) (gs : List Nat) (l : List (Want × List (Nat × Nat))) : (s.notePasses w gs l).nextOp = s.nextOp := by unfold State.notePasses; (try dsimp only); (repeat' split) <;> first | rfl | simp | exact foldl_field (fun s => s.nextOp) _ (by intros; (try dsimp only); (repeat' split) <;> first | rfl | simp) _ _
@[simp] theorem notePasses_mem (s : State) (w : Who) (gs : List Nat) (l : List (Want × List (Nat × Nat))) : (s.notePasses w gs l).mem = s.mem := by unfold State.notePasses; (try dsimp only); (repeat' split) <;> first | rfl | simp | exact foldl_field (fun s => s.mem) _ (by intros; (try dsimp only); (repeat' split) <;> first | rfl | simp) _ _
@[simp] theorem notePasses_launches (s : State) (w : Who) (gs : List Nat) (l : List (Want × List (Nat × Nat))) : (s.notePasses w gs l).launches = s.launches := by unfold State.notePasses; (try dsimp only); (repeat' split) <;> first | rfl | simp | exact foldl_field (fun s => s.launches) _ (by intros; (try dsimp only); (repeat' split) <;> first | rfl | simp) _ _
@[simp] theorem notePaths_ops (s : State) (w : Who) (runs : List (Nat × Nat)) (bit : Nat) : (s.notePaths w runs bit).ops = s.ops := rfl
@[simp] theorem notePaths_nextOp (s : State) (w : Who) (runs : List (Nat × Nat)) (bit : Nat) : (s.notePaths w runs bit).nextOp = s.nextOp := rfl
@[simp] theorem notePaths_mem (s : State) (w : Who) (runs : List (Nat × Nat)) (bit : Nat) : (s.notePaths w runs bit).mem = s.mem := rfl
@[simp] theorem notePaths_launches (s : State) (w : Who) (runs : List (Nat × Nat)) (bit : Nat) : (s.notePaths w runs bit).launches = s.launches := rfl
@[simp] theorem waitPoll_ops (s : State) (w : Who) (c : DWord) (y : Bool) : (s.waitPoll w c y).ops = s.ops := rfl
@[simp] theorem waitPoll_nextOp (s : State) (w : Who) (c : DWord) (y : Bool) : (s.waitPoll w c y).nextOp = s.nextOp := rfl
@[simp] theorem waitPoll_mem (s : State) (w : Who) (c : DWord) (y : Bool) : (s.waitPoll w c y).mem = s.mem := rfl
@[simp] theorem waitPoll_launches (s : State) (w : Who) (c : DWord) (y : Bool) : (s.waitPoll w c y).launches = s.launches := rfl
@[simp] theorem failOp_nextOp (s : State) (o : Op) (cause : Nat) (va : DWord) : (s.failOp o cause va).nextOp = s.nextOp := by unfold State.failOp; split <;> simp
@[simp] theorem failOp_mem (s : State) (o : Op) (cause : Nat) (va : DWord) : (s.failOp o cause va).mem = s.mem := by unfold State.failOp; split <;> simp
@[simp] theorem failOp_launches (s : State) (o : Op) (cause : Nat) (va : DWord) : (s.failOp o cause va).launches = s.launches := by unfold State.failOp; split <;> simp
@[simp] theorem gatherLane_ops (s : State) (o : Op) (n fn : Nat) (signed : Bool) (x : LaneAcc) : (s.gatherLane o n fn signed x).ops = s.ops := by unfold State.gatherLane; (try dsimp only); (repeat' split) <;> first | rfl | simp | exact foldl_field (fun s => s.ops) _ (by intros; (try dsimp only); (repeat' split) <;> first | rfl | simp) _ _
@[simp] theorem gatherLane_nextOp (s : State) (o : Op) (n fn : Nat) (signed : Bool) (x : LaneAcc) : (s.gatherLane o n fn signed x).nextOp = s.nextOp := by unfold State.gatherLane; (try dsimp only); (repeat' split) <;> first | rfl | simp | exact foldl_field (fun s => s.nextOp) _ (by intros; (try dsimp only); (repeat' split) <;> first | rfl | simp) _ _
@[simp] theorem gatherLane_mem (s : State) (o : Op) (n fn : Nat) (signed : Bool) (x : LaneAcc) : (s.gatherLane o n fn signed x).mem = s.mem := by unfold State.gatherLane; (try dsimp only); (repeat' split) <;> first | rfl | simp | exact foldl_field (fun s => s.mem) _ (by intros; (try dsimp only); (repeat' split) <;> first | rfl | simp) _ _
@[simp] theorem gatherLane_launches (s : State) (o : Op) (n fn : Nat) (signed : Bool) (x : LaneAcc) : (s.gatherLane o n fn signed x).launches = s.launches := by unfold State.gatherLane; (try dsimp only); (repeat' split) <;> first | rfl | simp | exact foldl_field (fun s => s.launches) _ (by intros; (try dsimp only); (repeat' split) <;> first | rfl | simp) _ _
@[simp] theorem onQueue_ops (s : State) (tid g q : Nat) (f : Queue → Queue) : (s.onQueue tid g q f).ops = s.ops := rfl
@[simp] theorem onQueue_nextOp (s : State) (tid g q : Nat) (f : Queue → Queue) : (s.onQueue tid g q f).nextOp = s.nextOp := rfl
@[simp] theorem onQueue_mem (s : State) (tid g q : Nat) (f : Queue → Queue) : (s.onQueue tid g q f).mem = s.mem := rfl
@[simp] theorem onQueue_launches (s : State) (tid g q : Nat) (f : Queue → Queue) : (s.onQueue tid g q f).launches = s.launches := rfl
@[simp] theorem matrixEnd_nextOp (s : State) (o : Op) (m : MatrixOp) (reason : Nat) : (s.matrixEnd o m reason).nextOp = s.nextOp := by simp [State.matrixEnd]
@[simp] theorem matrixEnd_mem (s : State) (o : Op) (m : MatrixOp) (reason : Nat) : (s.matrixEnd o m reason).mem = s.mem := by simp [State.matrixEnd]
@[simp] theorem matrixEnd_launches (s : State) (o : Op) (m : MatrixOp) (reason : Nat) : (s.matrixEnd o m reason).launches = s.launches := by simp [State.matrixEnd]
@[simp] theorem qdefOne_ops (s : State) (w : Who) (d : SReg) (q : QReg) (depth : Nat) (store : Bool) (g : Nat) : (s.qdefOne w d q depth store g).ops = s.ops := by unfold State.qdefOne; (try dsimp only); (repeat' split) <;> first | rfl | simp | exact foldl_field (fun s => s.ops) _ (by intros; (try dsimp only); (repeat' split) <;> first | rfl | simp) _ _
@[simp] theorem qdefOne_nextOp (s : State) (w : Who) (d : SReg) (q : QReg) (depth : Nat) (store : Bool) (g : Nat) : (s.qdefOne w d q depth store g).nextOp = s.nextOp := by unfold State.qdefOne; (try dsimp only); (repeat' split) <;> first | rfl | simp | exact foldl_field (fun s => s.nextOp) _ (by intros; (try dsimp only); (repeat' split) <;> first | rfl | simp) _ _
@[simp] theorem qdefOne_mem (s : State) (w : Who) (d : SReg) (q : QReg) (depth : Nat) (store : Bool) (g : Nat) : (s.qdefOne w d q depth store g).mem = s.mem := by unfold State.qdefOne; (try dsimp only); (repeat' split) <;> first | rfl | simp | exact foldl_field (fun s => s.mem) _ (by intros; (try dsimp only); (repeat' split) <;> first | rfl | simp) _ _
@[simp] theorem qdefOne_launches (s : State) (w : Who) (d : SReg) (q : QReg) (depth : Nat) (store : Bool) (g : Nat) : (s.qdefOne w d q depth store g).launches = s.launches := by unfold State.qdefOne; (try dsimp only); (repeat' split) <;> first | rfl | simp | exact foldl_field (fun s => s.launches) _ (by intros; (try dsimp only); (repeat' split) <;> first | rfl | simp) _ _
@[simp] theorem loadWord_ops (s : State) (w : IWord) : (s.loadWord w).ops = s.ops := rfl
@[simp] theorem loadWord_nextOp (s : State) (w : IWord) : (s.loadWord w).nextOp = s.nextOp := rfl
@[simp] theorem loadWord_launches (s : State) (w : IWord) : (s.loadWord w).launches = s.launches := rfl
@[simp] theorem emptied_ops (s : State) (ctx : Nat) : (s.emptied ctx).ops = s.ops := rfl
@[simp] theorem emptied_nextOp (s : State) (ctx : Nat) : (s.emptied ctx).nextOp = s.nextOp := rfl
@[simp] theorem emptied_mem (s : State) (ctx : Nat) : (s.emptied ctx).mem = s.mem := rfl
@[simp] theorem emptied_launches (s : State) (ctx : Nat) : (s.emptied ctx).launches = s.launches := rfl
@[simp] theorem watchThread_ops (s : State) (t : Team) (x : Thread) : (s.watchThread t x).ops = s.ops := by unfold State.watchThread; split <;> rfl
@[simp] theorem watchThread_nextOp (s : State) (t : Team) (x : Thread) : (s.watchThread t x).nextOp = s.nextOp := by unfold State.watchThread; split <;> rfl
@[simp] theorem watchThread_mem (s : State) (t : Team) (x : Thread) : (s.watchThread t x).mem = s.mem := by unfold State.watchThread; split <;> rfl
@[simp] theorem watchThread_launches (s : State) (t : Team) (x : Thread) : (s.watchThread t x).launches = s.launches := by unfold State.watchThread; split <;> rfl
@[simp] theorem dropCopies_ops (s : State) (ctx : Nat) (p : TierCopy → Bool) (k : Nat × Nat) : (s.dropCopies ctx p k).ops = s.ops := rfl
@[simp] theorem dropCopies_nextOp (s : State) (ctx : Nat) (p : TierCopy → Bool) (k : Nat × Nat) : (s.dropCopies ctx p k).nextOp = s.nextOp := rfl
@[simp] theorem dropCopies_mem (s : State) (ctx : Nat) (p : TierCopy → Bool) (k : Nat × Nat) : (s.dropCopies ctx p k).mem = s.mem := rfl
@[simp] theorem dropCopies_launches (s : State) (ctx : Nat) (p : TierCopy → Bool) (k : Nat × Nat) : (s.dropCopies ctx p k).launches = s.launches := rfl
@[simp] theorem setReason_ops (s : State) (tid k v : Nat) : (s.setReason tid k v).ops = s.ops := rfl
@[simp] theorem setReason_nextOp (s : State) (tid k v : Nat) : (s.setReason tid k v).nextOp = s.nextOp := rfl
@[simp] theorem setReason_mem (s : State) (tid k v : Nat) : (s.setReason tid k v).mem = s.mem := rfl
@[simp] theorem setReason_launches (s : State) (tid k v : Nat) : (s.setReason tid k v).launches = s.launches := rfl
@[simp] theorem dropTierSpan_ops (s : State) (ctx va n : Nat) : (s.dropTierSpan ctx va n).ops = s.ops := rfl
@[simp] theorem dropTierSpan_nextOp (s : State) (ctx va n : Nat) : (s.dropTierSpan ctx va n).nextOp = s.nextOp := rfl
@[simp] theorem dropTierSpan_mem (s : State) (ctx va n : Nat) : (s.dropTierSpan ctx va n).mem = s.mem := rfl
@[simp] theorem dropTierSpan_launches (s : State) (ctx va n : Nat) : (s.dropTierSpan ctx va n).launches = s.launches := rfl
@[simp] theorem endPins_ops (s : State) (launch : Nat) : (s.endPins launch).ops = s.ops := rfl
@[simp] theorem endPins_nextOp (s : State) (launch : Nat) : (s.endPins launch).nextOp = s.nextOp := rfl
@[simp] theorem endPins_mem (s : State) (launch : Nat) : (s.endPins launch).mem = s.mem := rfl
@[simp] theorem endPins_launches (s : State) (launch : Nat) : (s.endPins launch).launches = s.launches := rfl
@[simp] theorem evict_ops (s : State) (t : Team) (e : TEntry) : (s.evict t e).ops = s.ops := by unfold State.evict; exact foldl_field (fun s => s.ops) _ (by intros; simp) _ _
@[simp] theorem evict_nextOp (s : State) (t : Team) (e : TEntry) : (s.evict t e).nextOp = s.nextOp := by unfold State.evict; exact foldl_field (fun s => s.nextOp) _ (by intros; simp) _ _
@[simp] theorem evict_mem (s : State) (t : Team) (e : TEntry) : (s.evict t e).mem = s.mem := by unfold State.evict; exact foldl_field (fun s => s.mem) _ (by intros; simp) _ _
@[simp] theorem evict_launches (s : State) (t : Team) (e : TEntry) : (s.evict t e).launches = s.launches := by unfold State.evict; exact foldl_field (fun s => s.launches) _ (by intros; simp) _ _
@[simp] theorem setMarker_ops (s : State) (tid n : Nat) : (s.setMarker tid n).ops = s.ops := by unfold State.setMarker; (try dsimp only); (repeat' split) <;> first | rfl | simp | exact foldl_field (fun s => s.ops) _ (by intros; (try dsimp only); (repeat' split) <;> first | rfl | simp) _ _
@[simp] theorem setMarker_nextOp (s : State) (tid n : Nat) : (s.setMarker tid n).nextOp = s.nextOp := by unfold State.setMarker; (try dsimp only); (repeat' split) <;> first | rfl | simp | exact foldl_field (fun s => s.nextOp) _ (by intros; (try dsimp only); (repeat' split) <;> first | rfl | simp) _ _
@[simp] theorem setMarker_mem (s : State) (tid n : Nat) : (s.setMarker tid n).mem = s.mem := by unfold State.setMarker; (try dsimp only); (repeat' split) <;> first | rfl | simp | exact foldl_field (fun s => s.mem) _ (by intros; (try dsimp only); (repeat' split) <;> first | rfl | simp) _ _
@[simp] theorem setMarker_launches (s : State) (tid n : Nat) : (s.setMarker tid n).launches = s.launches := by unfold State.setMarker; (try dsimp only); (repeat' split) <;> first | rfl | simp | exact foldl_field (fun s => s.launches) _ (by intros; (try dsimp only); (repeat' split) <;> first | rfl | simp) _ _
@[simp] theorem putLease_ops (s : State) (c : Nat) (v : DWord) : (s.putLease c v).ops = s.ops := by unfold State.putLease; split <;> rfl
@[simp] theorem putLease_nextOp (s : State) (c : Nat) (v : DWord) : (s.putLease c v).nextOp = s.nextOp := by unfold State.putLease; split <;> rfl
@[simp] theorem putLease_mem (s : State) (c : Nat) (v : DWord) : (s.putLease c v).mem = s.mem := by unfold State.putLease; split <;> rfl
@[simp] theorem putLease_launches (s : State) (c : Nat) (v : DWord) : (s.putLease c v).launches = s.launches := by unfold State.putLease; split <;> rfl
@[simp] theorem cpstOne_launches (s : State) (w : Who) (m : CpstArgs) (g : Nat) : (s.cpstOne w m g).launches = s.launches := by unfold State.cpstOne; split <;> simp
@[simp] theorem putItem_nextOp (s : State) (o : Op) (e : EngOp) (k : Nat) (i : Item) : (s.putItem o e k i).nextOp = s.nextOp := rfl
@[simp] theorem putItem_mem (s : State) (o : Op) (e : EngOp) (k : Nat) (i : Item) : (s.putItem o e k i).mem = s.mem := rfl
@[simp] theorem putItem_launches (s : State) (o : Op) (e : EngOp) (k : Nat) (i : Item) : (s.putItem o e k i).launches = s.launches := rfl
@[simp] theorem chargeItem_ops (s : State) (o : Op) (i : Item) : (s.chargeItem o i).ops = s.ops := by simp [State.chargeItem]
@[simp] theorem chargeItem_nextOp (s : State) (o : Op) (i : Item) : (s.chargeItem o i).nextOp = s.nextOp := by simp [State.chargeItem]
@[simp] theorem chargeItem_mem (s : State) (o : Op) (i : Item) : (s.chargeItem o i).mem = s.mem := by simp [State.chargeItem]
@[simp] theorem chargeItem_launches (s : State) (o : Op) (i : Item) : (s.chargeItem o i).launches = s.launches := by simp [State.chargeItem]
@[simp] theorem land_nextOp (s : State) (tid grp roff n : Nat) (bytes : List Byte) : (s.land tid grp roff n bytes).nextOp = s.nextOp := by unfold State.land; (repeat' split) <;> simp
@[simp] theorem land_launches (s : State) (tid grp roff n : Nat) (bytes : List Byte) : (s.land tid grp roff n bytes).launches = s.launches := by unfold State.land; (repeat' split) <;> simp
@[simp] theorem finishEngine_nextOp (s : State) (o : Op) (e : EngOp) (drop bytes : Nat) (fail : Option (Nat × DWord)) : (s.finishEngine o e drop bytes fail).nextOp = s.nextOp := by unfold State.finishEngine; split <;> simp
@[simp] theorem finishEngine_launches (s : State) (o : Op) (e : EngOp) (drop bytes : Nat) (fail : Option (Nat × DWord)) : (s.finishEngine o e drop bytes fail).launches = s.launches := by unfold State.finishEngine; split <;> simp
@[simp] theorem sendIncrement_nextOp (s : State) (o : Op) (e : EngOp) (remote : Option Nat) (c : SigCounter) : (s.sendIncrement o e remote c).nextOp = s.nextOp := by unfold State.sendIncrement; (repeat' split) <;> rfl
@[simp] theorem sendIncrement_mem (s : State) (o : Op) (e : EngOp) (remote : Option Nat) (c : SigCounter) : (s.sendIncrement o e remote c).mem = s.mem := by unfold State.sendIncrement; (repeat' split) <;> rfl
@[simp] theorem sendIncrement_launches (s : State) (o : Op) (e : EngOp) (remote : Option Nat) (c : SigCounter) : (s.sendIncrement o e remote c).launches = s.launches := by unfold State.sendIncrement; (repeat' split) <;> rfl
@[simp] theorem putAdvance_nextOp (s : State) (id : Nat) : (s.putAdvance id).nextOp = s.nextOp := by unfold State.putAdvance; (try dsimp only); (repeat' split) <;> first | rfl | simp | exact foldl_field (fun s => s.nextOp) _ (by intros; (try dsimp only); (repeat' split) <;> first | rfl | simp) _ _
@[simp] theorem putAdvance_mem (s : State) (id : Nat) : (s.putAdvance id).mem = s.mem := by unfold State.putAdvance; (try dsimp only); (repeat' split) <;> first | rfl | simp | exact foldl_field (fun s => s.mem) _ (by intros; (try dsimp only); (repeat' split) <;> first | rfl | simp) _ _
@[simp] theorem putAdvance_launches (s : State) (id : Nat) : (s.putAdvance id).launches = s.launches := by unfold State.putAdvance; (try dsimp only); (repeat' split) <;> first | rfl | simp | exact foldl_field (fun s => s.launches) _ (by intros; (try dsimp only); (repeat' split) <;> first | rfl | simp) _ _
@[simp] theorem failAtOnce_ops (s : State) (w : Who) (d g cause : Nat) (va : DWord) : (s.failAtOnce w d g cause va).ops = s.ops := by simp [State.failAtOnce]
@[simp] theorem failAtOnce_nextOp (s : State) (w : Who) (d g cause : Nat) (va : DWord) : (s.failAtOnce w d g cause va).nextOp = s.nextOp := by simp [State.failAtOnce]
@[simp] theorem failAtOnce_launches (s : State) (w : Who) (d g cause : Nat) (va : DWord) : (s.failAtOnce w d g cause va).launches = s.launches := by simp [State.failAtOnce]
@[simp] theorem raiseRed_ops (s : State) (o : Op) (g : Nat) (bits : FBits) : (s.raiseRed o g bits).ops = s.ops := by unfold State.raiseRed; (try dsimp only); (repeat' split) <;> first | rfl | simp | exact foldl_field (fun s => s.ops) _ (by intros; (try dsimp only); (repeat' split) <;> first | rfl | simp) _ _
@[simp] theorem raiseRed_nextOp (s : State) (o : Op) (g : Nat) (bits : FBits) : (s.raiseRed o g bits).nextOp = s.nextOp := by unfold State.raiseRed; (try dsimp only); (repeat' split) <;> first | rfl | simp | exact foldl_field (fun s => s.nextOp) _ (by intros; (try dsimp only); (repeat' split) <;> first | rfl | simp) _ _
@[simp] theorem raiseRed_launches (s : State) (o : Op) (g : Nat) (bits : FBits) : (s.raiseRed o g bits).launches = s.launches := by unfold State.raiseRed; (try dsimp only); (repeat' split) <;> first | rfl | simp | exact foldl_field (fun s => s.launches) _ (by intros; (try dsimp only); (repeat' split) <;> first | rfl | simp) _ _
@[simp] theorem setDetRead_ops (s : State) (w : Who) : (s.setDetRead w).ops = s.ops := rfl
@[simp] theorem setDetRead_nextOp (s : State) (w : Who) : (s.setDetRead w).nextOp = s.nextOp := rfl
@[simp] theorem setDetRead_mem (s : State) (w : Who) : (s.setDetRead w).mem = s.mem := rfl
@[simp] theorem setDetRead_launches (s : State) (w : Who) : (s.setDetRead w).launches = s.launches := rfl
@[simp] theorem collSend_ops (s : State) (o : Op) (e : EngOp) (code : Nat) (signed : Bool) (b : List (Nat × Item)) : (s.collSend o e code signed b).1.ops = s.ops := by unfold State.collSend; (try dsimp only); (repeat' split) <;> first | rfl | simp | exact foldl_field (fun s => s.ops) _ (by intros; (try dsimp only); (repeat' split) <;> first | rfl | simp) _ _
@[simp] theorem collSend_nextOp (s : State) (o : Op) (e : EngOp) (code : Nat) (signed : Bool) (b : List (Nat × Item)) : (s.collSend o e code signed b).1.nextOp = s.nextOp := by unfold State.collSend; (try dsimp only); (repeat' split) <;> first | rfl | simp | exact foldl_field (fun s => s.nextOp) _ (by intros; (try dsimp only); (repeat' split) <;> first | rfl | simp) _ _
@[simp] theorem collSend_mem (s : State) (o : Op) (e : EngOp) (code : Nat) (signed : Bool) (b : List (Nat × Item)) : (s.collSend o e code signed b).1.mem = s.mem := by unfold State.collSend; (try dsimp only); (repeat' split) <;> first | rfl | simp | exact foldl_field (fun s => s.mem) _ (by intros; (try dsimp only); (repeat' split) <;> first | rfl | simp) _ _
@[simp] theorem collSend_launches (s : State) (o : Op) (e : EngOp) (code : Nat) (signed : Bool) (b : List (Nat × Item)) : (s.collSend o e code signed b).1.launches = s.launches := by unfold State.collSend; (try dsimp only); (repeat' split) <;> first | rfl | simp | exact foldl_field (fun s => s.launches) _ (by intros; (try dsimp only); (repeat' split) <;> first | rfl | simp) _ _
@[simp] theorem failBcast_nextOp (s : State) (o : Op) : (s.failBcast o).nextOp = s.nextOp := by unfold State.failBcast; split <;> simp
@[simp] theorem failBcast_launches (s : State) (o : Op) : (s.failBcast o).launches = s.launches := by unfold State.failBcast; split <;> simp
@[simp] theorem countMatrix_ops (s : State) (core : Nat) (halves : List Nat) (j : Nat) : (s.countMatrix core halves j).ops = s.ops := rfl
@[simp] theorem countMatrix_nextOp (s : State) (core : Nat) (halves : List Nat) (j : Nat) : (s.countMatrix core halves j).nextOp = s.nextOp := rfl
@[simp] theorem countMatrix_mem (s : State) (core : Nat) (halves : List Nat) (j : Nat) : (s.countMatrix core halves j).mem = s.mem := rfl
@[simp] theorem countMatrix_launches (s : State) (core : Nat) (halves : List Nat) (j : Nat) : (s.countMatrix core halves j).launches = s.launches := rfl
@[simp] theorem streamFault_nextOp (s : State) (o : Op) (st : StreamOp) (va : DWord) : (s.streamFault o st va).nextOp = s.nextOp := by simp [State.streamFault]
@[simp] theorem streamFault_mem (s : State) (o : Op) (st : StreamOp) (va : DWord) : (s.streamFault o st va).mem = s.mem := by simp [State.streamFault]
@[simp] theorem streamFault_launches (s : State) (o : Op) (st : StreamOp) (va : DWord) : (s.streamFault o st va).launches = s.launches := by simp [State.streamFault]
@[simp] theorem streamNext_nextOp (s : State) (o : Op) (st : StreamOp) : (s.streamNext o st).nextOp = s.nextOp := by unfold State.streamNext; split <;> rfl
@[simp] theorem streamNext_mem (s : State) (o : Op) (st : StreamOp) : (s.streamNext o st).mem = s.mem := by unfold State.streamNext; split <;> rfl
@[simp] theorem streamNext_launches (s : State) (o : Op) (st : StreamOp) : (s.streamNext o st).launches = s.launches := by unfold State.streamNext; split <;> rfl
@[simp] theorem settleStream_nextOp (s : State) (op : Nat) : (s.settleStream op).nextOp = s.nextOp := by unfold State.settleStream; split <;> simp
@[simp] theorem settleStream_mem (s : State) (op : Nat) : (s.settleStream op).mem = s.mem := by unfold State.settleStream; split <;> simp
@[simp] theorem settleStream_launches (s : State) (op : Nat) : (s.settleStream op).launches = s.launches := by unfold State.settleStream; split <;> simp
@[simp] theorem takeStamps_ops (s : State) (p : Packet) : (s.takeStamps p).ops = s.ops := by unfold State.takeStamps; (try dsimp only); (repeat' split) <;> first | rfl | simp | exact foldl_field (fun s => s.ops) _ (by intros; (try dsimp only); (repeat' split) <;> first | rfl | simp) _ _
@[simp] theorem takeStamps_nextOp (s : State) (p : Packet) : (s.takeStamps p).nextOp = s.nextOp := by unfold State.takeStamps; (try dsimp only); (repeat' split) <;> first | rfl | simp | exact foldl_field (fun s => s.nextOp) _ (by intros; (try dsimp only); (repeat' split) <;> first | rfl | simp) _ _
@[simp] theorem takeStamps_mem (s : State) (p : Packet) : (s.takeStamps p).mem = s.mem := by unfold State.takeStamps; (try dsimp only); (repeat' split) <;> first | rfl | simp | exact foldl_field (fun s => s.mem) _ (by intros; (try dsimp only); (repeat' split) <;> first | rfl | simp) _ _
@[simp] theorem takeStamps_launches (s : State) (p : Packet) : (s.takeStamps p).launches = s.launches := by unfold State.takeStamps; (try dsimp only); (repeat' split) <;> first | rfl | simp | exact foldl_field (fun s => s.launches) _ (by intros; (try dsimp only); (repeat' split) <;> first | rfl | simp) _ _
@[simp] theorem received_ops (s : State) (port : Nat) (p : Packet) : (s.received port p).ops = s.ops := by simp [State.received]
@[simp] theorem received_nextOp (s : State) (port : Nat) (p : Packet) : (s.received port p).nextOp = s.nextOp := by simp [State.received]
@[simp] theorem received_mem (s : State) (port : Nat) (p : Packet) : (s.received port p).mem = s.mem := by simp [State.received]
@[simp] theorem received_launches (s : State) (port : Nat) (p : Packet) : (s.received port p).launches = s.launches := by simp [State.received]
@[simp] theorem markerDone_nextOp (s : State) (o : Op) (port : Nat) : (s.markerDone o port).nextOp = s.nextOp := by unfold State.markerDone; (try dsimp only); (repeat' split) <;> first | rfl | simp | exact foldl_field (fun s => s.nextOp) _ (by intros; (try dsimp only); (repeat' split) <;> first | rfl | simp) _ _
@[simp] theorem markerDone_mem (s : State) (o : Op) (port : Nat) : (s.markerDone o port).mem = s.mem := by unfold State.markerDone; (try dsimp only); (repeat' split) <;> first | rfl | simp | exact foldl_field (fun s => s.mem) _ (by intros; (try dsimp only); (repeat' split) <;> first | rfl | simp) _ _
@[simp] theorem markerDone_launches (s : State) (o : Op) (port : Nat) : (s.markerDone o port).launches = s.launches := by unfold State.markerDone; (try dsimp only); (repeat' split) <;> first | rfl | simp | exact foldl_field (fun s => s.launches) _ (by intros; (try dsimp only); (repeat' split) <;> first | rfl | simp) _ _
@[simp] theorem markerLost_nextOp (s : State) (o : Op) (port : Nat) : (s.markerLost o port).nextOp = s.nextOp := by unfold State.markerLost; split <;> simp
@[simp] theorem markerLost_mem (s : State) (o : Op) (port : Nat) : (s.markerLost o port).mem = s.mem := by unfold State.markerLost; split <;> simp
@[simp] theorem markerLost_launches (s : State) (o : Op) (port : Nat) : (s.markerLost o port).launches = s.launches := by unfold State.markerLost; split <;> simp
@[simp] theorem failRoutes_nextOp (s : State) (port : Nat) : (s.failRoutes port).nextOp = s.nextOp := by unfold State.failRoutes; exact foldl_field (fun s => s.nextOp) _ (by intros; split <;> simp) _ _
@[simp] theorem failRoutes_mem (s : State) (port : Nat) : (s.failRoutes port).mem = s.mem := by unfold State.failRoutes; exact foldl_field (fun s => s.mem) _ (by intros; split <;> simp) _ _
@[simp] theorem failRoutes_launches (s : State) (port : Nat) : (s.failRoutes port).launches = s.launches := by unfold State.failRoutes; exact foldl_field (fun s => s.launches) _ (by intros; split <;> simp) _ _
@[simp] theorem countSent_ops (s : State) (port : Nat) (p : Packet) : (s.countSent port p).ops = s.ops := by simp [State.countSent]
@[simp] theorem countSent_nextOp (s : State) (port : Nat) (p : Packet) : (s.countSent port p).nextOp = s.nextOp := by simp [State.countSent]
@[simp] theorem countSent_mem (s : State) (port : Nat) (p : Packet) : (s.countSent port p).mem = s.mem := by simp [State.countSent]
@[simp] theorem countSent_launches (s : State) (port : Nat) (p : Packet) : (s.countSent port p).launches = s.launches := by simp [State.countSent]
@[simp] theorem notePathWts_ops (s : State) (n : Nat) (p : Packet) (w : BitVec 16) : (s.notePathWts n p w).ops = s.ops := by unfold State.notePathWts; split <;> rfl
@[simp] theorem notePathWts_nextOp (s : State) (n : Nat) (p : Packet) (w : BitVec 16) : (s.notePathWts n p w).nextOp = s.nextOp := by unfold State.notePathWts; split <;> rfl
@[simp] theorem notePathWts_mem (s : State) (n : Nat) (p : Packet) (w : BitVec 16) : (s.notePathWts n p w).mem = s.mem := by unfold State.notePathWts; split <;> rfl
@[simp] theorem notePathWts_launches (s : State) (n : Nat) (p : Packet) (w : BitVec 16) : (s.notePathWts n p w).launches = s.launches := by unfold State.notePathWts; split <;> rfl
@[simp] theorem chargeMarker_ops (s : State) (port ctx : Nat) : (s.chargeMarker port ctx).ops = s.ops := rfl
@[simp] theorem chargeMarker_nextOp (s : State) (port ctx : Nat) : (s.chargeMarker port ctx).nextOp = s.nextOp := rfl
@[simp] theorem chargeMarker_mem (s : State) (port ctx : Nat) : (s.chargeMarker port ctx).mem = s.mem := rfl
@[simp] theorem chargeMarker_launches (s : State) (port ctx : Nat) : (s.chargeMarker port ctx).launches = s.launches := rfl
@[simp] theorem freezePort_ops (s : State) (port ctx : Nat) : (s.freezePort port ctx).ops = s.ops := by unfold State.freezePort; (repeat' split) <;> simp
@[simp] theorem freezePort_nextOp (s : State) (port ctx : Nat) : (s.freezePort port ctx).nextOp = s.nextOp := by unfold State.freezePort; (repeat' split) <;> simp
@[simp] theorem freezePort_launches (s : State) (port ctx : Nat) : (s.freezePort port ctx).launches = s.launches := by unfold State.freezePort; (repeat' split) <;> simp
@[simp] theorem routeAnswer_ops (s : State) (p : Packet) (l : Payload) : (s.routeAnswer p l).ops = s.ops := rfl
@[simp] theorem routeAnswer_nextOp (s : State) (p : Packet) (l : Payload) : (s.routeAnswer p l).nextOp = s.nextOp := rfl
@[simp] theorem routeAnswer_mem (s : State) (p : Packet) (l : Payload) : (s.routeAnswer p l).mem = s.mem := rfl
@[simp] theorem routeAnswer_launches (s : State) (p : Packet) (l : Payload) : (s.routeAnswer p l).launches = s.launches := rfl
@[simp] theorem dropLaunch_ops (s : State) (l : Launch) : (s.dropLaunch l).ops = s.ops := by unfold State.dropLaunch; exact foldl_field (fun s => s.ops) _ (by intros; simp) _ _
@[simp] theorem dropLaunch_nextOp (s : State) (l : Launch) : (s.dropLaunch l).nextOp = s.nextOp := by unfold State.dropLaunch; exact foldl_field (fun s => s.nextOp) _ (by intros; simp) _ _
@[simp] theorem dropLaunch_mem (s : State) (l : Launch) : (s.dropLaunch l).mem = s.mem := by unfold State.dropLaunch; exact foldl_field (fun s => s.mem) _ (by intros; simp) _ _
@[simp] theorem startTeams_ops (s : State) (l : Launch) : (s.startTeams l).ops = s.ops := rfl
@[simp] theorem startTeams_nextOp (s : State) (l : Launch) : (s.startTeams l).nextOp = s.nextOp := rfl
@[simp] theorem startTeams_mem (s : State) (l : Launch) : (s.startTeams l).mem = s.mem := rfl
@[simp] theorem writeTile_ops (s : State) (t : Team) (k : Nat) (x : Tile) : (s.writeTile t k x).ops = s.ops := rfl
@[simp] theorem writeTile_nextOp (s : State) (t : Team) (k : Nat) (x : Tile) : (s.writeTile t k x).nextOp = s.nextOp := rfl
@[simp] theorem writeTile_launches (s : State) (t : Team) (k : Nat) (x : Tile) : (s.writeTile t k x).launches = s.launches := rfl
@[simp] theorem finishSave_ops (s : State) (t : Team) : (s.finishSave t).ops = s.ops := rfl
@[simp] theorem finishSave_nextOp (s : State) (t : Team) : (s.finishSave t).nextOp = s.nextOp := rfl
@[simp] theorem finishSave_mem (s : State) (t : Team) : (s.finishSave t).mem = s.mem := rfl
@[simp] theorem finishSave_launches (s : State) (t : Team) : (s.finishSave t).launches = s.launches := rfl
@[simp] theorem settleOwned_ops (s : State) : s.settleOwned.ops = s.ops := rfl
@[simp] theorem settleOwned_nextOp (s : State) : s.settleOwned.nextOp = s.nextOp := rfl
@[simp] theorem settleOwned_mem (s : State) : s.settleOwned.mem = s.mem := rfl
@[simp] theorem settleOwned_launches (s : State) : s.settleOwned.launches = s.launches := rfl
@[simp] theorem passBroken_ops (s : State) : s.passBroken.ops = s.ops := by unfold State.passBroken; split <;> rfl
@[simp] theorem passBroken_nextOp (s : State) : s.passBroken.nextOp = s.nextOp := by unfold State.passBroken; split <;> rfl
@[simp] theorem passBroken_mem (s : State) : s.passBroken.mem = s.mem := by unfold State.passBroken; split <;> rfl
@[simp] theorem passBroken_launches (s : State) : s.passBroken.launches = s.launches := by unfold State.passBroken; split <;> rfl
@[simp] theorem receive_ops (s : State) (ext : Option LoopRecord) : (s.receive ext).ops = s.ops := by unfold State.receive; (repeat' split) <;> simp
@[simp] theorem receive_nextOp (s : State) (ext : Option LoopRecord) : (s.receive ext).nextOp = s.nextOp := by unfold State.receive; (repeat' split) <;> simp
@[simp] theorem receive_mem (s : State) (ext : Option LoopRecord) : (s.receive ext).mem = s.mem := by unfold State.receive; (repeat' split) <;> simp
@[simp] theorem receive_launches (s : State) (ext : Option LoopRecord) : (s.receive ext).launches = s.launches := by unfold State.receive; (repeat' split) <;> simp
@[simp] theorem ignore_ops (s : State) (c n cause : Nat) : (s.ignore c n cause).ops = s.ops := by simp only [State.ignore, ensPut_ops]
@[simp] theorem ignore_nextOp (s : State) (c n cause : Nat) : (s.ignore c n cause).nextOp = s.nextOp := by simp only [State.ignore, ensPut_nextOp]
@[simp] theorem ignore_launches (s : State) (c n cause : Nat) : (s.ignore c n cause).launches = s.launches := by simp only [State.ignore, ensPut_launches]
@[simp] theorem endBcast_nextOp (s : State) (op : Option Nat) : (s.endBcast op).nextOp = s.nextOp := by unfold State.endBcast; split <;> rfl
@[simp] theorem endBcast_mem (s : State) (op : Option Nat) : (s.endBcast op).mem = s.mem := by unfold State.endBcast; split <;> rfl
@[simp] theorem endBcast_launches (s : State) (op : Option Nat) : (s.endBcast op).launches = s.launches := by unfold State.endBcast; split <;> rfl
@[simp] theorem wakeMig_ops (s : State) (c va lvl : Nat) : (s.wakeMig c va lvl).ops = s.ops := rfl
@[simp] theorem wakeMig_nextOp (s : State) (c va lvl : Nat) : (s.wakeMig c va lvl).nextOp = s.nextOp := rfl
@[simp] theorem wakeMig_mem (s : State) (c va lvl : Nat) : (s.wakeMig c va lvl).mem = s.mem := rfl
@[simp] theorem wakeMig_launches (s : State) (c va lvl : Nat) : (s.wakeMig c va lvl).launches = s.launches := rfl
@[simp] theorem claimHead_ops (s : State) (c coll n verdict : Nat) : (s.claimHead c coll n verdict).ops = s.ops := rfl
@[simp] theorem claimHead_nextOp (s : State) (c coll n verdict : Nat) : (s.claimHead c coll n verdict).nextOp = s.nextOp := rfl
@[simp] theorem claimHead_launches (s : State) (c coll n verdict : Nat) : (s.claimHead c coll n verdict).launches = s.launches := rfl
@[simp] theorem sendConfig_ops (s : State) (c n node slot : Nat) (word : DWord) (anchor : Int) (elems ranks : Nat) : (s.sendConfig c n node slot word anchor elems ranks).ops = s.ops := by unfold State.sendConfig; (repeat' split) <;> rfl
@[simp] theorem sendConfig_mem (s : State) (c n node slot : Nat) (word : DWord) (anchor : Int) (elems ranks : Nat) : (s.sendConfig c n node slot word anchor elems ranks).mem = s.mem := by unfold State.sendConfig; (repeat' split) <;> rfl
@[simp] theorem sendConfig_launches (s : State) (c n node slot : Nat) (word : DWord) (anchor : Int) (elems ranks : Nat) : (s.sendConfig c n node slot word anchor elems ranks).launches = s.launches := by unfold State.sendConfig; (repeat' split) <;> rfl
@[simp] theorem clearSlots_ops (s : State) (n : Nat) (r : LoopRecord) (verdict : Nat) : (s.clearSlots n r verdict).ops = s.ops := by unfold State.clearSlots; (try dsimp only); (repeat' split) <;> simp [foldl_field (fun s => s.ops)]
@[simp] theorem clearSlots_launches (s : State) (n : Nat) (r : LoopRecord) (verdict : Nat) : (s.clearSlots n r verdict).launches = s.launches := by unfold State.clearSlots; (try dsimp only); (repeat' split) <;> simp [foldl_field (fun s => s.launches)]
@[simp] theorem tapSend_nextOp (s : State) (pos : Nat) (e : TapEntry) : (s.tapSend pos e).nextOp = s.nextOp := by unfold State.tapSend; (try dsimp only); (repeat' split) <;> first | rfl | simp | exact foldl_field (fun s => s.nextOp) _ (by intros; (try dsimp only); (repeat' split) <;> first | rfl | simp) _ _
@[simp] theorem tapSend_launches (s : State) (pos : Nat) (e : TapEntry) : (s.tapSend pos e).launches = s.launches := by unfold State.tapSend; (try dsimp only); (repeat' split) <;> first | rfl | simp | exact foldl_field (fun s => s.launches) _ (by intros; (try dsimp only); (repeat' split) <;> first | rfl | simp) _ _
@[simp] theorem dissolveDone_ops (s : State) : s.dissolveDone.ops = s.ops := rfl
@[simp] theorem dissolveDone_nextOp (s : State) : s.dissolveDone.nextOp = s.nextOp := rfl
@[simp] theorem dissolveDone_mem (s : State) : s.dissolveDone.mem = s.mem := rfl
@[simp] theorem dissolveDone_launches (s : State) : s.dissolveDone.launches = s.launches := rfl
@[simp] theorem writeLease_ops (s : State) (c : Nat) (value : DWord) : (s.writeLease c value).ops = s.ops := by unfold State.writeLease; split <;> rfl
@[simp] theorem writeLease_nextOp (s : State) (c : Nat) (value : DWord) : (s.writeLease c value).nextOp = s.nextOp := by unfold State.writeLease; split <;> rfl
@[simp] theorem writeLease_mem (s : State) (c : Nat) (value : DWord) : (s.writeLease c value).mem = s.mem := by unfold State.writeLease; split <;> rfl
@[simp] theorem writeLease_launches (s : State) (c : Nat) (value : DWord) : (s.writeLease c value).launches = s.launches := by unfold State.writeLease; split <;> rfl
@[simp] theorem clearDberr_ops (s : State) (f : HostFn) : (s.clearDberr f).ops = s.ops := rfl
@[simp] theorem clearDberr_nextOp (s : State) (f : HostFn) : (s.clearDberr f).nextOp = s.nextOp := rfl
@[simp] theorem clearDberr_mem (s : State) (f : HostFn) : (s.clearDberr f).mem = s.mem := rfl
@[simp] theorem clearDberr_launches (s : State) (f : HostFn) : (s.clearDberr f).launches = s.launches := rfl
@[simp] theorem writeCmd_ops (s : State) (value : DWord) : (s.writeCmd value).ops = s.ops := by unfold State.writeCmd; split <;> rfl
@[simp] theorem writeCmd_nextOp (s : State) (value : DWord) : (s.writeCmd value).nextOp = s.nextOp := by unfold State.writeCmd; split <;> rfl
@[simp] theorem writeCmd_mem (s : State) (value : DWord) : (s.writeCmd value).mem = s.mem := by unfold State.writeCmd; split <;> rfl
@[simp] theorem writeCmd_launches (s : State) (value : DWord) : (s.writeCmd value).launches = s.launches := by unfold State.writeCmd; split <;> rfl
@[simp] theorem cutTiers_ops (s : State) (old new : CtxDesc) : (s.cutTiers old new).ops = s.ops := rfl
@[simp] theorem cutTiers_nextOp (s : State) (old new : CtxDesc) : (s.cutTiers old new).nextOp = s.nextOp := rfl
@[simp] theorem cutTiers_mem (s : State) (old new : CtxDesc) : (s.cutTiers old new).mem = s.mem := rfl
@[simp] theorem cutTiers_launches (s : State) (old new : CtxDesc) : (s.cutTiers old new).launches = s.launches := rfl
@[simp] theorem strike_mem (s : State) (kind unit : Nat) (addr : DWord) : (s.strike kind unit addr).mem = s.mem := by unfold State.strike; split <;> rfl
@[simp] theorem strike_launches (s : State) (kind unit : Nat) (addr : DWord) : (s.strike kind unit addr).launches = s.launches := by unfold State.strike; split <;> rfl
@[simp] theorem takeLaunches_ops (s : State) (n : Nat) : (s.takeLaunches n).ops = s.ops := rfl
@[simp] theorem takeLaunches_nextOp (s : State) (n : Nat) : (s.takeLaunches n).nextOp = s.nextOp := rfl
@[simp] theorem takeLaunches_mem (s : State) (n : Nat) : (s.takeLaunches n).mem = s.mem := rfl
@[simp] theorem stageDone_ops (s : State) (snapshot : Option Snapshot) : (s.stageDone snapshot).ops = s.ops := by unfold State.stageDone; (repeat' split) <;> rfl
@[simp] theorem stageDone_nextOp (s : State) (snapshot : Option Snapshot) : (s.stageDone snapshot).nextOp = s.nextOp := by unfold State.stageDone; (repeat' split) <;> rfl
@[simp] theorem spdmAnswer_ops (s : State) (need : Nat) (r : SpdmReply) (f : Spdm → Spdm) : (s.spdmAnswer need r f).ops = s.ops := by unfold State.spdmAnswer; split <;> rfl
@[simp] theorem spdmAnswer_nextOp (s : State) (need : Nat) (r : SpdmReply) (f : Spdm → Spdm) : (s.spdmAnswer need r f).nextOp = s.nextOp := by unfold State.spdmAnswer; split <;> rfl
@[simp] theorem spdmAnswer_mem (s : State) (need : Nat) (r : SpdmReply) (f : Spdm → Spdm) : (s.spdmAnswer need r f).mem = s.mem := by unfold State.spdmAnswer; split <;> rfl
@[simp] theorem spdmAnswer_launches (s : State) (need : Nat) (r : SpdmReply) (f : Spdm → Spdm) : (s.spdmAnswer need r f).launches = s.launches := by unfold State.spdmAnswer; split <;> rfl
@[simp] theorem tickWatchdogs_ops (s : State) (n : Nat) : (s.tickWatchdogs n).ops = s.ops := rfl
@[simp] theorem tickWatchdogs_nextOp (s : State) (n : Nat) : (s.tickWatchdogs n).nextOp = s.nextOp := rfl
@[simp] theorem tickWatchdogs_mem (s : State) (n : Nat) : (s.tickWatchdogs n).mem = s.mem := rfl
@[simp] theorem tickWatchdogs_launches (s : State) (n : Nat) : (s.tickWatchdogs n).launches = s.launches := rfl
@[simp] theorem tick_ops (s : State) : s.tick.ops = s.ops := rfl
@[simp] theorem tick_nextOp (s : State) : s.tick.nextOp = s.nextOp := rfl
@[simp] theorem tick_mem (s : State) : s.tick.mem = s.mem := rfl
@[simp] theorem tick_launches (s : State) : s.tick.launches = s.launches := rfl

end Sys2Proof.Machine
end

