-- ==== Sys2Proof/Tests/Slice0.lean ====
section
/-! SUPPORT. Tests: the decoder on words composed from the spec's formats, the well-formedness smoke, witnesses of the
hypotheses of the statements, and single steps. -/

namespace Sys2Proof.Tests

open Sys2Proof Sys2Proof.Machine
/- One theorem is checked after another: dozens of threads that wait for the kernel would each take their own stack. -/
set_option Elab.async false

/-! ### Words of every family, composed from the formats of the spec -/

/-- Words of the instructions of control (R95, R231, R270, R288, R351), composed from the formats of R34 to R38. -/
def wordsControl1 : List (Nat × Instr) :=
  [ (0x010000000000000000000000, .nop),
    (0x020000000000000056000000, .bra ⟨5, 3⟩),
    (0x031000005FFFFFFFE6000000, .brc true 5 ⟨0xFFFFFFFE, 3⟩ 0),
    (0x0400001020000000000E0000, .brx 0x102 7),
    (0x050004800000000010000000, .call 9 ⟨1, 0⟩),
    (0x0600000FF000000000000000, .ret 255),
    (0x070000000800000008000000, .join ⟨0x80000000, 4⟩),
    (0x0800000000000000002E0000, .exit 23),
    (0x090001800000000022000825, .role ⟨3, ⟨2, 1⟩, 5, 2, 8, false⟩),
    (0x090001800000000022010004, .role ⟨3, ⟨2, 1⟩, 4, 0, 0, true⟩),
    (0x0A0000000000000000000028, .yield 40),
    (0x0B0000014000000010000000, .yieldcR 20 ⟨1, 0⟩),
    (0x0B1000000000000014000FFF, .yieldcF 0xFFF ⟨1, 2⟩),
    (0x0C00000000000000000000A5, .trap 0xA5),
    (0x0D000100000000000000400F, .bara 2 15 1024),
    (0x0E000000200000000000000F, .barw 2 15) ]
theorem test_decodeControl1 : wordsControl1.all (fun p => decide (decodeTableWord 96 p.1 = some p.2)) = true := by decide

/-- Words of the instructions of control (R95, R231, R270, R288, R351), composed from the formats of R34 to R38. -/
def wordsControl2 : List (Nat × Instr) :=
  [ (0x0F0001000000000000000031, .bars 2 1 3),
    (0x100000008000000000000000, .emset 8),
    (0x110004000000000000000000, .emget .ex 8),
    (0x111004000000000000000000, .emget .own 8),
    (0x112004000000000000000000, .emget .en 8),
    (0x120000008000000000000000, .emand 8),
    (0x130000000000000000000000, .rgn),
    (0x140000000000000000000002, .mark 2 false),
    (0x141000006000000000010000, .markS 6 true),
    (0x15400080200000000000009B, .cwait ⟨.geu, true, .sys, true, true, 1, 2⟩),
    (0x160000007000000000000000, .eretT 7),
    (0x161000000000000000000000, .eretSave),
    (0x162000000000000000000000, .eretRst) ]
theorem test_decodeControl2 : wordsControl2.all (fun p => decide (decodeTableWord 96 p.1 = some p.2)) = true := by decide

/-- Words of the instructions on vector registers (R133), composed from the formats of R34 to R38. -/
def wordsMoves1 : List (Nat × Instr) :=
  [ (0x200005004000000C00000000, .mov ⟨false, .n64, 10, 4, 0⟩),
    (0x2100048000000000C0000000, .movi ⟨false, 9, 12, 0⟩),
    (0x2213FF8FF000000000480000, .movs ⟨true, 2047, 255, 9⟩),
    (0x222803000000000000000000, .gmovsRdf 6),
    (0x223800006000000000000000, .gmovsWrf 6),
    (0x224800006000000000000000, .gmovsClf 6),
    (0x232803000800000010000000, .movl ⟨true, .h, 6, 0x80000001, 0⟩),
    (0x240014000000000040000000, .aff ⟨false, 40, 0, 4, 0⟩),
    (0x251001804000000000100000, .shape ⟨.gen, 3, 4, 2⟩),
    (0x26000486400E000000000008, .ldx ⟨false, 9, 100, 7, 8, 0⟩),
    (0x27100486400E0000000007FF, .stx ⟨true, 9, 100, 7, 2047, 0⟩),
    (0x280000802006000000000000, .perm ⟨1, 2, 3, 0⟩),
    (0x290000802006010000000000, .perm2 ⟨1, 2, 3, 4, 0⟩),
    (0x2A000080200000000000003F, .lbcast ⟨.imm 63, 1, 2, 0⟩),
    (0x2A1000802190000000000000, .lbcast ⟨.sreg 200, 1, 2, 0⟩),
    (0x2B8000802000000200000000, .redl ⟨.fadd .rna, .i32, false, 1, 2, 0⟩) ]
theorem test_decodeMoves1 : wordsMoves1.all (fun p => decide (decodeTableWord 96 p.1 = some p.2)) = true := by decide

/-- Words of the instructions on vector registers (R133), composed from the formats of R34 to R38. -/
def wordsMoves2 : List (Nat × Instr) :=
  [ (0x2C5001004000000800000001, .scanl ⟨.xor, .i64, true, 2, 4, 0⟩),
    (0x2D100B804000000000000000, .ballot ⟨true, 23, 4, 0⟩),
    (0x2E0096004000000000080000, .mpop (.cnt 300 4 1)),
    (0x2E2801804000000000000000, .mpop (.gnext 3 4)),
    (0x2F0001800000000000000080, .reggrow 3 128),
    (0x2F1001800000000000000002, .reggrowNb 3 2),
    (0x300001800000000000000000, .regshrink 3 0),
    (0x310001800000000000000000, .regqry 3) ]
theorem test_decodeMoves2 : wordsMoves2.all (fun p => decide (decodeTableWord 96 p.1 = some p.2)) = true := by decide

/-- Words of the instructions on integers and addresses (R146), composed from the formats of R34 to R38. -/
def wordsIntegers1 : List (Nat × Instr) :=
  [ (0x400802004006000800000000, .iadd ⟨true, .i64, false, 4, 4, 3, 0⟩),
    (0x410003008014000440180000, .isub ⟨false, .n32, true, 6, 8, 10, 3⟩),
    (0x420003008014001400180000, .imul ⟨false, .n16, false, 6, 8, 10, 3⟩),
    (0x430003008014000C00180000, .imulh ⟨false, .n64, false, 6, 8, 10, 3⟩),
    (0x450003008014001800180000, .imin ⟨false, .i8, false, 6, 8, 10, 3⟩),
    (0x460003008014001C00180000, .imax ⟨false, .n8, false, 6, 8, 10, 3⟩),
    (0x480003008014000000180000, .iand ⟨false, .i32, false, 6, 8, 10, 3⟩),
    (0x490003008014000400180000, .ior ⟨false, .n32, false, 6, 8, 10, 3⟩),
    (0x4A0003008014000800180000, .ixor ⟨false, .i64, false, 6, 8, 10, 3⟩),
    (0x4C0003008014000000180000, .shl ⟨false, .i32, false, 6, 8, 10, 3⟩),
    (0x4D0003008014000400180000, .shr ⟨false, .n32, false, 6, 8, 10, 3⟩),
    (0x4E0003008014000800180000, .sha ⟨false, .i64, false, 6, 8, 10, 3⟩),
    (0x4F0003008014000C00180000, .rot ⟨false, .n64, false, 6, 8, 10, 3⟩),
    (0x440003008014031040000000, .imad ⟨false, .i16, true, 6, 8, 10, 12, 0⟩),
    (0x470003008000000840000000, .iabs ⟨false, .i64, true, 6, 8, 0⟩),
    (0x4B0803008000000C00000000, .inot ⟨true, .n64, false, 6, 8, 0⟩) ]
theorem test_decodeIntegers1 : wordsIntegers1.all (fun p => decide (decodeTableWord 96 p.1 = some p.2)) = true := by decide

/-- Words of the instructions on integers and addresses (R146), composed from the formats of R34 to R38. -/
def wordsIntegers2 : List (Nat × Instr) :=
  [ (0x500003008000000400000805, .bfx ⟨false, .n32, 6, 8, 5, 32, 0⟩),
    (0x51000300801400000000103F, .bfi ⟨false, .i32, 6, 8, 10, 63, 64, 0⟩),
    (0x520003008000000400000000, .popc ⟨false, .n32, false, 6, 8, 0⟩),
    (0x530003008000000400000000, .clz ⟨false, .n32, false, 6, 8, 0⟩),
    (0x540003008000000400000000, .brev ⟨false, .n32, false, 6, 8, 0⟩),
    (0x55500B806012000400000000, .icmp ⟨false, .ge, .n32, .set, 23, 6, 9, 0⟩),
    (0x55200B806012050018000000, .icmp ⟨false, .lt, .i32, .or 20, 23, 6, 9, 0⟩),
    (0x5600030080143FC800000000, .sel ⟨false, .i64, 6, 8, 10, 255, 0⟩),
    (0x57000300801400000007FF83, .lea ⟨false, .i32, 6, 8, 10, 3, 0xFFF0, 0⟩) ]
theorem test_decodeIntegers2 : wordsIntegers2.all (fun p => decide (decodeTableWord 96 p.1 = some p.2)) = true := by decide

/-- Words of the instructions on floating formats (R153, R162, R164, R165), composed from the formats of R34 to R38. -/
def wordsFloats1 : List (Nat × Instr) :=
  [ (0x600004809004000000000000, .fadd ⟨false, .f32, .rne, false, 9, 9, 2, 0⟩),
    (0x6100008020060004C0000000, .fsub ⟨false, .f16, .rz, true, 1, 2, 3, 0⟩),
    (0x620000802006000A8000004D, .fmul ⟨false, .bf16, .rs 77, false, 1, 2, 3, 0⟩),
    (0x63000600400A030000000000, .ffma ⟨false, .plain, .f32, .rne, false, 12, 4, 5, 12, 0⟩),
    (0x633000802006010100000000, .ffma ⟨false, .nms, .f32, .rup, false, 1, 2, 3, 4, 0⟩),
    (0x640000802006000000000000, .fmin ⟨false, .f32, 1, 2, 3, 0⟩),
    (0x650000802006000800000000, .fmax ⟨false, .bf16, 1, 2, 3, 0⟩),
    (0x66600080200601E010000000, .fcmp ⟨false, .un, .e8m0, .and 7, 1, 2, 3, 0⟩),
    (0x670000802000001C00000000, .fclass ⟨false, .e2m1, 1, 2, 0⟩),
    (0x680000802000000180000000, .frnd ⟨false, .f32, .rdn, false, 1, 2, 0⟩),
    (0x690000802006000040000000, .fscl ⟨false, .f32, .rne, true, 1, 2, 3, 0⟩),
    (0x6A0000802000000000000000, .frcp ⟨false, .f32, .rne, false, 1, 2, 0⟩),
    (0x6B0000802000000000000000, .frsq ⟨false, .f32, .rne, false, 1, 2, 0⟩),
    (0x6C0000802000000200000000, .fsqrt ⟨false, .f32, .rna, false, 1, 2, 0⟩),
    (0x6D0000802000000000000000, .fexp2 ⟨false, .f32, .rne, false, 1, 2, 0⟩),
    (0x6E0000802000000000000000, .flog2 ⟨false, .f32, .rne, false, 1, 2, 0⟩) ]
theorem test_decodeFloats1 : wordsFloats1.all (fun p => decide (decodeTableWord 96 p.1 = some p.2)) = true := by decide

/-- Words of the instructions on floating formats (R153, R162, R164, R165), composed from the formats of R34 to R38. -/
def wordsFloats2 : List (Nat × Instr) :=
  [ (0x6F0000802000000000000000, .ftanh ⟨false, .f32, .rne, false, 1, 2, 0⟩),
    (0x7000028040000C0C40000000, .cvt ⟨false, .flt .e4m3, .flt .f32, .rne, true, 5, 4, 0⟩),
    (0x710002804000001888000000, .packn ⟨.int .i8, .rz, false, 5, 4, 0⟩),
    (0x720002005000002000000000, .unpkn ⟨.flt .e8m0, 4, 5, 0⟩),
    (0x73000600400A019C80000000, .dotq ⟨.flt .e2m1, false, .vec 12 6 .rz false, 4, 5, 0⟩),
    (0x74200780400A00140800003F, .dotx ⟨.flt .e3m2, true, .acc 15 63, 4, 5, 0⟩),
    (0x75100600400A019848000000, .dotb ⟨.int .i8, true, .vec 12 6 .rne true, 4, 5, 0⟩),
    (0x76300080400A001400000000, .doth ⟨.int .n16, false, .acc 1 0, 4, 5, 0⟩) ]
theorem test_decodeFloats2 : wordsFloats2.all (fun p => decide (decodeTableWord 96 p.1 = some p.2)) = true := by decide

/-- Words of the instructions on tiles (R182), composed from the formats of R34 to R38. -/
def wordsTiles : List (Nat × Instr) :=
  [ (0x8000018000000000001003FF, .aclr 3 0x3FF 2),
    (0x810001800000000000000200, .ashift 3 0x200 0),
    (0x82140200C004001C10040000, .mma ⟨true, some true, .int .n8, false, 4, 12, 2, 0⟩),
    (0x8304018C800200080000103F, .mmloop ⟨true, none, .flt .bf16, false, 3, 200, 1, 0⟩ 63 1),
    (0x84000180600000000800003F, .arow ⟨.int .i32, 3, 6, 63, 0⟩),
    (0x850001804000000000000000, .aadd 3 4 0),
    (0x860001804000000000000000, .amov 3 4 0),
    (0x87000180400A01A000000004, .scacc ⟨.e8m0, .e5m2, 3, 4, 5, 6, 0⟩),
    (0x8800320040000009C0001000, .arslv ⟨.flt .bf16, .rdn, true, 100, 4, 0, 64, 0⟩),
    (0x890001800000000000000000, .arslvi 3 0),
    (0x8A700A00400A000000000042, .acmp ⟨.ord, 20, 4, 5, 2, 1, 0⟩),
    (0x8B000A004000000000000000, .astat (.t 20 4 0)),
    (0x8B11C2004000000000000005, .astat (.r 900 4 5 0)),
    (0x8C04000040280000000000C2, .asave ⟨true, 4, 20, 2, 3, 0⟩),
    (0x8D00020000280000000000C2, .aload ⟨false, 4, 20, 2, 3, 0⟩) ]
theorem test_decodeTiles : wordsTiles.all (fun p => decide (decodeTableWord 96 p.1 = some p.2)) = true := by decide

/-- Words of the instructions on queues (R207), composed from the formats of R34 to R38. -/
def wordsQueues : List (Nat × Instr) :=
  [ (0xA00004807000000000000030, .qdef 9 7 16 true),
    (0xA101F3807000000000200000, .qpop 999 7 4),
    (0xA20003BE7000000000000000, .qpush 7 999 0),
    (0xA30004807000000000000000, .qstat 9 7),
    (0xA40000007000000000000000, .qdrainDisc 7),
    (0xA41000007000000000000000, .qdrainFlush 7),
    (0xA5000080400A018180000000, .qld ⟨false, false, .pkg, false, 0, 1, 4, 5, 6, 0⟩),
    (0xA6040080400A0184AE01FFF8, .qst ⟨true, true, .team, true, 7, 1, 4, 5, 6, 0x1FFF8⟩) ]
theorem test_decodeQueues : wordsQueues.all (fun p => decide (decodeTableWord 96 p.1 = some p.2)) = true := by decide

/-- Words of the instructions on memory (R270), composed from the formats of R34 to R38. -/
def wordsMemory : List (Nat × Instr) :=
  [ (0xB00003803000000090000040, .ld ⟨false, false, .ty .i32, .team, .acq, 7, 3, 0, 0, 0x40⟩),
    (0xB00005007000000400000180, .ld ⟨false, false, .ty .n32, .grp, .rlx, 10, 7, 0, 0, 0x180⟩),
    (0xB01405008000008400000000, .ld ⟨false, true, .b24, .grp, .rlx, 10, 8, 2, 0, 0⟩),
    (0xB1087F80400C002AC601FFFF, .st ⟨true, false, .ty .b128, .sys, .sc, 3, 0xFF, 4, 6, 0, 0, 0x1FFFF⟩),
    (0xB2000500400A0005800E0000, .atom ⟨false, false, .add, .n32, .pkg, .rlx, 10, 4, 5, 7, 0⟩),
    (0xB2700500400C0229B0000000, .atom ⟨false, false, .cas 8, .b128, .pkg, .ar, 10, 4, 6, 0, 0⟩),
    (0xB30040800000000140000000, .fence .clu .sc 0x81),
    (0xB40800004000014000000040, .pref ⟨true, 4, 5, 0, 64⟩) ]
theorem test_decodeMemory : wordsMemory.all (fun p => decide (decodeTableWord 96 p.1 = some p.2)) = true := by decide

/-- Words of the instructions of the engines, the fabric and the loop (R288, R317, R335, R353, R357),
      composed from the formats of R34 to R38. -/
def wordsEngines1 : List (Nat × Instr) :=
  [ (0xC00005002006000400000000, .cpl ⟨false, .n32, .grp, 0, 10, 2, 3, 0, 0, 0⟩),
    (0xC1000A028000000580000000, .cpbox ⟨false, .n32, .pkg, 0, 20, 40, 0⟩),
    (0xC2040A028052000000000000, .cpmc ⟨true, 20, 40, 41⟩),
    (0xC3000A0280520000000007FF, .cpst ⟨false, 20, 40, 41, 0x7FF⟩),
    (0xC40000802006000000000000, .rlkq 1 2 3),
    (0xC8000A028000000222000000, .put ⟨false, false, true, 1, 20, 40, 0⟩),
    (0xC9000A028058000E20000000, .putsig ⟨false, false, true, 0, 20, 40, 0⟩ true 44),
    (0xCA000A028000000280000000, .get ⟨false, true, false, 0, 20, 40, 0⟩),
    (0xCB000A028000000A00000000, .redm ⟨false, .bf16, false, false, 20, 40, 0⟩),
    (0xCB200A028000024220000000, .redm ⟨false, .acc 9, false, true, 20, 40, 0⟩),
    (0xCC100A028000000280000000, .redr ⟨false, .i32, true, 20, 40, 0⟩),
    (0xCD040A028000000000060000, .tsrdH true 20 40 3),
    (0xCD100A000000000000000000, .tsrdP false 20 0),
    (0xD000048280003FC220000000, .bcast ⟨false, false, true, 0xFF, 9, 40⟩),
    (0xD10002800000000000000000, .seqrd 5),
    (0xD20000007000000000000000, .seqfence 7) ]
theorem test_decodeEngines1 : wordsEngines1.all (fun p => decide (decodeTableWord 96 p.1 = some p.2)) = true := by decide

/-- Words of the instructions of the engines, the fabric and the loop (R288, R317, R335, R353, R357),
      composed from the formats of R34 to R38. -/
def wordsEngines2 : List (Nat × Instr) :=
  [ (0xD8100A00400A018600000000, .coll ⟨false, .add, .n32, false, false, 0, 20, 4, 5, 6, 0, 0⟩),
    (0xD9000F028000001580000000, .rsort ⟨false, true, .pkg, 30, 40, 0⟩) ]
theorem test_decodeEngines2 : wordsEngines2.all (fun p => decide (decodeTableWord 96 p.1 = some p.2)) = true := by decide

/-- Words of the instructions on system registers (R231, R351, R380, R397), composed from the formats of R34 to R38. -/
def wordsSystem : List (Nat × Instr) :=
  [ (0xE00002000000000400000000, .clkrd 4 2),
    (0xE10002000000002200000000, .idrd 4 0x11),
    (0xE20003000000000200000000, .enrd 6 0 1),
    (0xE20003809000000800000000, .enrd 7 9 4),
    (0xE30002005000000200000000, .ttq 4 5 1),
    (0xE40002000000000200000000, .crd 4 1),
    (0xE50000009000040A00000000, .cwr 0x205 9) ]
theorem test_decodeSystem : wordsSystem.all (fun p => decide (decodeTableWord 96 p.1 = some p.2)) = true := by decide

/-- Words that fail check 1 of R46. -/
def wordsCheck1 : List Nat :=
  [0x000000000000000000000000, 0x170000000000000000000000, 0x1F0000000000000000000000, 0x320000000000000000000000,
      0x580000000000000000000000, 0x770000000000000000000000, 0x8E0000000000000000000000, 0xA70000000000000000000000,
      0xB50000000000000000000000, 0xC50000000000000000000000, 0xCE0000000000000000000000, 0xD30000000000000000000000,
      0xDA0000000000000000000000, 0xE60000000000000000000000, 0xFF0000000000000000000000]
theorem test_check1 : wordsCheck1.all (fun w => match decode (BitVec.ofNat 96 w) with
    | .ok _ => false
    | .error e => e.number == 1) = true := by decide

/-- Words that fail check 2 of R46. -/
def wordsCheck2 : List Nat :=
  [0x010800000000000000000000, 0x010400000000000000000000, 0x020000800000000000000000, 0x0C0000000000000000000100,
      0x200001002002000000000000, 0x210000000000000001000000, 0x240800000000000000001000, 0x400000000000000080000000,
      0x430000000000000040000000, 0x550000000000004000000000, 0x600000000000000000000001, 0x600000000000000280000800,
      0x700000000000100000000000, 0x730800000000000000000000, 0x800000000000000000000400, 0x820000000000000400040000,
      0xA00000000000000000000040, 0xB1007F800000000000000000, 0xB20000000000004000000000, 0xC30000000000000000000800,
      0xCA0000000000000002000000, 0xD00000000000004200000000, 0xE20000001000000200000000, 0xE50000800000000000000000]
theorem test_check2 : wordsCheck2.all (fun w => match decode (BitVec.ofNat 96 w) with
    | .ok _ => false
    | .error e => e.number == 2) = true := by decide

/-- Words that fail check 3 of R46. -/
def wordsCheck3 : List Nat :=
  [0x030000100000000000000000, 0x050080000000000000000000, 0x200880000000000000000000, 0x220000100000000000000000,
      0x2D0080000000000000000000, 0x400800000200000000000000, 0x550080000000000000000000, 0x560000000000400000000000,
      0x600800000000000280000100, 0x800008000000000000000000, 0x820000000010000400000000, 0xA10000008000000000000000,
      0xA50004000000000000000000, 0xB00800000000400000000000, 0xCB2000000000040200000000, 0xE00080000000000000000000]
theorem test_check3 : wordsCheck3.all (fun w => match decode (BitVec.ofNat 96 w) with
    | .ok _ => false
    | .error e => e.number == 3) = true := by decide

/-- Words that fail check 4 of R46. -/
def wordsCheck4 : List Nat :=
  [0x02000000000000000A000000, 0x021000000000000000000000, 0x090000000000000000008100, 0x090000000000000000010100,
      0x0D0000000000000000004010, 0x150000000000000000000020, 0x200000000000001000000000, 0x200800000000000400000000,
      0x2B6000000000000000000000, 0x2B8000000000000280000000, 0x400000000000002800000000,
      0x556000000000000000000000, 0x600000000000002400000000, 0x600000000000000300000000, 0x6B0000000000000080000000,
      0x700000000000082400000000, 0x710000000000000000000000, 0x734000000000000000000000, 0x730000000000000408000000,
      0x741000000000001800000000, 0x820000000000000000000000, 0x870000000000000400000000, 0x880000000000000000001040,
      0x880000000000000280000040, 0xA00000000000000000000011, 0xB00000000000002000000000, 0xB00000000000000020000000,
      0xB00000000000000300000000, 0xB00000000000000002000000, 0xB20000000000002800000000, 0xC00000000000000010000000,
      0xC80000000000000180000000, 0xD80000000000001200000000, 0xD90000000000000000000000, 0xE01000000000000000000000]
theorem test_check4 : wordsCheck4.all (fun w => match decode (BitVec.ofNat 96 w) with
    | .ok _ => false
    | .error e => e.number == 4) = true := by decide

/-! ### Ill-formed terms, refused by `Instr.wf` -/

/-- Events whose core, port, node, context or half does not exist (R11, R12, R20, R381). -/
def illEvents : List Instr :=
  [ .issueSelect 192, .reggrowGrant 192 0, .reggrowGrant 0 48, .reggrowDeny 192 0, .reggrowDeny 0 48, .accessIssue 192,
    .tileDatapathExecute 192 0, .tileDatapathExecute 0 2, .updateOnlyFlush 192 0, .flushMarkerAck 32, .workSteal 192,
    .nodeRead 32 none, .nodeWrite 32 none, .nodeAtomic 32 none, .heldWriteRelease 32, .atomicCacheWriteback 32 0,
    .replyReceive 32 none, .packetIntegrityFailure 32 false, .linkFailure 32, .reductionContribution 32 none,
    .reductionRead 32 none, .timestampQuery 32 none, .slotConfigApply 32 none, .hotGranuleCopy 48 0, .leaseWrite 48 0,
    .dissolveContext .pf 48, .installPortKey .pf 48 0 none, .installPortKey .pf 0 32 none, .retransmissionRequest 32 false ]
theorem test_wf_events : illEvents.all (fun i => !i.wf) = true := by decide

/-- Control instructions with an illegal slot, genmax or count (R37, R95). -/
def illControl : List Instr :=
  [ .bra ⟨0, 5⟩, .brc false 0 ⟨0, 5⟩ 0, .call 0 ⟨0, 7⟩, .join ⟨0, 6⟩, .role ⟨0, ⟨0, 5⟩, 0, 0, 0, false⟩,
    .role ⟨0, ⟨0, 0⟩, 0, 0, 129, false⟩, .role ⟨0, ⟨0, 0⟩, 0, 0, 1, true⟩, .yieldcR 0 ⟨0, 5⟩, .yieldcF 0 ⟨0, 5⟩,
    .bara 0 0 1025, .bars 0 0 1025 ]
theorem test_wf_control : illControl.all (fun i => !i.wf) = true := by decide

/-- Moves and lane instructions with an illegal type, register file, mask or genmax (R133). -/
def illMoves : List Instr :=
  [ .mov ⟨true, .n32, 0, 0, 0⟩, .mov ⟨false, .i16, 0, 0, 0⟩, .mov ⟨true, .i32, 256, 0, 0⟩, .mov ⟨true, .i32, 0, 256, 0⟩,
    .mov ⟨true, .i32, 0, 0, 1⟩, .movi ⟨true, 256, 0, 0⟩, .movi ⟨true, 0, 0, 1⟩, .movl ⟨true, .s, 256, 0, 0⟩,
    .movl ⟨true, .s, 0, 0, 1⟩, .aff ⟨true, 256, 0, 0, 0⟩, .aff ⟨true, 0, 256, 0, 0⟩, .aff ⟨true, 0, 0, 0, 1⟩,
    .redl ⟨.add, .i16, false, 0, 0, 0⟩, .redl ⟨.add, .i32, true, 0, 0, 0⟩, .redl ⟨.fadd .rne, .n32, false, 0, 0, 0⟩,
    .redl ⟨.fadd (.rs 0), .i32, false, 0, 0, 0⟩, .scanl ⟨.fmin, .n32, false, 0, 0, 0⟩ ]
theorem test_wf_moves : illMoves.all (fun i => !i.wf) = true := by decide

/-- Integer instructions with an illegal type, SAT, register file or mask (R146, R150). -/
def illIntegers : List Instr :=
  [ .iadd ⟨false, .b128, false, 0, 0, 0, 0⟩, .isub ⟨true, .i32, false, 256, 0, 0, 0⟩, .imul ⟨true, .i32, false, 0, 256, 0, 0⟩,
    .imulh ⟨false, .i32, true, 0, 0, 0, 0⟩, .imad ⟨true, .i32, false, 0, 0, 0, 256, 0⟩, .imin ⟨false, .i32, true, 0, 0, 0, 0⟩,
    .imax ⟨true, .i32, false, 0, 0, 256, 0⟩, .iabs ⟨true, .i32, false, 0, 0, 1⟩, .iand ⟨false, .i32, true, 0, 0, 0, 0⟩,
    .ior ⟨true, .i32, false, 0, 0, 0, 1⟩, .ixor ⟨false, .b128, false, 0, 0, 0, 0⟩, .inot ⟨false, .i32, true, 0, 0, 0⟩,
    .shl ⟨false, .i32, true, 0, 0, 0, 0⟩, .shr ⟨false, .i32, true, 0, 0, 0, 0⟩, .sha ⟨false, .i32, true, 0, 0, 0, 0⟩,
    .rot ⟨false, .i32, true, 0, 0, 0, 0⟩, .bfx ⟨false, .b128, 0, 0, 0, 0, 0⟩, .bfx ⟨true, .i32, 0, 256, 0, 0, 0⟩,
    .bfi ⟨false, .b128, 0, 0, 0, 0, 0, 0⟩, .bfi ⟨true, .i32, 0, 0, 256, 0, 0, 0⟩, .popc ⟨false, .i32, true, 0, 0, 0⟩,
    .clz ⟨false, .i32, true, 0, 0, 0⟩, .brev ⟨true, .i32, false, 256, 0, 0⟩, .icmp ⟨false, .eq, .b128, .set, 0, 0, 0, 0⟩,
    .icmp ⟨true, .eq, .i32, .keep, 0, 0, 0, 0⟩, .icmp ⟨true, .eq, .i32, .set, 0, 256, 0, 0⟩, .sel ⟨true, .i32, 256, 0, 0, 0, 0⟩,
    .sel ⟨false, .b128, 0, 0, 0, 0, 0⟩, .lea ⟨false, .b128, 0, 0, 0, 0, 0, 0⟩, .lea ⟨true, .i32, 0, 0, 0, 0, 0, 1⟩ ]
theorem test_wf_integers : illIntegers.all (fun i => !i.wf) = true := by decide

/-- Floating and packed instructions with an illegal mode, type, file or mask (R153, R162, R164, R165). -/
def illFloats : List Instr :=
  [ .fadd ⟨true, .f32, .rne, false, 256, 0, 0, 0⟩, .fsub ⟨true, .f32, .rs 256, false, 0, 0, 0, 0⟩,
    .fmul ⟨true, .f32, .rne, false, 0, 0, 0, 1⟩, .ffma ⟨true, .plain, .f32, .rne, false, 0, 0, 0, 256, 0⟩,
    .fmin ⟨true, .f32, 0, 0, 256, 0⟩, .fmax ⟨true, .f32, 0, 0, 0, 1⟩, .fcmp ⟨true, .eq, .f32, .keep, 0, 0, 0, 0⟩,
    .fcmp ⟨true, .eq, .f32, .set, 0, 256, 0, 0⟩, .fclass ⟨true, .f32, 256, 0, 0⟩, .frnd ⟨false, .f32, .rne, true, 0, 0, 0⟩,
    .fscl ⟨true, .f32, .rne, false, 0, 256, 0, 0⟩, .frcp ⟨true, .f32, .rne, false, 256, 0, 0⟩,
    .frsq ⟨false, .f32, .rz, false, 0, 0, 0⟩, .fsqrt ⟨true, .f32, .rne, false, 0, 0, 1⟩,
    .fexp2 ⟨false, .f32, .rup, false, 0, 0, 0⟩, .flog2 ⟨false, .f32, .rdn, false, 0, 0, 0⟩,
    .ftanh ⟨false, .f32, .rs 0, false, 0, 0, 0⟩, .cvt ⟨false, .int .b128, .flt .f32, .rne, false, 0, 0, 0⟩,
    .cvt ⟨false, .flt .f32, .int .b128, .rne, false, 0, 0, 0⟩, .packn ⟨.flt .f32, .rne, false, 0, 0, 0⟩,
    .unpkn ⟨.int .i32, 0, 0, 0⟩, .dotq ⟨.flt .e2m1, true, .acc 0 0, 0, 0, 0⟩, .dotx ⟨.int .i8, false, .acc 0 0, 0, 0, 0⟩,
    .dotb ⟨.flt .f16, true, .acc 0 0, 0, 0, 0⟩, .doth ⟨.int .i16, false, .vec 0 0 .rz false, 0, 0, 0⟩ ]
theorem test_wf_floats : illFloats.all (fun i => !i.wf) = true := by decide

/-- Tile, queue, memory, engine and system instructions with an illegal type, count, order, colour or field (R182, R207, R270,
R288, R317, R335, R353, R380). -/
def illRest : List Instr :=
  [ .mma ⟨false, none, .flt .f32, false, 0, 0, 0, 0⟩, .mmloop ⟨false, none, .flt .e2m1, true, 0, 0, 0, 0⟩ 0 0,
    .arow ⟨.int .n32, 0, 0, 0, 0⟩, .scacc ⟨.f16, .bf16, 0, 0, 0, 0, 0⟩, .scacc ⟨.bf16, .f16, 0, 0, 0, 0, 0⟩,
    .arslv ⟨.flt .f16, .rne, false, 0, 0, 0, 1, 0⟩, .arslv ⟨.flt .f32, .rs 0, false, 0, 0, 0, 1, 0⟩,
    .arslv ⟨.flt .f32, .rne, false, 0, 0, 0, 0, 0⟩, .acmp ⟨.eq, 0, 0, 0, 0, 65, 0⟩, .asave ⟨false, 0, 0, 0, 0, 0⟩,
    .aload ⟨false, 0, 0, 0, 127, 0⟩, .qdef 0 0 17 false, .qld ⟨false, false, .grp, false, 1, 0, 0, 0, 0, 0⟩,
    .ld ⟨false, false, .ty .i4, .grp, .rlx, 0, 0, 0, 0, 0⟩, .ld ⟨false, false, .ty .i32, .grp, .rel, 0, 0, 0, 0, 0⟩,
    .st ⟨false, false, .ty .i32, .grp, .acq, 0, 0, 0, 0, 0, 0, 0⟩, .st ⟨false, false, .ty .i32, .grp, .rlx, 0, 1, 0, 0, 0, 0, 0⟩,
    .atom ⟨false, false, .add, .b128, .grp, .rlx, 0, 0, 0, 0, 0⟩, .atom ⟨false, false, .exch, .i16, .grp, .rlx, 0, 0, 0, 0, 0⟩,
    .pref ⟨true, 256, 0, 0, 0⟩, .cpl ⟨false, .i16, .grp, 0, 0, 0, 0, 0, 0, 0⟩, .cpbox ⟨false, .i4, .grp, 0, 0, 0, 0⟩,
    .get ⟨false, false, true, 0, 0, 0, 0⟩, .get ⟨false, false, false, 1, 0, 0, 0⟩, .bcast ⟨false, false, false, 1, 0, 0⟩,
    .coll ⟨false, .add, .i16, false, false, 0, 0, 0, 0, 0, 0, 0⟩, .enrd 0 1 3 ]
theorem test_wf_rest : illRest.all (fun i => !i.wf) = true := by decide

/-! ### A small machine -/

/-- The slot word of NOP (R95). -/
def nopWord : IWord := 0x010000000000000000000000#96
/-- A kernel with a trap handler, four groups, four tiles and four barriers. -/
def kern : Kernel :=
  { loadKernel with trapEntry := 0x100, groups := 4, genmax := 64, accTiles := 4, nb := 4, watchdog := 1000 }
/-- A queue of `n` records, each 5. -/
def queueOf (depth n : Nat) (store : Bool) : Queue :=
  { depth := depth, rec0 := depth, store := store, fault := false, recs := List.replicate n { src := none, data := 5 } }
/-- Group 0: s1 to s40 and v4 to v8 hold values; the rest is as R115 starts it. -/
def grp0 : Group :=
  { Group.fresh 64 0 with
    s := [(1, 7), (2, 0xF0), (3, 0x1000), (4, 9), (5, 0xFFFFFFFFFFFFFFFE), (6, 1), (7, 0x8000000000000001), (9, 0x200100)],
    v := [(4, .affine 10 3), (5, .uniform 7), (6, VReg.ofLanes fun j => BitVec.ofNat 32 (j * j)), (8, .affine 0 4)],
    queues := [queueOf 128 70 false, queueOf 128 3 true, queueOf 0 0 false, queueOf 64 0 false, queueOf 64 60 true,
               queueOf 64 0 true, queueOf 0 0 false, queueOf 0 0 false] }
/-- The fragment that issues: lane masks `m`, at the first slot of the loaded line. -/
def fragOf (m : List Mask) : Fragment := Fragment.start 0 0 (loadKernel.pc 0x100) m 1 1000
/-- All lanes of group 0. -/
def lanes0 : List Mask := allLanes :: List.replicate 15 0
/-- The team that issues. -/
def team0 : Team :=
  { loadTeam 0 false with
    kernel := kern, groups := [grp0, Group.fresh 64 1, Group.fresh 64 2, Group.fresh 64 3], frags := [fragOf lanes0],
    bars := List.replicate 4 { phase := 0, count := 0, expect := 0 }, tiles := List.replicate 4 Tile.zero, tiles0 := 4 }
/-- The issue latch, at the first slot of the line. -/
def iss0 : Issue :=
  { team := 0, frag := 0, thread := none, pc := loadKernel.pc 0x100, slot := 0, line := loadKernel.pc 0x100,
    next := loadKernel.pc 0x101, fa := 1, fb := 2, snap := none }
/-- The machine in which team `u` issues from the latch `i`, after a load of NOP. -/
def stateOf (u : Team) : State := { State.reset.loadWord nopWord with teams := [u], issue := some iss0, nextTeam := 1 }
/-- The issuer there. -/
def whoOf (u : Team) : Who := { iss := iss0, team := u, frag := u.frags.headD (fragOf lanes0), thr := none }
/-- The base state and its issuer. -/
def s0 : State := stateOf team0
def w0 : Who := whoOf team0
theorem test_s0_issues : s0.FragIssues w0 := ⟨⟨rfl, rfl⟩, rfl⟩
/-- The same with the lanes of group 0 and lanes 0 to 3 of group 1. -/
def team2 : Team := { team0 with frags := [fragOf (allLanes :: 0xF :: List.replicate 14 0)] }
def s2 : State := stateOf team2
def w2 : Who := whoOf team2
theorem test_s2_issues : s2.FragIssues w2 := ⟨⟨rfl, rfl⟩, rfl⟩
/-- The same in the trap handler. -/
def teamH : Team := { team0 with frags := [{ fragOf lanes0 with mode := .handler 0x200100 0x40 5 0x200101 0 1, cls := 3 }] }
def sH : State := stateOf teamH
def wH : Who := whoOf teamH
/-- The same under a regioned kernel. -/
def teamR : Team := { team0 with kernel := { kern with regioned := true } }
def sR : State := stateOf teamR
def wR : Who := whoOf teamR
/-- The same in deterministic mode. -/
def teamD : Team := { team0 with kernel := { kern with determ := true } }
def sD : State := stateOf teamD
def wD : Who := whoOf teamD
/-- The same without a trap handler. -/
def teamN : Team := { team0 with kernel := { kern with trapEntry := 0 } }
def sN : State := stateOf teamN
def wN : Who := whoOf teamN
/-- An access thread of group 0 that issues. -/
def thr0 : Thread :=
  { group := 0, s := [(1, 0x1000), (2, 0x2000000020), (3, 10), (4, 0), (5, 0x1000000000000)],
    frag := { Fragment.start 0 0 (loadKernel.pc 0x100) (1 :: List.replicate 15 0) 1 1000 with entry := none },
    running := true, lastIssue := 0 }
def teamT : Team := { team0 with threads := [thr0] }
def sT : State := { stateOf teamT with issue := some { iss0 with thread := some 0 } }
def wT : Who := { iss := { iss0 with thread := some 0 }, team := teamT, frag := thr0.frag, thr := some thr0 }
theorem test_sT_issues : sT.Issuer wT := ⟨rfl, rfl⟩

/-! ### Witnesses: vector and group forms -/

/-- The present groups of the base state, and those that qualify with no mask. -/
theorem qual_s0 : w0.qual 0 = [0] ∧ w0.present = [0] ∧ w0.lowest = 0 := by decide
theorem wit_VectorFormsComplete : (Instr.iadd ⟨false, .i32, false, 63, 4, 5, 0⟩).vecForm = some ⟨0, 63, 1, true⟩ ∧
    s0.FragIssues w0 ∧ ∀ g ∈ w0.qual 0, ∀ k < 1, 63 + k = 0 ∨ 63 + k < (w0.group g).genmax :=
  ⟨by decide, test_s0_issues, by decide⟩
theorem wit_ShapeFault : s0.FragIssues w0 ∧ w0.qual 0 = [0] ∧ (64#11 : VReg11) ≠ 0 ∧
    (w0.group 0).genmax ≤ (64#11 : VReg11).toNat ∧ (w0.v 0 6).isGeneral = true :=
  ⟨test_s0_issues, by decide +kernel⟩
theorem wit_GroupFormsComplete : (Instr.iadd ⟨true, .i64, false, 255, 1, 2, 0⟩).groupForm = some ⟨255, true⟩ ∧ sT.Issuer wT ∧
    (Instr.regqry 9).groupFormExec = some ⟨9, true⟩ ∧ w0.thr = none ∧ s0.Issuer w0 :=
  ⟨by decide, test_sT_issues, by decide, rfl, test_s0_issues.1⟩
theorem wit_MaskFormsComplete : (Instr.icmp ⟨false, .lt, .i32, .or 2, 20, 4, 5, 0⟩).maskForm = some (0, 20, true) ∧
    s0.FragIssues w0 := ⟨by decide, test_s0_issues⟩
theorem wit_WordResults : (Instr.sha ⟨false, .i32, false, 10, 4, 5, 0⟩).vecForm = some ⟨0, 10, 1, true⟩ ∧
    (Instr.sha ⟨false, .i32, false, 10, 4, 5, 0⟩).laneWord.isSome = true ∧ s0.FragIssues w0 ∧
    (∀ g ∈ w0.qual 0, 10 = 0 ∨ 10 < (w0.group g).genmax) ∧ (0 ∈ w0.qual 0 ∧ 0 < w0.team.groups.length) ∧
    (w0.eff 0 0).getLsbD 63 = true ∧ (w2.eff 0 1).getLsbD 4 = false ∧ (w2.group 1).exited.getLsbD 4 = false :=
  ⟨by decide, by decide, test_s0_issues, by decide +kernel⟩
theorem wit_SaturatedResults : (Instr.iadd ⟨false, .n32, true, 10, 4, 5, 0⟩).vecForm = some ⟨0, 10, 1, true⟩ ∧
    (Instr.iadd ⟨false, .n32, true, 10, 4, 5, 0⟩).exactLane.isSome = true ∧ s0.FragIssues w0 ∧
    (∀ g ∈ w0.qual 0, 10 = 0 ∨ 10 < (w0.group g).genmax) ∧ w0.regioned = false :=
  ⟨by decide, by decide, test_s0_issues, by decide, by decide⟩
theorem wit_PairResults : (Instr.iadd ⟨false, .i64, false, 62, 4, 6, 0⟩).vecForm = some ⟨0, 62, 2, true⟩ ∧
    (Instr.iadd ⟨false, .i64, false, 62, 4, 6, 0⟩).laneDword.isSome = true ∧ s0.FragIssues w0 ∧
    (∀ g ∈ w0.qual 0, ∀ k < 2, 62 + k = 0 ∨ 62 + k < (w0.group g).genmax) :=
  ⟨by decide, by decide, test_s0_issues, by decide⟩
theorem wit_GroupResults : (Instr.iadd ⟨true, .i64, false, 10, 1, 5, 0⟩).groupForm = some ⟨10, true⟩ ∧
    (Instr.iadd ⟨true, .i64, false, 10, 1, 5, 0⟩).groupWord.isSome = true ∧ sT.Issuer wT ∧ wT.present.length ≤ 1 ∧
    (Instr.emget .own 10).groupFormExec = some ⟨10, true⟩ ∧ (Instr.emget .own 10).groupWord.isSome = true ∧ s0.Issuer w0 ∧
    w0.thr = none :=
  ⟨by decide, by decide, test_sT_issues, by decide, by decide, by decide, test_s0_issues.1, rfl⟩
theorem wit_CompareMasks : (Instr.ballot ⟨true, 20, 4, 0⟩).maskForm = some (0, 20, true) ∧
    (Instr.ballot ⟨true, 20, 4, 0⟩).laneTest.isSome = true ∧ (Instr.icmp ⟨false, .ge, .i64, .keep, 20, 4, 6, 2⟩).laneTest.isSome = true ∧
    s0.FragIssues w0 := ⟨by decide, by decide, by decide, test_s0_issues⟩
theorem wit_LaneSums : (⟨.add, .n32, true, 10, 4, 0⟩ : RedArgs).op = .add ∧ tyWidth .n32 = 32 ∧ s0.FragIssues w0 ∧
    (∀ g ∈ w0.qual 0, (10#11 : VReg11) = 0 ∨ (10#11 : VReg11).toNat < (w0.group g).genmax) :=
  ⟨rfl, by decide, test_s0_issues, by decide⟩
theorem wit_ShapeForms : s0.FragIssues w0 ∧
    (∀ g ∈ w0.qual 0, (10#11 : VReg11) = 0 ∨ (10#11 : VReg11).toNat < (w0.group g).genmax) ∧
    (∀ j < 64, (w0.v 0 5).lane j = (w0.v 0 5).lane 0) ∧
    (∀ j < 64, (w0.v 0 4).lane j = (w0.v 0 4).lane 0 + ((w0.v 0 4).lane 1 - (w0.v 0 4).lane 0) * BitVec.ofNat 32 j) :=
  ⟨test_s0_issues, by decide, by decide, by decide⟩
/-- The base state with the lane numbers in v9 of group 0. -/
def teamI : Team := { team0 with groups := [{ grp0 with v := [(4, .affine 10 3), (6, VReg.ofLanes fun j => BitVec.ofNat 32 (j * j)),
  (9, .affine 0 1)] }, Group.fresh 64 1, Group.fresh 64 2, Group.fresh 64 3] }
def sI : State := stateOf teamI
def wI : Who := whoOf teamI
theorem wit_IndexedLoad : tableOk 2 3 = true ∧ sI.FragIssues wI ∧
    (∀ g ∈ wI.qual 0, ∀ j < 64, (wI.eff 0 g).getLsbD j = true → ((wI.v g 9).lane j).toNat < 64 * (3#11 : BitVec 11).toNat) ∧
    (∀ g ∈ wI.qual 2, ∀ j < 64, (wI.eff 2 g).getLsbD j = true → ((wI.v g 9).lane j).toNat < (8#11 : BitVec 11).toNat) ∧
    (∀ g ∈ wI.qual 0, (10#11 : VReg11) = 0 ∨ (10#11 : VReg11).toNat < (wI.group g).genmax) :=
  ⟨by decide, ⟨⟨rfl, rfl⟩, rfl⟩, by decide, by decide, by decide⟩
theorem wit_IndexedStore : tableOk 12 8 = true ∧ sI.FragIssues wI ∧
    (∀ g ∈ wI.qual 2, ∀ j < 64, (wI.eff 2 g).getLsbD j = true → ((wI.v g 9).lane j).toNat < (8#11 : BitVec 11).toNat) ∧
    (∀ g ∈ wI.qual 2, ∀ k < (8#11 : BitVec 11).toNat, (12#11 : VReg11).toNat + k = 0 ∨ (12#11 : VReg11).toNat + k < (wI.group g).genmax) ∧
    (∀ h < 64, 7 < h → (wI.eff 2 0).getLsbD h = true → ((wI.v 0 9).lane h).toNat ≠ 7) :=
  ⟨by decide, ⟨⟨rfl, rfl⟩, rfl⟩, by decide, by decide, by decide⟩
theorem wit_IndexFault : sI.FragIssues wI ∧ 0 ∈ wI.qual 0 ∧ (wI.eff 0 0).getLsbD 3 = true ∧
    (3#11 : BitVec 11).toNat ≤ ((wI.v 0 9).lane 3).toNat ∧
    (∀ h ∈ wI.qual 0, ∀ k < 64, 64 * h + k < 64 * 0 + 3 → (wI.eff 0 h).getLsbD k = true →
      ((wI.v h 9).lane k).toNat < (3#11 : BitVec 11).toNat) ∧ tableOk 2 3 = true ∧ tableOk 12 3 = true :=
  ⟨⟨⟨rfl, rfl⟩, rfl⟩, by decide +kernel⟩
theorem wit_NanResults : (Instr.fmul ⟨false, .f16, .rz, true, 10, 6, 6, 0⟩).vecForm = some ⟨0, 10, 1, true⟩ ∧
    (Instr.fmul ⟨false, .f16, .rz, true, 10, 6, 6, 0⟩).nanSources = some (.f16, [6, 6]) ∧ s0.FragIssues w0 ∧
    (∀ g ∈ w0.qual 0, 10 = 0 ∨ 10 < (w0.group g).genmax) ∧ nanCode .f16 0x7C01 = true ∧ nanCode .f32 0x7FC00000 = true ∧
    nanCode .bf16 0xFF81 = true :=
  ⟨by decide, by decide, test_s0_issues, by decide +kernel⟩

/-! ### Witnesses: control flow, traps -/

/-- `TargetGood` as a test. -/
def goodTarget (s : State) (w : Who) (pc : DWord) : Bool :=
  pcValid pc && (match s.fetch w.team.ctx (pcLine pc) with
    | .line l => lineBT l (pcSlot pc)
    | _ => false)
theorem goodTarget_spec {s : State} {w : Who} {pc : DWord} (h : goodTarget s w pc = true) : TargetGood s w pc := by
  unfold goodTarget at h
  split at h <;> simp_all [TargetGood]
theorem test_target_s0 : TargetGood s0 w0 (w0.target ⟨0, 0⟩) := goodTarget_spec (by decide +kernel)
theorem test_target_sT : TargetGood sT wT (wT.target ⟨0, 0⟩) := goodTarget_spec (by decide +kernel)
theorem test_target_sH : TargetGood sH wH 0x200100 := goodTarget_spec (by decide +kernel)
theorem wit_PlainTransfers : s0.Issuer w0 ∧ TargetGood s0 w0 (w0.target ⟨0, 0⟩) ∧ sT.Issuer wT ∧
    TargetGood sT wT (wT.target ⟨0, 0⟩) := ⟨test_s0_issues.1, test_target_s0, test_sT_issues, test_target_sT⟩
theorem wit_WholeTransfers : s0.Issuer w0 ∧ (∀ g, brcTakes w0 false 0 0 g = 0) ∧
    ((∃ g, brcTakes w0 true 0 0 g ≠ 0) ∧ ∀ g, brcTakes w0 true 0 0 g = w0.eff 0 g) ∧
    ((∃ g ∈ w0.present, w0.exec g ≠ 0) ∧ (∀ g ∈ w0.present, w0.exec g ≠ 0 → w0.s g 9 = 0x200100) ∧ TargetGood s0 w0 0x200100) ∧
    (∃ g ∈ w0.present, w0.eff 0 g ≠ 0) ∧ (14#11 : VReg11).toNat % 2 = 0 :=
  ⟨test_s0_issues.1, fun g => by simp [brcTakes, w0, whoOf, Who.s, Group.sget],
    ⟨⟨0, by decide⟩, fun g => by
      have h : w0.s g (BitVec.toNat (0 : SReg)) = 0 := rfl
      simp only [brcTakes, if_true]
      rw [h]
      exact BitVec.and_allOnes⟩,
    ⟨⟨0, by decide, by decide⟩, by decide, test_target_s0⟩, ⟨0, by decide, by decide⟩, by decide⟩
/-- A fragment whose enable words are zero, and one whose lanes hold a target in v14 and v15. -/
def teamE : Team := { team0 with frags := [{ fragOf lanes0 with e := List.replicate 16 0 }] }
def teamX : Team := { team0 with groups := [{ grp0 with v := [(14, .uniform 0x200100)] }, Group.fresh 64 1, Group.fresh 64 2,
  Group.fresh 64 3] }
theorem wit_WholeTransfersRest : (stateOf teamE).Issuer (whoOf teamE) ∧ (∀ g ∈ (whoOf teamE).present, (whoOf teamE).exec g = 0) ∧
    (stateOf teamX).Issuer (whoOf teamX) ∧
    (∀ g ∈ (whoOf teamX).present, ∀ j < 64, ((whoOf teamX).eff 0 g).getLsbD j = true → (whoOf teamX).pair g 14 j = 0x200100) :=
  ⟨⟨rfl, rfl⟩, by decide, ⟨rfl, rfl⟩, by decide⟩
theorem wit_BranchSplits : s0.FragIssues w0 ∧ (∃ g, brcTakes w0 false 2 0 g ≠ 0) ∧
    (∃ g, brcTakes w0 false 2 0 g ≠ w0.eff 0 g) ∧ TargetGood s0 w0 (w0.target ⟨0, 0⟩) ∧
    (s0.freeEntry w0.team.ctx w0.team.core).isSome = true :=
  ⟨test_s0_issues, ⟨0, by decide⟩, ⟨0, by decide⟩, test_target_s0, by decide +kernel⟩
theorem wit_JoinOpensFrame : s0.FragIssues w0 ∧ TargetGood s0 w0 (w0.target ⟨0, 0⟩) ∧ w0.team.frames.length < 512 ∧
    (s0.freeEntry w0.team.ctx w0.team.core).isSome = true :=
  ⟨test_s0_issues, test_target_s0, by decide, by decide +kernel⟩
/-- A team with 512 open frames. -/
def teamF : Team := { team0 with frames := (List.range 512).map fun n =>
  ({ num := n, entry := none, pc := 0, x := lanes0, en := lanes0, cls := 1, link := none } : Frame) }
theorem wit_JoinOverflow : (stateOf teamF).FragIssues (whoOf teamF) ∧ (whoOf teamF).regioned = false ∧
    TargetGood (stateOf teamF) (whoOf teamF) ((whoOf teamF).target ⟨0, 0⟩) ∧ 512 ≤ (whoOf teamF).team.frames.length :=
  ⟨⟨⟨rfl, rfl⟩, rfl⟩, by decide, goodTarget_spec (by decide +kernel), by simp [whoOf, teamF]⟩
theorem wit_ExitEndsLanes : s0.FragIssues w0 ∧ w0.frag.m.length = 16 := ⟨test_s0_issues, by decide⟩
theorem wit_RoleMovesGroup : s2.FragIssues w2 ∧ (⟨6, ⟨0, 0⟩, 1, 2, 0, true⟩ : RoleArgs).keep = true ∧ 1 ∈ w2.present ∧
    1 < w2.team.kernel.groups ∧ TargetGood s2 w2 (w2.target ⟨0, 0⟩) ∧
    (∀ st, (w2.team.group 1).station = some st → st.base + st.n ≤ (w2.team.group 1).genmax) ∧
    (s2.freeEntry w2.team.ctx w2.team.core).isSome = true :=
  ⟨test_s2_issues, rfl, by decide, by decide, goodTarget_spec (by decide +kernel), (by intro st h; cases h), by decide +kernel⟩
theorem wit_BarrierForms : s0.FragIssues w0 ∧ w0.regioned = false ∧ (3#4 : BitVec 4).toNat < w0.team.kernel.nb ∧
    (3#4 : BitVec 4).toNat < w0.team.bars.length ∧ 0 < w0.team.groups.length ∧
    (w0.present.filter fun g => w0.exec g != 0) = [0] ∧ s0.update = [] ∧ s0.accessesOut w0 = false ∧
    w0.team.need (1#11 : BitVec 11).toNat ≤ (w0.team.bar 3).count + 1 ∧ ¬ w0.team.need (0#11 : BitVec 11).toNat ≤ (w0.team.bar 3).count + 1 :=
  ⟨test_s0_issues, by decide, by decide, by decide, by decide, by decide, rfl, by decide, by decide, by decide⟩
theorem wit_TrapEntry : s0.FragIssues w0 ∧ w0.frag.mode = .normal ∧ w0.team.kernel.trapEntry ≠ 0 ∧
    s0.roundHeld w0 = false ∧ w0.team.kernel.regioned = false := ⟨test_s0_issues, rfl, by decide, rfl, rfl⟩
theorem wit_TrapEndsTeam : (sN.roundHeld wN = false ∧ sH.roundHeld wH = false) ∧ (sN.FragIssues wN ∧ (wN.frag.mode = .normal → wN.team.kernel.trapEntry = 0) ∧
    ∀ r o p, wN.frag.mode ≠ .parked r o p) ∧
    (sH.FragIssues wH ∧ (wH.frag.mode = .normal → wH.team.kernel.trapEntry = 0) ∧ ∀ r o p, wH.frag.mode ≠ .parked r o p) :=
  ⟨⟨rfl, rfl⟩, ⟨⟨⟨rfl, rfl⟩, rfl⟩, fun _ => rfl, fun _ _ _ h => by cases h⟩, ⟨⟨rfl, rfl⟩, rfl⟩, fun h => (by cases h),
    fun _ _ _ h => by cases h⟩
theorem wit_SoftwareTrap : s0.FragIssues w0 := test_s0_issues
/-- Fragments in a save and in a restore routine. -/
def teamS : Team := { team0 with frags := [{ fragOf lanes0 with mode := .save 0x200100 0x200180 1 1000 [(0, 3, 4)] [], cls := 3 }] }
def teamQ : Team := { team0 with frags := [{ fragOf lanes0 with mode := .restore 0x200100 1 1000 [(0, 3, 4)] [], cls := 3 }] }
theorem wit_TrapReturns : (sH.FragIssues wH ∧ wH.frag.mode = .handler 0x200100 0x40 5 0x200101 0 1 ∧ wH.s wH.lowest 9 = 0x200100 ∧
      TargetGood sH wH 0x200100) ∧
    ((stateOf teamS).FragIssues (whoOf teamS) ∧ (whoOf teamS).frag.mode = .save 0x200100 0x200180 1 1000 [(0, 3, 4)] []) ∧
    (stateOf teamQ).FragIssues (whoOf teamQ) ∧ (whoOf teamQ).frag.mode = .restore 0x200100 1 1000 [(0, 3, 4)] [] :=
  ⟨⟨⟨⟨rfl, rfl⟩, rfl⟩, rfl, by decide, test_target_sH⟩, ⟨⟨⟨rfl, rfl⟩, rfl⟩, rfl⟩, ⟨⟨rfl, rfl⟩, rfl⟩, rfl⟩
theorem wit_YieldContinues : s0.FragIssues w0 ∧ w0.frag.wait = .ready ∧ TargetGood s0 w0 (w0.target ⟨0, 0⟩) ∧
    (20#11 : VReg11).toNat % 2 = 0 ∧ s0.ops = [] := ⟨test_s0_issues, rfl, test_target_s0, by decide, rfl⟩
theorem wit_EnableWordsAndSafePoints : s0.FragIssues w0 ∧ w0.regioned = false := ⟨test_s0_issues, by decide⟩
theorem wit_FstatMoves : s0.FragIssues w0 ∧ w0.regioned = false ∧ w0.iss.snap = none := ⟨test_s0_issues, by decide, rfl⟩
theorem wit_SlabGrowth : s0.FragIssues w0 ∧ w0.regioned = false ∧ w0.frag.wait = .ready ∧
    (w0.team.growNeed w0.present (16 * 5) ≤ s0.freeSlabs w0.team.ctx w0.team.core ∧ s0.growBlocked w0.team.ctx w0.team.core = false) ∧
    (5#8 : BitVec 8).toNat ≤ 128 ∧ 128 < (129#8 : BitVec 8).toNat :=
  ⟨test_s0_issues, by decide, rfl, by decide +kernel, by decide, by decide⟩
/-- A context that owns no half-core, so that no slab is free. -/
def sNoSlab : State := { s0 with host := { s0.host with ctxs := [{ loadCtx with halfmap := 0 }] } }
theorem wit_SlabDenied : sNoSlab.FragIssues w0 ∧ w0.regioned = false ∧ w0.frag.wait = .ready ∧
    ¬ ((∀ g ∈ w0.present, 16 * 5 ≤ (w0.team.group g).genmax) ∨ (w0.team.growNeed w0.present (16 * 5) ≤ sNoSlab.freeSlabs w0.team.ctx w0.team.core ∧
      sNoSlab.growBlocked w0.team.ctx w0.team.core = false)) := ⟨⟨⟨rfl, rfl⟩, rfl⟩, by decide, rfl, by decide +kernel⟩
theorem wit_SlabShrink : s0.FragIssues w0 ∧ w0.regioned = false ∧ (∀ o ∈ s0.ops, o.team = w0.team.id → o.writes = []) ∧
    (∀ g r, s0.matrixReads w0.team.id g r = false) ∧ (∀ g, (w0.team.group g).station = none) :=
  ⟨test_s0_issues, by decide, by simp [show s0.ops = [] from rfl], fun _ _ => rfl, fun g =>
    match g with | 0 | 1 | 2 | 3 => rfl | _ + 4 => rfl⟩
theorem wit_ClocksAndIdentities : s0.FragIssues w0 ∧ w0.team.kernel.determ = false ∧ (∀ g, (w0.idItem 6 g).isSome = true) ∧
    sD.FragIssues wD ∧ wD.team.kernel.determ = true ∧ sH.FragIssues wH ∧ (∀ g, (wH.idItem 0x13 g).isSome = true) :=
  ⟨test_s0_issues, rfl, fun _ => rfl, ⟨⟨rfl, rfl⟩, rfl⟩, rfl, ⟨⟨rfl, rfl⟩, rfl⟩, fun _ => rfl⟩
theorem wit_EnergyReads : s0.FragIssues w0 ∧ (4#16 : BitVec 16).toNat ≤ 4 ∧ w0.team.kernel.determ = false ∧ sD.FragIssues wD ∧
    wD.team.kernel.determ = true := ⟨test_s0_issues, by decide, rfl, ⟨⟨rfl, rfl⟩, rfl⟩, rfl⟩
theorem wit_ControlRegisters : s0.FragIssues w0 ∧ w0.team.ctx < 48 ∧ (0x200#16 : BitVec 16).toNat = 0x200 + w0.team.ctx ∧
    (0x201#16 : BitVec 16).toNat ≠ 0x200 + w0.team.ctx ∧ (∃ v : DWord,
        v.extractLsb' 0 16 = 0x4B51#16 ∧ s0.crdRead w0.team.ctx 0 = some v) :=
  ⟨test_s0_issues, by decide, by decide, by decide, devId, by
    unfold devId; cases Config.steppingB1 <;> decide, rfl⟩
theorem wit_MinMax : s0.FragIssues w0 ∧ fltTyOk .f16 = true ∧ (w0.qual 0 = [0] ∧ (10#11 : VReg11).toNat < (w0.group 0).genmax) ∧
    nanCode .f16 0x7C01 = true ∧ codeRank 16 0x8000 < codeRank 16 0 ∧ codeRank 32 0xFF800000 < codeRank 32 0x80000001 ∧
    pickWord .bf16 false 0x8000 0 = 0x8000 ∧ pickWord .f32 true 0x7F800001 0x3F800000 = 0x3F800000 :=
  ⟨test_s0_issues, by decide +kernel⟩
theorem wit_ShapeFaults : s0.FragIssues w0 ∧ w0.qual 0 = [0] ∧ (64#11 : VReg11) ≠ 0 ∧ (w0.group 0).genmax ≤ (64#11 : VReg11).toNat ∧
    shapeGeneral .gen (w0.v 0 4) ∧ shapeGeneral .tight (w0.v 0 6) ∧ ¬shapeGeneral .tight (w0.v 0 4) ∧ ¬shapeGeneral .qry (w0.v 0 6) := by
  refine ⟨test_s0_issues, by decide, by decide, by decide, .inl rfl, .inr ⟨rfl, ?_⟩, ?_, ?_⟩
  · unfold laneAffine
    decide
  · unfold shapeGeneral laneAffine
    decide
  · unfold shapeGeneral
    simp
theorem wit_SequenceNumbers : s0.FragIssues w0 ∧ w0.team.kernel.determ = false ∧ 0 ∈ w0.present ∧ sD.FragIssues wD ∧
    wD.team.kernel.determ = true := ⟨test_s0_issues, rfl, by decide, ⟨⟨rfl, rfl⟩, rfl⟩, rfl⟩

/-! ### Witnesses: tiles, matrix, queues -/

/-- An operation of the team, with number `n`. -/
def opOf (n : Nat) (k : OpKind) : Op :=
  { id := n, inst := n, team := 0, frag := 0, thread := none, ctx := 0, core := 0, launch := 1, pc := 0x200100, flag := none, lanes := lanes0,
    writes := [], scope := .grp, ord := .rlx, deps := [], depLvl := 0, lvl := 0, visAt := 0, pend := 0, sent := false, fail := none, markers := [],
    locks := [], kind := k }
/-- A clear of tile 2 that waits on its datapath. -/
def clear2 : Op := { opOf 0 (.tile (.clear 2 5) 0) with writes := [.tile 2] }
/-- The base state with operations outstanding. -/
def withOps (s : State) (l : List Op) : State := { s with ops := l, nextOp := l.length }
def sC : State := withOps s0 [clear2]
theorem test_sC_issues : sC.FragIssues w0 := ⟨⟨rfl, rfl⟩, rfl⟩
theorem wit_TileOpsQueue : ((Instr.acmp ⟨.lt, 40, 2, 6, 60, 4, 0⟩).tileForm.map fun f => (f.msk, f.tiles, f.legal, f.dst.isSome)) =
      some (0, [2], true, false) ∧
    ((Instr.arslv ⟨.flt .f32, .rne, false, 60, 3, 60, 4, 0⟩).tileForm.map fun f => (f.msk, f.tiles, f.legal, f.dst)) =
      some (0, [3], true, some (60, 4)) ∧ sC.FragIssues w0 ∧ (∀ a ∈ ([2, 3] : List AReg), a.toNat < w0.team.kernel.accTiles) ∧
    w0.qual 20 = [] ∧ w0.qual 0 = 0 :: [] ∧ (∀ k < 4, 60 + k = 0 ∨ 60 + k < (w0.group 0).genmax) :=
  ⟨by decide, by decide, test_sC_issues, by decide +kernel⟩
theorem wit_TileFaults : ((Instr.arslvi 4 0).tileForm.map fun f => (f.tiles, f.legal)) = some ([4], true) ∧ sC.FragIssues w0 ∧
    (∃ a ∈ ([4] : List AReg), w0.team.kernel.accTiles ≤ a.toNat) ∧
    ((Instr.astat (.r 64 3 0 0)).tileForm.map fun f => (f.tiles, f.legal, f.dst)) = some ([3], true, some (64, 1)) ∧
    (w0.group 0).genmax ≤ 64 + 0 :=
  ⟨by decide, test_sC_issues, by decide, by decide, by decide⟩
theorem wit_TileShift : sC.FragIssues w0 ∧ (3#4 : AReg).toNat < w0.team.kernel.accTiles ∧ w0.qual 0 = 0 :: [] ∧
    (∀ o ∈ sC.ops, o.team = w0.team.id → RegRef.tile (3#4 : AReg).toNat ∉ o.writes) ∧
    (let a := (w0.team.tile (3#4 : AReg).toNat).anchor + (511#10 : BitVec 10).toInt; -512 ≤ a ∧ a ≤ 511) :=
  ⟨test_sC_issues, by decide, by decide, by simp [sC, withOps, clear2], by decide⟩
/-- The base state with anchor 500 in tile 3. -/
def teamA : Team := { team0 with tiles := [Tile.zero, Tile.zero, Tile.zero, { Tile.zero with anchor := 500 }] }
theorem wit_TileShiftFault : (stateOf teamA).FragIssues (whoOf teamA) ∧ (∀ o ∈ (stateOf teamA).ops, o.team = 0 → RegRef.tile 3 ∉ o.writes) ∧
    511 < ((whoOf teamA).team.tile 3).anchor + (12#10 : BitVec 10).toInt :=
  ⟨⟨⟨rfl, rfl⟩, rfl⟩, by simp [show (stateOf teamA).ops = [] from rfl], by decide⟩
theorem wit_ContributionsQueue :
    ((Instr.arow ⟨.flt .f32, 2, 6, 63, 0⟩).contribForm.map fun f => (f.msk, f.d, f.legal w0)) = some (0, 2, true) ∧
    ((Instr.dotb ⟨.int .i8, true, .acc 2 5, 6, 4, 2⟩).contribForm.map fun f => (f.msk, f.d, f.legal w0)) = some (2, 2, true) ∧
    sC.FragIssues w0 ∧ (2#4 : AReg).toNat < w0.team.kernel.accTiles ∧ w0.qual 0 ≠ [] ∧ w0.qual 20 = [] :=
  ⟨by decide, by decide, test_sC_issues, by decide, by decide, by decide⟩
/-- The base state with five matrix operations in the queues of both halves of core 0. -/
def mat (n : Nat) : Op :=
  opOf n (.matrix { group := 0, tile := 1, base := 8, queue := 0, count := 1, inc := 0, rowh := none, halves := [0, 1],
                    ty := .flt .e4m3, partner := false, done := 0, ended := false })
def sM : State := withOps s0 [mat 0, mat 1, mat 2, mat 3, mat 4]
theorem wit_MatrixOpsQueue :
    ((Instr.mmloop ⟨false, none, .flt .e4m3, false, 2, 8, 0, 0⟩ 3 1).matrixForm.map fun x => (x.1.d, x.1.a, x.2)) =
      some (2, 8, 4, 2) ∧ sC.FragIssues w0 ∧ (2#4 : AReg).toNat < w0.team.kernel.accTiles ∧ (8#11 : VReg11).toNat % 2 = 0 ∧
    (8#11 : VReg11).toNat + (4 - 1) * 2 + 1 ≤ 2047 ∧ w0.qual 0 = 0 :: [] ∧ 0 / 4 * 4 + 3 < w0.team.kernel.groups ∧
    w0.team.kernel.mhalves = 2 ∧ (∀ h ∈ [0, 1], (sC.matrixQueue w0.team.core h).length < 5) ∧
    sM.FragIssues w0 ∧ (∃ h ∈ [0, 1], 5 ≤ (sM.matrixQueue w0.team.core h).length) :=
  ⟨by decide, test_sC_issues, by decide, by decide, by decide, by decide, by decide, by decide, by decide, ⟨⟨rfl, rfl⟩, rfl⟩,
    by decide⟩
theorem wit_QueueDefinition : s0.Issuer w0 ∧ w0.regioned = false ∧ w0.present = [0] ∧ 0 < w0.team.groups.length ∧
    (w0.team.group 0).queues.length = 8 ∧
    (let x := (w0.team.group 0).queue 3
     x.recs = [] ∧ s0.streamsOf w0.team.id 0 3 = [] ∧ 64 * (16#5 : BitVec 5).toNat - x.depth ≤ s0.freeRecords w0.team.ctx w0.team.core) ∧
    ((w0.team.group 0).queue 0).recs ≠ [] ∧ sT.Issuer wT ∧ wT.regioned = false ∧ wT.present = [0] :=
  ⟨test_s0_issues.1, by decide, by decide, by decide, by decide, by decide +kernel, by decide, test_sT_issues, by decide, by decide⟩
theorem wit_QueuePop : s0.FragIssues w0 ∧ (∀ g ∈ w0.qual 0, (63#11 : VReg11) = 0 ∨ (63#11 : VReg11).toNat < (w0.group g).genmax) ∧
    (∀ g ∈ w0.qual 0, let x := (w0.team.group g).queue 0
      x.depth ≠ 0 ∧ x.store = false ∧ 8 ≤ x.recs.length ∧ s0.matrixPops w0.team.id g 0 = false) :=
  ⟨test_s0_issues, by decide, by decide⟩
theorem wit_QueuePush : s0.FragIssues w0 ∧ (∀ g ∈ w0.qual 0, let x := (w0.team.group g).queue 1
      x.depth ≠ 0 ∧ x.store = true ∧ x.recs.length + 8 ≤ x.depth) := ⟨test_s0_issues, by decide⟩
theorem wit_QueueFaults : s0.FragIssues w0 ∧ w0.qual 0 = [0] ∧ (63#11 : VReg11).toNat < (w0.group 0).genmax ∧
    w0.team.threads = [] ∧ s0.ops = [] ∧
    ((w0.team.group 0).queue 1).depth ≠ 0 ∧ ((w0.team.group 0).queue 1).store = true ∧
    ((w0.team.group 0).queue 0).depth ≠ 0 ∧ ((w0.team.group 0).queue 0).store = false ∧
    ((w0.team.group 0).queue 3).store = false ∧ ((w0.team.group 0).queue 3).recs.length < 8 ∧
    ((w0.team.group 0).queue 4).store = true ∧ ((w0.team.group 0).queue 4).depth < ((w0.team.group 0).queue 4).recs.length + 8 :=
  ⟨test_s0_issues, by decide, by decide, rfl, rfl, by decide +kernel⟩
theorem wit_QueueDrain : s0.Issuer w0 ∧ w0.regioned = false ∧ w0.present = [0] ∧ 0 < w0.team.groups.length ∧
    (w0.team.group 0).queues.length = 8 ∧ ((w0.team.group 0).queue 3).recs = [] ∧ s0.streamsOf w0.team.id 0 3 = [] :=
  ⟨test_s0_issues.1, by decide +kernel⟩
theorem wit_StreamsBegin : (Instr.qld ⟨false, true, .grp, false, 0, 0, 1, 2, 3, 0x20⟩).streamForm.isSome = true ∧ sT.Issuer wT ∧
    wT.thr.isSome = true ∧ wT.present = [0] ∧ (wT.s 0 3).extractLsb' 48 16 = 0 ∧ ((wT.s 0 3).extractLsb' 0 32).toNat ≤ 2 ^ 24 ∧
    ((wT.team.group 0).queue 0).store = false ∧ (sT.streamsOf wT.team.id 0 0).length < 4 ∧
    ((wT.s 0 3).extractLsb' 0 32).toNat ≠ 0 ∧ ((wT.s 0 4).extractLsb' 0 32).toNat = 0 ∧
    (let m : StreamArgs := ⟨false, true, .grp, false, 0, 0, 1, 2, 3, 0x20⟩
     let y := sT.streamItems wT.team.ctx (wT.stream m false 0) 10 0
     sT.locksUsed + (sT.streamOp wT m { wT.stream m false 0 with items := y.1 } y.2).locks.length ≤ Config.rangeLocks) :=
  ⟨by decide, test_sT_issues, by decide +kernel⟩
theorem wit_StreamFaults : sT.Issuer wT ∧ wT.thr.isSome = true ∧ (wT.s wT.lowest 5).extractLsb' 48 16 ≠ 0 ∧
    (wT.s wT.lowest 3).extractLsb' 48 16 = 0 ∧ ((wT.s wT.lowest 3).extractLsb' 0 32).toNat ≤ 2 ^ 24 ∧
    ((wT.team.group wT.lowest).queue 1).depth ≠ 0 ∧ ((wT.team.group wT.lowest).queue 1).store ≠ false :=
  ⟨test_sT_issues, by decide +kernel⟩

/-! ### Witnesses: memory -/

theorem wit_AddressChecks : (∃ l, 0x1000 % 4 = 0 ∧ s0.walk 0 0x1000 = some l) ∧ 0x1001 % 4 ≠ 0 ∧ 2 ^ 52 % 4 = 0 ∧ 2 ^ 52 ≤ 2 ^ 52 ∧
    s0.walk 0 0x40000000 = none :=
  ⟨⟨⟨0xE3, 2, 0x1000⟩, by decide, by decide +kernel⟩, by decide +kernel⟩
theorem wit_WalkEnds : s0.walk 0 0x1000 = some ⟨0xE3, 2, 0x1000⟩ := by decide +kernel
/-- One lane of an LD, ST or ATOM at 0x1000 + 4 × 0 in the base state, and its run. -/
def want0 : List (Want × List (Nat × Nat)) := [(⟨0, 0, 1, 0x1000, false⟩, [(0x1000, 4)])]
theorem wit_LoadIssues : s0.Issuer w0 ∧ w0.thr = none ∧ memRegOk false (.ty .i32) 10 = true ∧
    s0.checkAll w0.team.ctx .load (.ty .i32) (w0.wants false true 6 8 (some 0) 0) = .ok want0 ∧
    (∀ g ∈ w0.qual 6, ∀ k < memRegs (memBytes (.ty .i32)),
        (10#11 : VReg11).toNat + k = 0 ∨ (10#11 : VReg11).toNat + k < (w0.group g).genmax) ∧
    s0.checkAll w0.team.ctx .load (.ty .i32) (w0.wants false true 20 8 (some 0) 0) = .ok [] :=
  ⟨test_s0_issues.1, rfl, by decide +kernel⟩
theorem wit_LoadIssuesGroup : sT.Issuer wT ∧ memRegOk true (.ty .i64) 10 = true ∧
    sT.checkAll wT.team.ctx .load (.ty .i64) (wT.wants true true 0 1 (some 0) 0) = .ok [(⟨0, 0, 0, 0x1000, true⟩, [(0x1000, 8)])] :=
  ⟨test_sT_issues, by decide, by decide +kernel⟩
theorem wit_StoreIssues : s0.FragIssues w0 ∧ w0.regioned = false ∧ memRegOk false (.ty .n32) 5 = true ∧
    s0.checkAll w0.team.ctx .store (.ty .n32) (w0.wants false true 6 8 (some 0) 0) = .ok want0 ∧ s0.update = [] :=
  ⟨test_s0_issues, by decide, by decide, by decide +kernel, rfl⟩
theorem wit_StoreBuffers : sR.FragIssues wR ∧ wR.regioned = true ∧ wR.frag.region.pinned = false ∧ memRegOk false (.ty .n32) 5 = true ∧
    sR.checkAll wR.team.ctx .store (.ty .n32) (wR.wants false true 6 8 (some 0) 0) = .ok want0 ∧
    (∀ h < 2, sR.bufUsed wR.team.core h + (want0.map fun x => (runKeys x.2).length).sum ≤ Config.bufPerHalf) :=
  ⟨⟨⟨rfl, rfl⟩, rfl⟩, by decide, rfl, by decide, by decide +kernel, by decide⟩
theorem wit_AtomIssues : s0.Issuer w0 ∧ w0.regioned = false ∧ w0.thr = none ∧ memRegOk false (.ty .n32) 10 = true ∧
    memRegOk false (.ty .n32) 5 = true ∧ (∀ c, (AtomOp.cas 6) = .cas c → memRegOk false (.ty .n32) c = true) ∧
    s0.checkAll w0.team.ctx .atomic (.ty .n32) (w0.wants false false 6 8 none 0) = .ok want0 ∧
    (∀ g ∈ w0.qual 6, ∀ k < memRegs (tyWidth .n32 / 8), (10#11 : VReg11) = 0 ∨ (10#11 : VReg11).toNat + k < (w0.group g).genmax) ∧
    s0.update = [] :=
  ⟨test_s0_issues.1, by decide, rfl, by decide, by decide, by intro c _; cases c; rfl, by decide +kernel, by decide, rfl⟩
/-- A machine whose range-lock table holds the sector at 0x1000 as a destination. -/
def sL : State := withOps s0 [{ opOf 0 .fence with locks := [(0x80, 0x80, true)] }]
theorem wit_AccessFaults : s0.FragIssues w0 ∧ w0.regioned = false ∧ memRegOk false (.ty .i32) 10 = true ∧
    s0.checkAll w0.team.ctx .load (.ty .i32) (w0.wants false true 6 8 (some 0) 1) = .fault 0x22 0x1001 ∧
    s0.checkAll w0.team.ctx .store (.ty .i32) (w0.wants false true 6 8 (some 0) 1) = .fault 0x22 0x1001 ∧
    (∀ r ∈ ([10, 5, (cmpReg .add).getD 0] : List VReg11), memRegOk false (.ty .n32) r = true) ∧
    s0.checkAll w0.team.ctx .atomic (.ty .n32) (w0.wants false false 6 8 none 1) = .fault 0x22 0x1001 ∧
    sL.check w0.team.ctx .load 4 (0x1000 : DWord).toNat = .ok 0x1000 ⟨0xE3, 2, 0x1000⟩ ∧ sL.lockConflict false (0x1000, 4) = true :=
  ⟨test_s0_issues, by decide +kernel⟩
/-- A load, a store of colour 3 and an ordered access of the issuer. -/
def lane0 (key n val : Nat) : LaneAcc :=
  { g := 0, lane := 0, who := 1, va := BitVec.ofNat 64 key, segs := [(key, n)], val := val, cmp := 5, got := none, fwd := [] }
def load0 (n : Nat) : Op := { opOf n (.load false 10 (.ty .i32) [⟨0, 1, false, false⟩] [lane0 0x1000 4 0]) with writes := [.v 0 10] }
def store0 (n : Nat) : Op := opOf n (.store [lane0 0x1000 4 0x12345678] 3)
def sA : State := withOps s0 [load0 0, store0 1]
theorem wit_FenceWaits : sA.Issuer w0 ∧ w0.regioned = false ∧ sA.update = [] ∧ load0 0 ∈ sA.ops ∧ store0 1 ∈ sA.ops ∧
    (load0 0).mine w0.team.id (w0.thr.map fun x => x.group) w0.frag.m = true ∧ (load0 0).kind.reads = true ∧
    (store0 1).mine w0.team.id (w0.thr.map fun x => x.group) w0.frag.m = true ∧ (store0 1).kind.storeCol = some 3 ∧
    (0x08#8 : BitVec 8).getLsbD 3 = true :=
  ⟨⟨rfl, rfl⟩, by decide, rfl, .head _, .tail _ (.head _), by decide +kernel⟩
theorem wit_PrefetchOnly : s0.FragIssues w0 ∧ s0.update = [] := ⟨test_s0_issues, rfl⟩
theorem wit_CwaitPolls : s0.Issuer w0 ∧ w0.regioned = false ∧ w0.team.kernel.determ = false ∧ w0.frag.wait = .ready ∧
    s0.update = [] ∧ s0.ops = [] ∧
    s0.check w0.team.ctx .load 8 (w0.s w0.lowest 3).toNat = .ok 0x1000 ⟨0xE3, 2, 0x1000⟩ ∧
    (∀ k < 8, keyPooled (0x1000 + k) = false) ∧
    waitSpec .ne true (BitVec.ofNat 64 (Memory.read s0.mem 0x1000 8)) (w0.s w0.lowest 1) = true ∧
    waitSpec .geu true (BitVec.ofNat 64 (Memory.read s0.mem 0x1000 8)) (w0.s w0.lowest 1) = false ∧ w0.lowest < w0.team.groups.length :=
  ⟨test_s0_issues.1, by decide, rfl, rfl, rfl, rfl, by decide +kernel⟩
theorem wit_LoadPerforms : sA.opAt 0 = some (load0 0) ∧ sA.teamAt 0 = some team0 ∧ sA.depsDone (load0 0) = true ∧
    (load0 0).markers = [] ∧ (load0 0).pend = 0 ∧ (load0 0).sent = false ∧ (load0 0).fail = none ∧ sA.update = [] ∧
    (∀ p ∈ sA.ops, p.lvl = 0) ∧ ((sA.launchAt 1).bind fun l => l.roundMem) = none ∧
    (∀ x ∈ [lane0 0x1000 4 0], ∀ k ∈ runKeys x.segs, keyPooled k = false) ∧ ([⟨0, 1, false,
        false⟩] : List GrpAcc).map (fun x => x.g) = [0] ∧ (([lane0 0x1000 4 0]).map fun x => (x.g, x.lane)).Nodup ∧
    (1#64 : Mask).getLsbD 0 = true ∧ runKeys [(0x1000, 4)] = (List.range (memBytes (.ty .i32))).map fun i => 0x1000 + i :=
  ⟨rfl, rfl, by decide, rfl, rfl, rfl, rfl, rfl, by decide, rfl, by decide +kernel⟩
theorem test_sA_local : Local sA (store0 1) [lane0 0x1000 4 0x12345678] := ⟨by decide, rfl, rfl, rfl, rfl, rfl, by decide, rfl, by decide⟩
theorem wit_StorePerforms : sA.opAt (store0 1).id = some (store0 1) ∧ (store0 1).kind = .store [lane0 0x1000 4 0x12345678] 3 ∧
    Local sA (store0 1) [lane0 0x1000 4 0x12345678] ∧ (runKeys (lane0 0x1000 4 0x12345678).segs)[3]? = some 0x1003 ∧
    0x1003 ∉ (runKeys (lane0 0x1000 4 0x12345678).segs).drop 4 ∧ scopeLvl (store0 1).scope < 4 ∧
    scopeLvl ({ store0 1 with scope := .pkg } : Op).scope = 4 := ⟨rfl, rfl, test_sA_local, by decide +kernel⟩
/-- A compare-and-swap of one lane. -/
def atom0 (op : AtomOp) : Op :=
  opOf 0 (.atom false op.code.toNat (tySigned .n32) .n32 10 [⟨0, 1, false, false⟩] [lane0 0x1000 4 7] false)
def sAt : State := withOps s0 [atom0 (.cas 6)]
theorem wit_AtomPerforms : sAt.opAt 0 = some (atom0 (.cas 6)) ∧ sAt.teamAt 0 = some team0 ∧
    Local sAt (atom0 (.cas 6)) [lane0 0x1000 4 7] ∧ tyWidth .n32 / 8 = 4 ∧ 0 < team0.groups.length ∧ (1#64 : Mask).getLsbD 0 = true ∧
    (lane0 0x1000 4 7).val < 256 ^ 4 ∧ (lane0 0x1000 4 7).cmp < 256 ^ 4 :=
  ⟨rfl, rfl, ⟨by decide, rfl, rfl, rfl, rfl, rfl, by decide, rfl, by decide⟩, by decide +kernel⟩

/-! ### Witnesses: engines, loop, timetables -/

/-- A team with descriptors in its scalar registers: CPBOX at s16, CPMC at s24, PUT at s28, a remote PUTSIG at s32, REDR at s36,
RSORT at s40, CPST at s44, REDM at s46, RLKQ at s50. -/
def teamB : Team :=
  { team0 with groups := { grp0 with s := grp0.s ++ [(16, 0x1000), (17, 0x2000), (18, 0x0000000100020040), (19, 64),
      (20, 0x8000000000), (24, 0x1000), (25, 0x8000001), (28, 0x1000), (29, 0x40000000), (30, 0x1020), (32, 0x1000), (33, 0x3000),
      (34, 0x4200000040), (35, 0x40), (36, 0x4000), (37, 0x1003), (40, 0x1000), (41, 0x2000), (42, 0x3000), (43, 0x400000008),
      (44, 512), (46, 0x1000), (47, 0x1003), (48, 8), (50, 0x1000), (51, 64)] } :: team0.groups.drop 1 }
/-- A port of a node that is up, with the key of context 0. -/
def portUp : Port := { Port.reset with up := true, keys := [(0, 7)] }
/-- The machine of a team with two nodes of POOL at 0x40000000 and 0x80000000, one slot claimed at node 1, and four packages. -/
def pod (u : Team) : State :=
  { stateOf u with
    mem := Memory.write (Memory.write (stateOf u).mem 0x110008 8 0xEB) 0x110010 8 (0xEB + 2 ^ 42),
    ports := portUp :: portUp :: List.replicate 30 Port.reset, claims := [SlotClaim.mk 1 3 0 5 8 0 2 false], pts := 9,
    host := { (stateOf u).host with nodes := 2, pkgs := 4 } }
def sB : State := pod teamB
def wB : Who := whoOf teamB
theorem test_sB_issues : sB.FragIssues wB := ⟨⟨rfl, rfl⟩, rfl⟩
theorem wit_EngineOpsIssue : sB.FragIssues wB ∧ wB.regioned = false ∧ wB.team.imaged = false ∧ sB.update = [] ∧
    ∀ i ∈ [Instr.cpbox ⟨false, .i32, .grp, 0, 60, 16, 0⟩, .cpmc ⟨true, 60, 24, 25⟩, .put ⟨false, false, true, 0, 60, 28, 0⟩,
        .get ⟨false, true, false, 0, 0, 28, 0⟩, .putsig ⟨false, true, true, 0, 60, 32, 0⟩ true 9,
        .redr ⟨false, .f32, false, 60, 36, 0⟩, .rsort ⟨false, false, .grp, 60, 40, 0⟩],
      ∃ f, i.engForm = some f ∧ f.legal sB wB = true ∧ f.plans sB wB ≠ [] ∧ EngineRoom sB wB (f.slots wB) f.scope f.rel f.lf (f.plans sB wB) := by
  refine ⟨test_sB_issues, by decide, by decide, rfl, fun i h => ?_⟩
  rcases h with _ | ⟨_, _ | ⟨_, _ | ⟨_, _ | ⟨_, _ | ⟨_, _ | ⟨_, _ | ⟨_, h⟩⟩⟩⟩⟩⟩⟩
  all_goals first
    | cases h
    | exact ⟨_, rfl, by decide +kernel, by decide +kernel, by unfold EngineRoom; decide +kernel⟩
theorem wit_LaneEngineOps :
    (∀ i ∈ [Instr.cpl ⟨false, .i32, .grp, 0, 60, 8, 8, 0, 6, 0⟩, .coll ⟨false, .add, .i32, false, true, 0, 60, 8, 5, 0, 6, 0⟩],
      (i.laneEngForm.map fun f => (f.msk, f.d, f.legal)) = some (6, 60, true)) ∧
    sB.FragIssues wB ∧ wB.regioned = false ∧ wB.team.imaged = false ∧ sB.update = [] ∧ wB.qual 6 ≠ [] ∧ wB.qual 12 = [] ∧
    (∀ g ∈ wB.qual 6, (60#11 : VReg11).toNat + 1 < (wB.group g).genmax) ∧
    (∀ i ∈ [Instr.cpl ⟨false, .i32, .grp, 0, 60, 8, 8, 0, 6, 0⟩, .coll ⟨false, .add, .i32, false, true, 0, 60, 8, 5, 0, 6, 0⟩],
      ∃ f, i.laneEngForm = some f ∧ EngineRoom sB wB (f.slots wB) f.scope f.rel f.lf [f.plan sB wB]) ∧ (60#11 : VReg11) ≠ 0 := by
  refine ⟨by decide, test_sB_issues, by decide, by decide, rfl, by decide, by decide, by decide, fun i h => ?_, by decide⟩
  rcases h with _ | ⟨_, _ | ⟨_, h⟩⟩
  all_goals first
    | cases h
    | exact ⟨_, rfl, by unfold EngineRoom; decide +kernel⟩
theorem wit_ItemAddresses :
    (sB.cplItems wB ⟨false, .i32, .grp, 0, 60, 8, 8, 0, 6, 0x1000⟩).any (fun x => x.cause == 0) = true ∧
    ((sB.boxPlan wB 60 0 0 (wB.box 0 16)).e.items[1]?.map fun x => x.cause) = some 0 ∧ (wB.transfer 0 28).remote = false ∧
    ((sB.transferItems wB true (wB.transfer 0 28))[1]?.map fun x => x.cause) = some 0 :=
  by decide +kernel
theorem wit_EngineFaults : sB.FragIssues wB ∧ wB.regioned = false ∧ 0 ∈ wB.qual 0 ∧ (wB.box 0 1).e0 ≠ 0 ∧ (wB.box 0 52).e0 = 0 ∧
    natBits (wB.s 0 1).toNat 27 11 = 0 ∧ (wB.transfer 0 4).len % 32 ≠ 0 ∧ (wB.sortDesc 0 20).n = 0 ∧
    ((Instr.cpl ⟨false, .i32, .grp, 0, 64, 8, 8, 0, 0, 0⟩).laneEngForm.map fun f => (f.legal, f.d)) = some (true, 64) ∧
    wB.qual 0 = 0 :: [] ∧ (wB.group 0).genmax ≤ 64 + 1 :=
  ⟨test_sB_issues, by decide +kernel⟩
/-- A team whose group 0 has an open station, and bytes landed there. -/
def teamSt : Team :=
  { teamB with groups := { teamB.group 0 with station := some ⟨20, 2, 512, 256, 30, 0⟩ } :: teamB.groups.drop 1 }
theorem wit_Stations : sB.FragIssues wB ∧ wB.regioned = false ∧ wB.team.imaged = false ∧ wB.present = [0] ∧
    0 < wB.team.groups.length ∧ wB.cpstOk ⟨false, 60, 44, 20, 2⟩ 0 = true ∧ (60#11 : VReg11).toNat % 2 = 0 ∧
    (pod teamSt).FragIssues (whoOf teamSt) ∧ (whoOf teamSt).cpstOk ⟨false, 0, 0, 0, 0⟩ 0 = true ∧
    ((whoOf teamSt).team.group 0).station = some ⟨20, 2, 512, 256, 30, 0⟩ :=
  ⟨test_sB_issues, by decide, by decide, by decide, by decide, by decide, by decide, ⟨⟨rfl, rfl⟩, rfl⟩, by decide, rfl⟩
/-- A range that has failed its checks. -/
def isBad : Rng → Bool
  | .bad .. => true
  | _ => false
theorem wit_LockQuery : sB.FragIssues wB ∧ wB.present = [0] ∧ wB.s 0 51 ≠ 0 ∧ (wB.s 0 51).toNat ≤ 2 ^ 32 ∧
    sB.range wB.team.ctx .load (wB.s 0 50).toNat (wB.s 0 51).toNat = .runs [(0x1000, 64)] ∧
    isBad (sB.range wB.team.ctx .load (wB.s 0 5).toNat (wB.s 0 51).toNat) = true ∧ wB.s 0 60 = 0 :=
  ⟨test_sB_issues, by decide +kernel⟩
theorem wit_ReductionContributes : sB.FragIssues wB ∧ wB.regioned = false ∧ wB.team.imaged = false ∧ wB.qual 0 = [0] ∧
    0 < wB.team.groups.length ∧ wB.redmOk ⟨false, .f32, false, true, 60, 46, 0⟩ 0 = true ∧ sB.update = [] ∧
    sB.claimOf wB.team.ctx ((wB.s 0 47).toNat / 2 ^ 12 % 2 ^ 5) ((wB.s 0 47).toNat % 2 ^ 12) = some ⟨1, 3, 0, 5, 8, 0, 2, false⟩ ∧
    (stateOf teamB).FragIssues wB ∧
    (stateOf teamB).claimOf wB.team.ctx ((wB.s 0 47).toNat / 2 ^ 12 % 2 ^ 5) ((wB.s 0 47).toNat % 2 ^ 12) = none ∧
    wB.team.held.length < Config.heldFaults ∧ (stateOf teamB).locksUsed ≤ Config.rangeLocks ∧
    ∃ p, sB.redmPlan wB ⟨false, .f32, false, true, 60, 46, 0⟩ 0 = some p ∧ EngineRoom sB wB 0 (farScope false) true false [p] :=
  ⟨test_sB_issues, by decide, by decide, by decide, by decide, by decide, rfl, by decide, ⟨⟨rfl, rfl⟩, rfl⟩, by decide, by decide,
    by decide, _, rfl, by unfold EngineRoom; decide +kernel⟩
theorem wit_TimestampReads : sB.FragIssues wB ∧ wB.regioned = false ∧ wB.team.kernel.determ = false ∧
    (sB.tsrdKeys wB 29 (wB.qual 0)).toOption = some [(0, flatKey spPOOL 0)] ∧
    (pod teamD).FragIssues wD ∧ wD.team.kernel.determ = true ∧ wD.qual 0 ≠ [] ∧ wD.regioned = false :=
  ⟨test_sB_issues, by decide, rfl, by decide +kernel, ⟨⟨rfl, rfl⟩, rfl⟩, rfl, by decide, by decide⟩
theorem wit_BroadcastQueues : s0.FragIssues w0 ∧ w0.regioned = false ∧ (6#8 : SReg).toNat ≤ 248 ∧
    1 ≤ (w0.s w0.lowest (6#8 : SReg).toNat).toNat ∧ (w0.s w0.lowest (6#8 : SReg).toNat).toNat ≤ 8 ∧
    s0.tapUsed < Config.tapEntries ∧ (∀ o ∈ s0.ops, o.id < s0.nextOp) ∧
    (∀ o ∈ s0.ops, ∀ g d r, o.kind ≠ .bcast g d r false none) :=
  ⟨test_s0_issues, by decide, by decide, by decide, by decide, by decide, by decide, by simp [show s0.ops = [] from rfl]⟩
theorem wit_SequenceForms : s0.FragIssues w0 ∧ w0.frag.wait = .ready ∧ w0.team.kernel.determ = false ∧
    (w0.s w0.lowest (0#8 : SReg).toNat).toNat ≤ s0.loop.applied ∧ s0.loop.applied < (w0.s w0.lowest (4#8 : SReg).toNat).toNat ∧
    0 ∈ w0.present ∧ sD.FragIssues wD ∧ wD.team.kernel.determ = true :=
  ⟨test_s0_issues, rfl, rfl, by decide, by decide, by decide, ⟨⟨rfl, rfl⟩, rfl⟩, rfl⟩
/-- A kernel with a timetable of one required entry at marker positions 5 to 9: a fetch of 64 bytes at 0x40001000 into tier 1, and a
context with staging there. -/
def teamTt : Team := { teamB with kernel := { kern with timetable := 0x2000 } }
def sTt : State :=
  { pod teamTt with
    mem := Memory.write (Memory.write (Memory.write (Memory.write (pod teamTt).mem 0x202000 8 1) 0x202010 8 0x40001000) 0x202018 8 64)
      0x202020 8 0x1010000090005,
    host := { (pod teamTt).host with ctxs := [{ loadCtx with stage := 10 }] } }
theorem wit_Markers : ((Instr.mark 5 true).markForm.map fun x => (x.1, x.2 w0)) = some (true, 5) ∧
    ((Instr.markS 9 false).markForm.map fun x => (x.1, x.2 w0)) = some (false, 256) ∧ s0.FragIssues w0 ∧ w0.regioned = false ∧
    s0.missing w0.team 256 = [] ∧ sTt.FragIssues (whoOf teamTt) ∧ (whoOf teamTt).regioned = false ∧
    sTt.missing (whoOf teamTt).team 7 = [0] ∧ (whoOf teamTt).team.kernel.determ = false :=
  ⟨by decide, by decide, test_s0_issues, by decide, by decide +kernel, ⟨⟨rfl, rfl⟩, rfl⟩, by decide, by decide +kernel, rfl⟩
theorem wit_TimetableQueries : s0.FragIssues w0 ∧ (2#16 : BitVec 16).toNat ≤ 4 ∧ 0 ∈ w0.present ∧ w0.team.kernel.determ = false ∧
    sD.FragIssues wD ∧ wD.team.kernel.determ = true ∧ 0 < w0.team.groups.length :=
  ⟨test_s0_issues, by decide, by decide, rfl, ⟨⟨rfl, rfl⟩, rfl⟩, rfl, by decide⟩
theorem wit_ThreadExit : sT.Issuer wT ∧ wT.thr = some thr0 ∧ (∃ g, g < wT.frag.m.length ∧ wT.eff 0 g ≠ 0) :=
  ⟨test_sT_issues, rfl, 0, by decide, by decide⟩

/-! ### Witnesses: issue, waits, launches, teams -/

/-- A state in which nothing issues. -/
def idle (s : State) : State := { s with issue := none }
/-- Team 0 with the fragment list `l`. -/
def withFrags (l : List Fragment) : Team := { team0 with frags := l }
def fA : Fragment := fragOf lanes0
def fB : Fragment := { fragOf lanes0 with id := 1, entry := none, age := 3 }
theorem wit_IssueSelect : (idle s0).candidates 0 ≠ [] := by decide +kernel
theorem wit_AccessIssue : ∃ u ∈ (idle sT).onCore 0, ∃ x ∈ u.threads, (idle sT).threadReady u x = true :=
  ⟨teamT, by decide +kernel, thr0, by decide, by decide +kernel⟩
def sSp : State := idle (stateOf (withFrags [fA, fB]))
/-- The same on a core of which the context owns nothing. -/
def sSpFull : State := { sSp with host := { sSp.host with ctxs := [{ loadCtx with halfmap := 0 }] } }
theorem wit_Refills : sSp.teamAt 0 = some (withFrags [fA, fB]) ∧ (withFrags [fA, fB]).resident = true ∧
    fB ∈ (withFrags [fA, fB]).frags ∧ sSp.spilledReady (withFrags [fA, fB]) fB = true ∧
    sSp.freeEntry (withFrags [fA, fB]).ctx (withFrags [fA, fB]).core = some 1 ∧
    sSpFull.teamAt 0 = some (withFrags [fA, fB]) ∧ (withFrags [fA, fB]).fragAt 1 = some fB ∧
    sSpFull.spilledReady (withFrags [fA, fB]) fB = true ∧ sSpFull.freeEntry 0 0 = none ∧
    lowestAge ((withFrags [fA, fB]).frags.filter fun x => x.entry.isSome && sSpFull.waitOver ((withFrags [fA, fB]).whoOf x none)) =
      some fA ∧ fA.entry = some 0 :=
  ⟨by decide +kernel, by decide, by decide, by decide +kernel, by decide +kernel, by decide +kernel, by decide, by decide +kernel,
    by decide +kernel, by decide +kernel, rfl⟩
def sWt : State := idle (stateOf { teamT with
  frags := [{ fA with wait := .barrier 1 [1] }, { fA with id := 1, wait := .barrier 1 [0] }, { fA with id := 2, wait := .cwait 5 true false }],
  threads := [{ thr0 with group := 3, frag := { thr0.frag with wait := .cwait 5 true false } }] })
theorem wit_WaitsEnd : ∃ u, sWt.teamAt 0 = some u ∧ (∃ f, u.fragAt 0 = some f ∧ f.wait = .barrier 1 [1]) ∧
    (∃ f, u.fragAt 1 = some f ∧ f.wait = .barrier 1 [0]) ∧ (∃ f, u.fragAt 2 = some f ∧ f.wait = .cwait 5 true false) ∧
    ∃ x, u.threadAt 3 = some x ∧ x.frag.wait = .cwait 5 true false :=
  ⟨_, rfl, ⟨_, rfl, rfl⟩, ⟨_, rfl, rfl⟩, ⟨_, rfl, rfl⟩, _, rfl, rfl⟩
/-- A fragment blocked in REGGROW. -/
def fG : Fragment := { fA with wait := .grow 80 20 0 }
def sGr : State := idle (stateOf (withFrags [fG]))
theorem wit_SlabArbiter : firstGrow (sGr.growRequests 0 0) = some (withFrags [fG], fG, 80, 20, 0) ∧
    lastGrow (sGr.growRequests 0 0) = some (withFrags [fG], fG, 80, 20, 0) ∧
    (withFrags [fG]).growNeed (maskGroups fG.m) 80 ≤ sGr.freeSlabs 0 0 ∧ sGr.teamAt 0 = some (withFrags [fG]) ∧
    (∀ x ∈ sGr.onCore 0, x.ctx = 0 → ∀ y ∈ x.frags, y.entry = none ∨ y.wait.stuck = true) :=
  by decide +kernel
/-- A scrub of what team 0 held. -/
def scr0 : Scrub :=
  { id := 3, ctx := 0, core := 0, slots := [0, 1, 2, 3], entries := [0], mats := [0], slabs := ⟨4, 0⟩,
    tiles := ⟨4, 0⟩, bars := ⟨4, 0⟩, records := ⟨0, 0⟩ }
theorem wit_ResourceEvents : scr0 ∈ ({ s0 with scrubs := [scr0] } : State).scrubs ∧ scr0.id = 3 := ⟨.head _, rfl⟩
/-- A launch of two units at slot 0 of queue 0 of context 0. -/
def lau (st : LaunchStage) (k : Option Kernel) : Launch :=
  { seq := 1, ctx := 0, queue := 0, slot := 0, image := 0x200000, params := 0x77, spill := 0x300000, gx := 2, gy := 1, gz := 1, nb := 4,
    weight := 1, cls := 1, serial := false, dies := 0, dep := 0, done := 0, stage := st, kernel := k, nextUnit := 0, roundMem := none }
/-- A kernel header at 0x200000: one group, genmax 16. -/
def headMem (m : Memory) : Memory :=
  [(0, 0x44565A31), (4, 0x100), (8, 0x1000), (0x10, 0x100), (0x38, 0x100001)].foldl
    (fun m e => Memory.write m (0x200000 + e.1) 4 e.2) m
/-- A package with an arena, no team, and the launches `l`. -/
def launching (l : List Launch) : State :=
  { State.reset.loadWord nopWord with
    mem := headMem (State.reset.loadWord nopWord).mem, teams := [], issue := none, launches := l,
    host := { (State.reset.loadWord nopWord).host with ctxs := [{ loadCtx with arenasz := 2 ^ 30, halfmap := 3 }] } }
def sLp : State := launching [lau .pending none]
def kernL : Kernel := kernelOf (lau .pending none) (Memory.bytes sLp.mem 0x200000 256)
def sLa : State := launching [lau .admitted (some kernL)]
/-- The launch that has placed every unit. -/
def lauEnd : Launch := { lau .admitted (some kernL) with nextUnit := 2 }
/-- A launch whose image cannot be read. -/
def lauBad : Launch := { lau .pending none with image := 0x40000000 }
theorem wit_LaunchEvents :
    (sLp.launchAt 1 = some (lau .pending none) ∧ (∀ x ∈ sLp.launches, x.stage ≠ .claiming) ∧
      nextLaunch (sLp.launches.filter fun x => sLp.admissible x) = some (lau .pending none) ∧
      sLp.headerRead (lau .pending none) = .good kernL ∧ (sLp.admitUnits (lau .pending none) kernL).isSome = true) ∧
    (sLa.launchAt 1 = some (lau .admitted (some kernL)) ∧ (∀ x ∈ sLa.launches, x.stage ≠ .claiming) ∧
      nextLaunch (sLa.launches.filter fun x => sLa.admissible x) = some (lau .admitted (some kernL)) ∧ kernL.cluster = false ∧
      kernL.determ = false ∧ sLa.arenaFor 0 (imageBytes kernL.groups) = some 0 ∧ sLa.bestCore 0 0 kernL.need allCores = some 0 ∧
      sLa.coreFits 0 0 kernL.need = true) ∧
    ((launching [lauBad]).launchAt 1 = some lauBad ∧ (launching [lauBad]).refusalCause lauBad = some 2) ∧
    (launching [lauEnd]).launchAt 1 = some lauEnd ∧ lauEnd.nextUnit = lauEnd.gx * lauEnd.gy * lauEnd.gz ∧
    (∀ u ∈ (launching [lauEnd]).teams, u.launch ≠ lauEnd.seq) ∧ ∀ o ∈ (launching [lauEnd]).ops, o.launch ≠ lauEnd.seq :=
  ⟨by decide +kernel,
    by decide +kernel,
    ⟨by decide +kernel, by decide +kernel⟩, by decide +kernel⟩
/-- A held fault of fragment 0, and one of a thread. -/
def hf : HeldFault := { frag := 0, thread := none, pc := 0x200140, cause := 0x21, info := 0x55 }
def teamEnd : Team := { withFrags [] with held := [hf] }
theorem wit_TeamLeaves : (idle (stateOf teamEnd)).teamAt teamEnd.id = some teamEnd ∧ teamEnd.frags = [] ∧ teamEnd.resident = true ∧
    (idle (stateOf teamEnd)).update = [] ∧ ∀ o ∈ (idle (stateOf teamEnd)).ops, o.team = teamEnd.id → o.kind.keepsTeam = false :=
  ⟨by decide +kernel, rfl, by decide, rfl, by decide +kernel⟩
/-- A regioned team with a store in its buffer; a team that is being pre-empted; a parked one; a saved one. -/
def fReg : Fragment := { fA with pc := 0x200101, region := { fA.region with
  start := 0x200100, buf := [{ half := 0, sector := 0x80, col := 0, scope := .grp, pc := 0x200140, gf := false,
                                 bytes := [{ off := 0, val := 1, lane := 0, va := 0x1000 }] }] } }
def teamReg : Team := { teamR with frags := [fReg] }
def sReg : State :=
  { idle (stateOf teamReg) with energy := { s0.energy with qx := [3] }, host := { (stateOf teamReg).host with vfmap := [(3, 0)] } }
def teamStop : Team := { withFrags [{ fA with safe := true }] with phase := .stopping }
def fPark : Fragment := { fA with mode := .parked none [] [] }
def teamPark : Team := { withFrags [fPark] with phase := .saving }
/-- A saved team all of whose groups have been given up: its image holds no block for the kernel to walk. -/
def teamSaved : Team :=
  { withFrags [{ fPark with entry := none }] with phase := .saved, groups := [] }
/-- A package whose context owns core 0 alone. -/
def sSaved : State :=
  { idle (stateOf teamSaved) with host := { (stateOf teamSaved).host with ctxs := [{ loadCtx with halfmap := 3 }] } }
theorem wit_Preemption :
    (sReg.teamAt 0 = some teamReg ∧ sReg.preemptDue teamReg = true ∧ sReg.update = [] ∧ teamReg.kernel.determ = false ∧
      teamReg.fragAt 0 = some fReg ∧ fReg.mode = .normal ∧ teamReg.kernel.regioned = true ∧ fReg.region.pinned = false) ∧
    ((idle (stateOf teamStop)).teamAt 0 = some teamStop ∧ teamStop.phase = .stopping ∧ teamStop.frags ≠ [] ∧
      (∀ f ∈ teamStop.frags, f.mode = .normal ∧ teamStop.saveable f = true) ∧ teamStop.kernel.safeTable = 0 ∧
      (idle (stateOf teamStop)).update = [] ∧ (idle (stateOf teamStop)).saveBusy 0 = false ∧ (∀ g, (teamStop.group g).station = none)) ∧
    ((idle (stateOf teamPark)).teamAt 0 = some teamPark ∧ teamPark.phase = .saving ∧ teamPark.frags ≠ [] ∧
      (∀ f ∈ teamPark.frags, f.isParked = true) ∧ (idle (stateOf teamPark)).saveBusy 0 = false) ∧
    sSaved.teamAt 0 = some teamSaved ∧ teamSaved.phase = .saved ∧ sSaved.ctxHeld 0 = false ∧ sSaved.host.dissolving = [] ∧
    teamSaved.kernel.cluster = false ∧
    sSaved.bestCore 0 (((sSaved.launchAt 1).map fun l => l.dies).getD 0) teamSaved.restoreNeed allCores = some 0 ∧
    (match sSaved.reloadTeam teamSaved 0 with | .ok r => (r.refetchAll teamSaved).isSome | _ => false) = true ∧
    (∀ f ∈ teamSaved.frags, ∃ o p, f.mode = .parked none o p) := by
  refine ⟨⟨rfl, by decide +kernel, rfl, rfl, rfl, rfl, rfl, rfl⟩,
    ⟨rfl, rfl, List.cons_ne_nil _ _, by decide +kernel, rfl, rfl, by decide +kernel, fun g =>
      match g with | 0 | 1 | 2 | 3 => rfl | _ + 4 => rfl⟩,
    ⟨rfl, rfl, List.cons_ne_nil _ _, by decide +kernel, rfl⟩, rfl, rfl, by decide +kernel, rfl, rfl, by decide +kernel,
    by decide +kernel, ?_⟩
  intro f h
  rcases h with _ | ⟨_, h⟩
  · exact ⟨_, _, rfl⟩
  · cases h
/-- A fragment and a thread whose watchdog counts have passed their limits. -/
def fDog : Fragment := { fA with wdog := 1001 }
def thrDog : Thread := { thr0 with frag := { thr0.frag with wdog := 1001 } }
def teamDog : Team := { withFrags [fDog] with threads := [thrDog] }
def teamHeld : Team := { team0 with held := [hf], lost := true }
theorem wit_FaultEvents :
    ((idle (stateOf teamDog)).teamAt 0 = some teamDog ∧ teamDog.fragAt 0 = some fDog ∧ fDog.mode = .normal ∧ teamDog.resident = true ∧
      fDog.limit < fDog.wdog ∧ teamDog.threadAt 0 = some thrDog ∧ thrDog.running = true ∧ thrDog.frag.limit < thrDog.frag.wdog) ∧
    (idle (stateOf teamHeld)).teamAt 0 = some teamHeld ∧ teamHeld.fragAt 0 = some fA ∧ fA.mode = .normal ∧ teamHeld.phase = .running ∧ (idle (stateOf teamHeld)).detHold teamHeld = false ∧
    teamHeld.held = hf :: [] ∧ hf.thread = none ∧ hf.frag = fA.id ∧ teamHeld.kernel.trapEntry ≠ 0 ∧ teamHeld.kernel.regioned = false :=
  ⟨⟨by decide +kernel, by decide, rfl, by decide, by decide, by decide, rfl, by decide⟩, by decide +kernel, by decide, rfl, rfl,
    rfl, rfl, rfl, rfl, by decide, rfl⟩
/-- A deterministic launch at the end of a round, and between rounds. -/
def lauD (m : Option Memory) : Launch := { lau .admitted (some { kern with determ := true }) with nextUnit := 2, roundMem := m }
def teamRd : Team := { teamD with frags := [{ fA with inRound := 5000 }] }
def sRd (m : Option Memory) : State := { idle (stateOf teamRd) with launches := [lauD m] }
theorem wit_Rounds :
    ((sRd (some [])).launchAt 1 = some (lauD (some [])) ∧ (lauD (some [])).kernel = some { kern with determ := true } ∧
      (∃ u ∈ (sRd (some [])).teams, u.launch = 1) ∧
      (∀ u ∈ (sRd (some [])).teams, u.launch = 1 → ∀ f ∈ u.frags, u.roundStopped f = true) ∧ (sRd (some [])).roundLoads 1 = false) ∧
    (sRd none).launchAt 1 = some (lauD none) ∧ (sRd none).forced = [] ∧ (sRd none).roundWork 1 = false :=
  ⟨⟨by decide +kernel, rfl, ⟨teamRd, .head _, rfl⟩, by decide +kernel, rfl⟩, by decide +kernel, rfl, by decide +kernel⟩

/-! ### Witnesses: matrix, tiles, streams, memory and engine events -/

def mOp (m : Nat) : MatrixOp :=
  { group := 0, tile := 1, base := 4, queue := m, count := 1, inc := 0, rowh := none, halves := [0, 1], ty := .flt .e4m3,
    partner := false, done := 0, ended := false }
theorem wit_MatrixSteps : sM.opAt 0 = some (mat 0) ∧ sM.teamAt 0 = some team0 ∧ (∃ m, (mat 0).kind = .matrix m ∧ m.ended = false ∧
      sM.matrixDue (mat 0) m = true ∧ m.group < team0.groups.length ∧ m.queue < (team0.group m.group).queues.length ∧
      m.tile < team0.tiles.length ∧ cellWf Elem.zero (team0.tile m.tile).elems = true ∧ m.rowh = none ∧
      m.rowh = none ∧ 32 * (none : Option Nat).getD 0 + 64 ≤ 64 ∧
      (let q := (team0.group m.group).queue m.queue
       q.store = false ∧ 64 ≤ q.depth ∧ 64 ≤ q.recs.length)) ∧
    (let o := opOf 0 (.matrix (mOp 1)); let s := withOps s0 [o]
     s.opAt 0 = some o ∧ s.matrixDue o (mOp 1) = true ∧ ((team0.group 0).queue 1).depth ≠ 0 ∧ ((team0.group 0).queue 1).store = true) :=
  ⟨rfl, rfl, ⟨_, rfl, by decide, by decide +kernel, by decide, by decide, by decide, by decide, rfl, rfl, by decide, by decide +kernel⟩,
    by decide +kernel⟩
theorem wit_MatrixEnds : (let o := opOf 0 (.matrix { mOp 0 with ended := true }); (withOps s0 [o]).opAt 0 = some o) ∧
    sM.opAt 0 = some (mat 0) ∧ sM.teamAt 0 = some team0 ∧ team0.held.length < 16 ∧ 1 < team0.tiles.length :=
  ⟨rfl, rfl, rfl, by decide, by decide⟩
theorem wit_TileExecutes : sC.tileHead 0 0 = some clear2 ∧ sC.teamAt 0 = some team0 ∧ sC.opAt 0 = some clear2 ∧
    sC.depsDone clear2 = true ∧ clear2.kind = .tile (.clear 2 5) 0 ∧ 2 < team0.tiles.length ∧
    clear2.kind.accs = [] := ⟨by decide +kernel, rfl, rfl, by decide +kernel, rfl, by decide, rfl⟩
theorem wit_TileArithmetic : cellWf Elem.zero Tile.zero.elems = true ∧ Tile.zero.anchor ≤ ({ Tile.zero with anchor := 3 } : Tile).anchor :=
  ⟨by decide, by decide⟩
def saveOp (k : TileCmd) : Op := opOf 0 (.tile k 0)
def rowRuns : List (Nat × Nat) := [(0x2000, 1600)]
theorem wit_TileRows : (let o := saveOp (.save 0 2 0x2000 0 2 []); let s := withOps s0 [o]
      s.tileHead 0 0 = some o ∧ s.opAt 0 = some o ∧ s.depsDone o = true ∧ (∀ p ∈ s.ops, p.lvl = 0) ∧
      ((s.launchAt 1).bind fun x => x.roundMem) = none ∧ s.rowCheck 0 true 0x2000 = .runs rowRuns) ∧
    (let o := saveOp (.load 0 2 0x2000 0 2 []); let s := withOps s0 [o]
      s.tileHead 0 0 = some o ∧ s.opAt 0 = some o ∧ s.depsDone o = true ∧ (∀ p ∈ s.ops, p.lvl = 0) ∧
      s.rowCheck 0 false 0x2000 = .runs rowRuns) ∧
    LocalRuns s0 rowRuns ∧ 2 < team0.tiles.length :=
  ⟨by decide +kernel, by decide +kernel, ⟨rfl, by decide, by decide +kernel⟩, by decide⟩
/-- A stream of queue `q` whose items are known, or fail. -/
def strm (q : Nat) (st : Bool) (items : List Rng) : StreamOp :=
  { group := 0, queue := q, store := st, base := 0x1000, st1 := 32, st2 := 0, n := 2, n1 := 2, w24 := false, col := 0, next := 0,
    items := items, bad := some 0x99 }
def strmOp (x : StreamOp) : Op := { opOf 0 (.stream x) with thread := some 0 }
def recRng : List Rng := [.runs [(0x1000, 32)], .runs [(0x1020, 32)]]
theorem wit_StreamMoves : (∀ x ∈ [strm 0 false recRng, strm 1 true recRng], (withOps s0 [strmOp x]).streamFirst (strmOp x) x = true ∧
      (∀ p ∈ (withOps s0 [strmOp x]).ops, p.lvl = 0) ∧ (∀ r ∈ x.items, r.known ≠ []) ∧
      (withOps s0 [strmOp x]).streamRec x = .runs [(0x1000, 32)] ∧ (withOps s0 [strmOp x]).depsDone (strmOp x) = true ∧
      x.queue < (team0.group x.group).queues.length) ∧
    (withOps s0 [strmOp (strm 0 false [])]).streamRec (strm 0 false []) = .fault 0x15 0x99 ∧
    (withOps s0 [strmOp (strm 1 true [])]).streamRec (strm 1 true []) = .fault 0x15 0x99 ∧
    ((team0.group 0).queue 0).recs.length < ((team0.group 0).queue 0).depth ∧ ((team0.group 0).queue 1).recs ≠ [] ∧
    s0.teamAt 0 = some team0 ∧ team0.phase = .running ∧ LocalRuns s0 [(0x1000, 32)] ∧ team0.held.length < 16 :=
  ⟨by decide +kernel, by decide +kernel, by decide +kernel, by decide, by decide +kernel, rfl, rfl, ⟨rfl, by decide, by decide +kernel⟩,
    by decide⟩
/-- An update-only line with one entry. -/
def upd (key : Nat) : UpdateEntry := { core := 0, line := 1, key := key, w := 4, fn := 0, signed := false, val := 3, ctx := 0, ops := [] }
theorem wit_UpdateFlush : keyPooled (128 * 1) = false ∧ (∀ e ∈ [upd 0x1000], e.core = 0 → e.line = 1 → keyPooled e.key = false) ∧
    ([upd 0x1000].filter fun x => x.core == 0 && x.line == 1) = [upd 0x1000] ∧ (upd 0x1000).fn = AtomOp.add.code.toNat ∧
    (upd 0x1000).val < 256 ^ (upd 0x1000).w := by decide +kernel
theorem wit_MarkerAck : (∀ o ∈ [{ opOf 0 .fence with markers := [1] }, { opOf 0 (.store [lane0 0x1000 4 1] 0) with markers := [1] }],
      let s := withOps (pod team0) [o]
      (s.portAt 1).toNode = [] ∧ (∀ d ∈ (s.portAt 1).dropped, d.1 = false) ∧ (∀ h ∈ (s.nodeAt 1).heldWrites, h.src ≠ s.pkgNo) ∧
        s.pathDrained 1 = true ∧ s.portOpen o.ctx 1 = true ∧ cellGet 0 (s.portAt 1).txCount o.ctx ≠ BitVec.allOnes 64 ∧
        cellGet 0 (s.portAt 1).rxCount o.ctx ≠ BitVec.allOnes 64 ∧
        (s.ops.find? fun x => x.markers.contains 1 && s.depsDone x) = some o ∧ s.opAt 0 = some o ∧ (∀ p ∈ o.markers, p = 1)) ∧
    ∀ e, OpKind.fence ≠ .engine e ∧ OpKind.store [lane0 0x1000 4 1] 0 ≠ .engine e :=
  ⟨by decide +kernel, fun _ => ⟨fun h => (by cases h), fun h => (by cases h)⟩⟩
def ack0 : PteAck := { id := 9, ack := 0x100040, ctx := 0, old := 0xE3, lvl := 2, va := 0, ops := [] }
def sAck : State := { s0 with loop := { s0.loop with acks := [ack0], joined := true } }
theorem wit_PteAcks : (sAck.loop.acks.find? fun x => x.id == 9) = some ack0 ∧ (∀ i ∈ ack0.ops, sAck.opAt i = none) ∧
    sAck.bufferUses ack0.ctx ack0.old ack0.lvl = false ∧ TapRoom sAck := ⟨by decide, by decide, by decide +kernel, by decide +kernel, rfl⟩
/-- A copy of one item of 64 bytes, and its operation. -/
def itm (done : Bool) : Item := { Item.none with src := .runs [(0x1000, 64)], dst := .runs [(0x2000, 64)], len := 64, done := done }
def cpOp (k : EngKind) (l : List Item) (fail : Option (Nat × DWord)) : Op :=
  { opOf 0 (.engine { kind := k, d := 30, group := 0, posted := 64, items := l, engine := 0, col := 0 }) with
    fail := fail, writes := [.v 0 30, .v 0 31] }
def sCp : State := withOps s0 [cpOp (.cpbox none 1) [itm false] none]
theorem wit_CopyItems : sCp.opAt 0 = some (cpOp (.cpbox none 1) [itm false] none) ∧ [itm false][0]? = some (itm false) ∧
    (itm false).pend = 0 ∧ sCp.depsDone (cpOp (.cpbox none 1) [itm false] none) = true ∧
    (itm false).stage = .idle ∧ (∀ p ∈ sCp.ops, p.lvl = 0) ∧ sCp.opDeterm (cpOp (.cpbox none 1) [itm false] none) = false ∧
    sCp.settleOp (fun p => p.isNone) (cpOp (.cpbox none 1) [itm false] none) = sCp ∧
    (cpOp (.cpbox none 1) [itm false] none).markers = [] ∧ LocalRuns sCp [(0x1000, 64)] ∧ LocalRuns sCp [(0x2000, 64)] :=
  ⟨rfl, rfl, rfl, by decide +kernel, rfl, by decide, by decide +kernel, by decide +kernel, rfl, ⟨rfl, by decide, by decide +kernel⟩,
    ⟨rfl, by decide, by decide +kernel⟩⟩
theorem wit_CopyEnds : ∀ fail ∈ [none, some (0x21, 0x2000)], (withOps s0 [cpOp (.cpbox none 1) [itm true] fail]).opAt 0 =
      some (cpOp (.cpbox none 1) [itm true] fail) ∧ s0.teamAt 0 = some team0 ∧ team0.resident = true ∧ team0.imaged = false ∧ (∀ c va, fail = some (c, va) → c ≠ 0) ∧
    (∀ i ∈ [itm true], i.done = true ∧ i.pend = 0 ∧ i.dropped = false) ∧
    (withOps s0 [cpOp (.cpbox none 1) [itm true] fail]).depsDone (cpOp (.cpbox none 1) [itm true] fail) = true ∧
    0 < team0.groups.length ∧ team0.held.length < 16 := by
  intro fail h
  rcases h with _ | ⟨_, _ | ⟨_, h⟩⟩
  · exact ⟨rfl, rfl, by decide, by decide, (by intro c va h; cases h), by decide +kernel⟩
  · exact ⟨rfl, rfl, by decide, by decide, (by intro c va h; cases h; decide), by decide +kernel⟩
  · cases h
theorem wit_Stealing : sCp.untaken 5 = 0 ∧ sCp.busiest ((List.range 48).map fun k => 5 / 48 * 48 + k) = some 0 :=
  ⟨by decide +kernel, by decide +kernel⟩
/-- A multicast of one piece of 256 bytes, read, with a landing at position 0. -/
def piece0 : Item := { Item.none with src := .runs [(0x1000, 256)], len := 256, done := true, val := 0x0706050403020100 }
def landing0 : Item := { Item.none with len := 256, lane := 0, peer := 0 }
def mcOp : Op := cpOp (.cpmc 0 1 1 1) [piece0, landing0] none
def teamMc : Team :=
  { team0 with groups := { grp0 with station := some ⟨20, 4, 1024, 0, 0, 5⟩ } :: team0.groups.drop 1 }
theorem wit_Landings : (withOps s0 [mcOp]).opAt 0 = some mcOp ∧ [piece0, landing0] = [piece0] ++ [landing0] ∧
    (∀ p ∈ [piece0], p.done = true ∧ p.cause = 0) ∧ [landing0][0]? = some landing0 ∧ landing0.done = false ∧
    (team0.group 0).station = none ∧ (withOps (stateOf teamMc) [mcOp]).opAt 0 = some mcOp ∧
    (stateOf teamMc).teamAt 0 = some teamMc ∧ teamMc.resident = true ∧ teamMc.imaged = false ∧ 0 < teamMc.groups.length ∧
    (teamMc.group 0).station = some ⟨20, 4, 1024, 0, 0, 5⟩ ∧ 1 + 1 ≤ 4 ∧ 0 + 256 * 1 < 1024 :=
  ⟨rfl, rfl, by decide, rfl, rfl, rfl, rfl, rfl, by decide, by decide, by decide, rfl, by decide, by decide⟩
theorem wit_LeaseTicks : ({ s0 with ns := 5000 } : State).ticks < ({ s0 with ns := 5000 } : State).ns / 1024 ∧ s0.ns / 1024 ≤ s0.ticks :=
  ⟨by decide, by decide⟩

/-! ### Witnesses: nodes, fabric -/

/-- A packet of context 0 of this package for the sector at byte 0x100 of node 0. -/
def pk (l : Payload) : Packet :=
  { ctx := 0, src := 0, dst := 0xFF, pts := 9, addr := flatKey spPOOL 0x100, load := l, op := 0, item := 0, lease := 10, tagOk := true,
    reservedOk := true }
/-- The machine with `p` on the path to node 0, and its slots. -/
def atNode (slots : Cells RedSlot) (p : Packet) : State :=
  { idle (pod team0) with ports := { portUp with toNode := [p] } :: portUp :: List.replicate 30 Port.reset,
                          nodes := [(0, { Node.fresh with slots := slots })] }
theorem test_atNode (slots : Cells RedSlot) (p : Packet) (h : p.src = 0) : NodeHead (atNode slots p) 0 p :=
  ⟨_, [], rfl, rfl, rfl, (fun _ h => by cases h), (fun _ h => by cases h), h, rfl,
    show (0 : BitVec 64).toNat + 0 + 0 + 4096 < 2 ^ 64 by decide⟩
/-- A slot of rank-order or exact-window mode with two ranks and two elements, and the ranks that have contributed. -/
def slot0 (rankMode : Bool) (got : List Nat) : RedSlot :=
  { recNo := 5, claimed := true, owner := 0, rankMode := rankMode, elems := 2, anchor := 0, ranks := 2, got := got, due := 0, parked := [],
    vals := [(1, ⟨3, 0⟩)], parts := [], waiting := [] }
/-- A contribution of rank 1, whole or its first element alone. -/
def contrib0 : Payload := .contrib 3 1 false 4 0 2 [(5, 1, 0), (-7, -2, 0)] 5
def contrib1 : Payload := .contrib 3 1 false 4 0 2 [(5, 1, 0)] 5
theorem wit_NodeReads : NodeHead (atNode [] (pk (.read 32))) 0 (pk (.read 32)) ∧
    (pk (.read 32)).addr = 32 * (flatKey spPOOL 0x100 / 32) := ⟨test_atNode _ _ rfl, by decide⟩
theorem wit_NodeWrites : NodeHead (atNode [] (pk (.write (natLe 32 77)))) 0 (pk (.write (natLe 32 77))) ∧
    (atNode [] (pk (.write (natLe 32 77)))).packetHeld (pk (.write (natLe 32 77))) = false ∧ (natLe 32 77).length = 32 ∧
    (atNode [] { pk (.write (natLe 32 77)) with pts := 5000 }).packetHeld { pk (.write (natLe 32 77)) with pts := 5000 } = true :=
  ⟨test_atNode _ _ rfl, by and_intros <;> decide +kernel⟩
def atomP : Payload := .atomic [(4, AtomOp.add.code.toNat, false, 4, 3, 0)]
theorem wit_NodeAtomics : NodeHead (atNode [] (pk atomP)) 0 (pk atomP) ∧ (atNode [] (pk atomP)).packetHeld (pk atomP) = false ∧
    keyPooled ((pk atomP).addr + 4) = true := ⟨test_atNode _ _ rfl, by decide +kernel, by decide⟩
def sHeld : State := { idle (pod team0) with nodes := [(0, { Node.fresh with heldWrites := [pk (.write [7])] })] }
theorem wit_HeldRelease : (sHeld.nodeAt 0).heldWrites = pk (.write [7]) :: [] ∧ sHeld.packetHeld (pk (.write [7])) = false ∧
    sHeld.update = [] ∧ CountRoom sHeld 0 (pk (.write [7])).ctx :=
  ⟨by decide +kernel, by decide +kernel, rfl, by unfold CountRoom; decide +kernel⟩
/-- Node 0 with a sector in its atomic cache until tick 4, at tick `n`. -/
def sCache (n : Nat) : State := { idle (pod team0) with ticks := n, nodes := [(0, { Node.fresh with cache := [(9, 4)] })] }
theorem wit_NodeQueries : NodeHead (atNode [] (pk .tsQuery)) 0 (pk .tsQuery) ∧ tableFind ((sCache 5).nodeAt 0).cache 9 = some 4 ∧
    4 ≤ (sCache 5).ticks ∧ tableFind ((sCache 3).nodeAt 0).cache 9 = some 4 ∧ (sCache 3).ticks < 4 :=
  ⟨test_atNode _ _ rfl, by decide +kernel⟩
def cfgP (n : Nat) : Payload := .config n 3 0x1000000 0 2 2
theorem wit_SlotConfigs : NodeHead (atNode [(3, slot0 false [])] (pk (cfgP 6))) 0 (pk (cfgP 6)) ∧
    (∀ x, tableFind ((atNode [(3, slot0 false [])] (pk (cfgP 6))).nodeAt 0).slots 3 = some x → x.recNo < 6 ∧ x.waiting = []) ∧
    NodeHead (atNode [(3, slot0 false [])] (pk (cfgP 4))) 0 (pk (cfgP 4)) ∧ 4 ≤ (slot0 false []).recNo :=
  ⟨test_atNode _ _ rfl, (fun x h => by cases h; decide), test_atNode _ _ rfl, by decide⟩
theorem wit_Contributions : NodeHead (atNode [(3, slot0 false [])] (pk contrib0)) 0 (pk contrib0) ∧
    tableFind ((atNode [(3, slot0 false [])] (pk contrib0)).nodeAt 0).slots 3 = some (slot0 false []) ∧
    (slot0 false []).owner = (pk contrib0).ctx ∧ 1 < (slot0 false []).ranks ∧ 1 ∉ (slot0 false []).got ∧
    NodeHead (atNode [(3, slot0 false [])] (pk contrib1)) 0 (pk contrib1) ∧ 1 < (slot0 false []).elems ∧
    NodeHead (atNode [(3, slot0 true [])] (pk contrib0)) 0 (pk contrib0) ∧ (slot0 true []).due < 1 ∧
    tableFind (slot0 true []).parked (slot0 true []).due = none ∧
    NodeHead (atNode [(3, slot0 false [1])] (pk contrib0)) 0 (pk contrib0) ∧ 1 ∈ (slot0 false [1]).got :=
  ⟨test_atNode _ _ rfl, by decide +kernel, rfl, by decide, by decide, test_atNode _ _ rfl,
    by decide, test_atNode _ _ rfl, by decide, rfl, test_atNode _ _ rfl, by decide⟩
def readP : Payload := .redRead 3 5
def sDue : State := { idle (pod team0) with nodes := [(0, { Node.fresh with
  slots := [(3, { slot0 false [1, 0] with waiting := [pk readP] })] })] }
theorem wit_ReductionReads : NodeHead (atNode [(3, slot0 false [1, 0])] (pk readP)) 0 (pk readP) ∧
    ((atNode [(3, slot0 false [1, 0])] (pk readP)).nodeAt 0).dueRead = none ∧ (slot0 false [1, 0]).got.length = (slot0 false [1, 0]).ranks ∧
    (slot0 false [1, 0]).elems ≤ 4096 ∧ NodeHead (atNode [(3, slot0 false [1])] (pk readP)) 0 (pk readP) ∧
    ((atNode [(3, slot0 false [1])] (pk readP)).nodeAt 0).dueRead = none ∧
    (sDue.nodeAt 0).dueRead = some (3, { slot0 false [1, 0] with waiting := [pk readP] }, pk readP) ∧
    sDue.ports[0]? = some portUp ∧ (pk readP).src = sDue.pkgNo ∧ CountRoom sDue 0 (pk readP).ctx :=
  ⟨test_atNode _ _ rfl, by decide +kernel, by decide, by decide, test_atNode _ _ rfl,
    by decide +kernel, by decide +kernel, rfl, by decide, by unfold CountRoom; decide +kernel⟩
/-- The machine with a reply of node 0 for operation 0. -/
def replied (l : Payload) (o : Op) : State :=
  { (withOps (idle (pod team0)) [{ o with pend := 1, sent := true }]) with
    ports := { portUp with fromNode := [pk l] } :: portUp :: List.replicate 30 Port.reset }
theorem wit_Replies : (∀ l ∈ [Payload.readData (natLe 32 5) 20 30, .writeAck 20 0, .writeAck 20 0x21], ∀ o ∈ [load0 0, store0 0],
      ((replied l o).ports[0]?).map (fun x => (x.up, x.fromNode, x.dropped)) = some (true, [pk l], []) ∧
        (replied l o).opAt (pk l).op = some { o with pend := 1, sent := true } ∧
        0 < (replied l o).copyRoom) ∧ (store0 0).fail = none :=
  ⟨by decide +kernel, rfl⟩
/-- Two packets that wait at the arbiter of port 0, since periods 1 and 7 of its clock. -/
def waitAt (n c : Nat) : Waiting := { input := n, weight := 1, since := c, pkt := pk (.read 32) }
def sArb : State := { idle (pod team0) with cc := 100, ns := 100,
                                            arbiters := [(0, { waiting := [waitAt 2 7, waitAt 5 1], pointer := 0 })] }
theorem wit_ArbiterGrants : tableFind sArb.arbiters 0 = some { waiting := [waitAt 2 7, waitAt 5 1], pointer := 0 } ∧
    (∀ j < 2, j ≠ 1 → ∀ y ∈ [waitAt 2 7, waitAt 5 1][j]?, min 65535 (y.weight * (sArb.arbNow 0 - y.since)) <
      min 65535 (1 * (sArb.arbNow 0 - 1))) ∧
    sArb.ports[0]? = some portUp ∧ sArb.portOpen 0 0 = true ∧ cellGet 0 portUp.txCount 0 ≠ BitVec.allOnes 64 :=
  ⟨rfl, by decide +kernel, rfl, by decide +kernel, by decide⟩
def failing (toNode fromNode : List Packet) (k : Nat) (dropped : List (Bool × Packet)) : State :=
  let x : Port := { portUp with toNode := toNode, fromNode := fromNode, consecutive := k, dropped := dropped }
  { idle (pod team0) with ports := x :: List.replicate 31 Port.reset }
theorem wit_PacketFailures : ((failing [pk (.read 32)] [] 3 []).ports[0]?).map (fun x => (x.up, x.toNode, x.dropped, x.consecutive)) =
      some (true, [pk (.read 32)], [], 3) ∧
    ((failing [] [pk (.writeAck 1 0)] 3 []).ports[0]?).map (fun x => (x.up, x.fromNode, x.dropped)) =
      some (true, [pk (.writeAck 1 0)], []) ∧
    ((failing [pk (.read 32)] [] 7 []).ports[0]?).map (fun x => (x.up, x.consecutive)) = some (true, 7) :=
  ⟨by decide +kernel, by decide +kernel, by decide +kernel⟩
theorem wit_Retransmissions : ((failing [] [] 3 [(true, pk (.read 32))]).ports[0]?).map (fun x => x.dropped) =
    some [(true, pk (.read 32))] := by decide +kernel
def sCut : State := { (withOps (failing [pk (.write [1])] [] 0 []) [{ store0 0 with pend := 1, sent := true }]) with arbiters := [] }
theorem wit_LinkFails : (sCut.ports[0]?).map (fun x => (x.up, x.toNode, x.fromNode, x.dropped)) = some (true, [pk (.write [1])], [], []) ∧
    tableFind sCut.arbiters 0 = none ∧ (pk (.write [1])).dst = 0xFF ∧ sCut.opAt 0 = some { store0 0 with pend := 1, sent := true } ∧
    (store0 0).fail = none ∧ sCut.nodes = [] ∧ (∀ q ∈ sCut.ops, 0 ∉ q.markers ∧ q.kind = (store0 0).kind) :=
  ⟨by decide +kernel, rfl, rfl, rfl, rfl, rfl, by decide +kernel⟩
/-- A packet of package 2 for address 0x1000 of context 0. -/
def rpk (l : Payload) (a : Nat) : Packet := { pk l with src := 2, dst := 0, addr := a }
def sRem : State := idle (pod team0)
theorem wit_RemotePackets : (∀ l ∈ [Payload.write [1, 2], .atomic [(0, AtomOp.add.code.toNat, false, 4, 3, 0)], .read 8],
      ∀ a ∈ [0x1000, 0x7F0000000000], RemoteHere sRem (rpk l a)) ∧
    sRem.check 0 .store 1 0x1000 = .ok 0x1000 ⟨0xE3, 2, 0x1000⟩ ∧ sRem.check 0 .atomic 4 0x1000 = .ok 0x1000 ⟨0xE3, 2, 0x1000⟩ ∧
    sRem.check 0 .load 1 0x1000 = .ok 0x1000 ⟨0xE3, 2, 0x1000⟩ ∧ keySpace 0x1000 = spHBM ∧ LocalRuns sRem [(0x1000, 8)] ∧
    sRem.check 0 .store 1 0x7F0000000000 = .fault 0x20 ∧ sRem.check 0 .load 1 0x7F0000000000 = .fault 0x20 :=
  ⟨by unfold RemoteHere; decide +kernel, by decide +kernel, by decide +kernel, by decide +kernel, by decide, ⟨rfl, by decide, by decide +kernel⟩,
    by decide +kernel, by decide +kernel⟩
theorem wit_RemoteFreezes : sRem.ctxDesc ({ rpk (.write [1]) 0x1000 with ctx := 5 } : Packet).ctx = none ∧
    sRem.check 5 .store 1 0x1000 ≠ .mig ∧ packetGood { rpk (.write [1]) 0x1000 with ctx := 5 } = true ∧
    (sRem.portAt (sRem.inPort 0x1000)).up = true := by and_intros <;> decide +kernel

/-! ### Witnesses: the loop -/

/-- A record of context 0. -/
def rcd (ty : Nat) (fields : List (Nat × Nat × Nat)) : LoopRecord := deviceRecord ty fields
/-- The machine with `r` the oldest record received, of number 300. -/
def tapped (r : LoopRecord) : State :=
  let s := idle (pod team0)
  { s with loop := { s.loop with joined := true, inbox := [(r, none)], received := 300, applied := 299 } }
/-- A record is whole and the tap may apply it. -/
theorem test_tapped (r : LoopRecord) (h : recWhole r = true) : LoopHead (tapped r) r none [] :=
  ⟨rfl, rfl, rfl, h, fun _ _ h => by cases h⟩
def stRec : LoopRecord := rcd 1 [(8, 4, 0x100040), (0xC, 1, 5), (0x10, 5, 0x1122334455)]
def stOut : LoopRecord := rcd 1 [(8, 4, 0x200000), (0xC, 1, 5)]
def stLong : LoopRecord := rcd 1 [(8, 4, 0x100040), (0xC, 1, 49)]
def stRes : LoopRecord := rcd 1 [(8, 4, 0x100040), (0xC, 1, 5), (0xD, 1, 1)]
theorem wit_RecordsArrive : recWhole stRec = true ∧ ({ tapped stRec with loop := { (tapped stRec).loop with inbox := [] } } : State).loop.inbox = [] :=
  ⟨by decide +kernel, rfl⟩
theorem wit_StoreRecords : ((recWhole stRec = true ∧ recType stRec = 1) ∧ (recWhole stOut = true ∧ recType stOut = 1) ∧
      (recWhole stLong = true ∧ recType stLong = 1) ∧ recWhole stRes = true ∧ recType stRes = 1) ∧
    (recField stRec 8 4 = 0x100040 ∧ recField stRec 0xC 1 = 5 ∧ recField stRec 0xD 3 = 0) ∧ recField stOut 8 4 = 0x200000 ∧
    recField stLong 0xC 1 = 49 ∧ recField stRes 0xD 3 = 1 :=
  ⟨⟨⟨by decide +kernel, by decide +kernel⟩, ⟨by decide +kernel, by decide +kernel⟩, ⟨by decide +kernel, by decide +kernel⟩,
      by decide +kernel, by decide +kernel⟩, ⟨by decide +kernel, by decide +kernel, by decide +kernel⟩, by decide +kernel,
      by decide +kernel, by decide +kernel⟩
def addR (w : Nat) : LoopRecord := rcd 3 [(8, 4, 0x100040), (0xC, 1, w), (0x10, 4, 7)]
theorem wit_AddRecords : ∀ w ∈ [4, 8], recWhole (addR w) = true ∧ recType (addR w) = 3 ∧ recField (addR w) 0xC 1 = w ∧
    inGeneral (recCtx (addR w)) (recField (addR w) 8 4) w = true ∧ recField (addR w) 8 4 % w = 0 ∧ recField (addR w) 0xD 3 = 0 ∧
    recField (addR w) 0x18 40 = 0 ∧ recField (addR w) 0x14 4 = 0 := by decide +kernel
def clmG : LoopRecord := rcd 2 [(8, 4, 0x100040), (0xC, 1, 4), (0x10, 4, 0), (0x18, 4, 9)]
def clmS : LoopRecord := recPut (rcd 2 [(8, 4, 0x1000020), (0xC, 1, 8), (0x10, 8, 0x10001), (0x18, 8, 0x10002)]) 3 1 1
/-- A launch that waits for its admission, with its STATE word. -/
def sAdm (l : List Launch) : State :=
  { tapped clmS with launches := l, mem := Memory.write (tapped clmS).mem (ensKey 0x1000020) 8 0x10001 }
theorem wit_ClaimRecords : recWhole clmG = true ∧ recType clmG = 2 ∧ inGeneral 0 0x100040 4 = true ∧ recField clmG 8 4 = 0x100040 ∧
    recField clmG 0x14 4 = 0 ∧ recField clmG 0x1C 4 = 0 ∧ recField clmG 0x20 32 = 0 ∧ recField clmG 0xD 3 = 0 ∧
    recWhole clmS = true ∧ recType clmS = 2 ∧ recField clmS 8 4 = 0x1000020 ∧ isStateWord 0x1000020 = true ∧ recField clmS 0xC 1 = 8 ∧
    recField clmS 0x20 32 = 0 ∧ recField clmS 0xD 3 = 0 ∧ (sAdm []).launches = [] ∧ (sAdm []).claimAllowed clmS = true ∧
    stateOff 0 0 0 = 0x1000020 ∧ recField clmS 0x18 8 = 1 % 2 ^ 48 * 2 ^ 16 + 2 :=
  by decide +kernel
def lauR : LoopRecord :=
  rcd 4 [(8, 8, 0x200000), (0x10, 8, 0x77), (0x18, 8, 0x300000), (0x20, 2, 2), (0x22, 2, 1), (0x24, 2, 1), (0x27, 1, 0x11)]
theorem wit_LaunchRecords : recWhole lauR = true ∧ recType lauR = 4 ∧ recField lauR 0x28 1 ≤ 63 ∧ launchOk lauR = true ∧
    recField lauR 0x30 8 < 300 ∧ recField lauR 0x2A 1 < (tapped lauR).host.pkgs ∧ recField lauR 0x2A 1 = (tapped lauR).host.pkg ∧
    (tapped lauR).ens64 (0x1000000 + 0x20) % 256 = 0 :=
  by decide +kernel
/-- A PTE record that maps the second GiB, plain or with VALIDATE, and one that breaks a rule. -/
def pteR (fl old : Nat) : LoopRecord :=
  rcd 5 [(8, 8, 0x110008), (0x10, 8, 0x40000000), (0x18, 8, 0x400000E3), (0x20, 8, old), (0x2C, 1, 2), (0x2D, 1, fl)]
/-- What a PTE record needs to be applied: it is whole, of its type, well-formed and of a table of this package. -/
def pteGood (r : LoopRecord) : Prop :=
  recWhole r = true ∧ recType r = 5 ∧ pteFieldsOk r = true ∧ recField r 0x2E 1 = (tapped r).host.pkg ∧ (tapped r).pteInTable r = true
theorem wit_PteRecords : (pteGood (pteR 2 0) ∧ pteGood (pteR 3 0xEB) ∧ pteGood (pteR 3 5)) ∧
    pteFieldsOk (pteR 0 0) = false ∧ Memory.read (tapped (pteR 3 0xEB)).mem (pteKey (pteR 3 0xEB)) 8 = recField (pteR 3 0xEB) 0x20 8 ∧
    Memory.read (tapped (pteR 3 5)).mem (pteKey (pteR 3 5)) 8 ≠ recField (pteR 3 5) 0x20 8 ∧
    pteKey (pteR 3 5) + 8 ≤ ensKey 0x1000 ∧ spanCovers 0x40000000 2 0x40001000 = true :=
  by unfold pteGood; decide +kernel
def slotR (elems : Nat) : LoopRecord := rcd 6 [(8, 4, 77), (0xC, 1, 1), (0xE, 2, 0x3FD), (0x10, 2, elems), (0x12, 2, 2), (0x18, 4, 0x1009)]
theorem wit_SlotRecords : recWhole (slotR 8) = true ∧ recType (slotR 8) = 6 ∧ (tapped (slotR 8)).slotRecOk (slotR 8) = true ∧
    recField (slotR 8) 0xC 1 = 1 ∧ natBits (recField (slotR 8) 0x18 4) 17 1 = 0 ∧ recField (slotR 8) 0xD 1 = 0 ∧
    recWhole (slotR 0) = true ∧ (tapped (slotR 0)).slotRecOk (slotR 0) = false ∧
    (∀ e ∈ (tapped (slotR 8)).mem, e.1 < ensKey 0xD00000) :=
  by decide +kernel
theorem wit_FreeRecords : ∀ ty ∈ [7, 8], recWhole (rcd ty [(8, 4, 77)]) = true ∧ recType (rcd ty [(8, 4, 77)]) = ty ∧
    recField (rcd ty [(8, 4, 77)]) 0xC 52 = 0 := by decide +kernel
/-- A record that waits at the tap, and a BCAST that waits to enter. -/
def tapE (fn : Option HostFn) : TapEntry := { ctx := 0, dev := false, record := stRec, op := none, fn := fn, since := 3 }
def sPen (q : List TapEntry) : State :=
  let s := idle (pod team0)
  { s with loop := { s.loop with joined := true, queue := q } }
def bcOp : Op := opOf 0 (.bcast 0 30 stRec false none)
theorem wit_PennantSends : (∀ fn ∈ [none, some HostFn.pf, some (.vf 3)], (sPen [tapE fn]).loop.joined = true ∧
      (sPen [tapE fn]).host.stage = 7 ∧ (sPen [tapE fn]).loop.backlog = [] ∧ (sPen [tapE fn]).maySend (tapE fn) = true ∧ (sPen [tapE fn]).ops = []) ∧ recWhole stRec = true ∧
    (sPen []).maySend ((sPen []).tapEntry 0 false stRec (some 0) none) = true ∧ (sPen []).teamAt 0 = some team0 ∧ team0.resident = true :=
  ⟨by decide +kernel, by decide +kernel, by decide +kernel, rfl, by decide +kernel⟩
theorem wit_Refetches : (tapped stRec).loop.inbox = (stRec, none) :: [] ∧ recWhole stRec = true := ⟨rfl, by decide +kernel⟩
def sLeave : State := { (withOps (sPen [tapE none]) [bcOp]) with loop := { (sPen [tapE none]).loop with refetch := true } }
theorem wit_LoopLeaves : sLeave.loop.joined = true ∧ sLeave.loop.refetch = true ∧ bcOp ∈ sLeave.ops := ⟨rfl, rfl, .head _⟩

/-! ### Witnesses: the tier engine, energy, the host side -/

/-- A team at marker position 7 whose timetable entry 0 lies at `base`, with TIER, ACTION and window `x`, in a context with `stage`
granules and the copies `r`. -/
def sTm (base x stage : Nat) (r : List TierCopy) : State :=
  let m := Memory.write (Memory.write sTt.mem 0x202010 8 base) 0x202020 8 x
  { sTt with
    teams := [{ teamTt with marker := some 7 }], issue := none, mem := m, tiers := { sTt.tiers with copies := r },
    host := { sTt.host with ctxs := [{ loadCtx with stage := stage }] } }
/-- Its timetable entry 0, as far as R344 to R348 ask. -/
def entryIs (s : State) (p : Team → TEntry → Bool) : Bool :=
  match s.teamAt 0 with
  | none => false
  | some u => (match s.ttEntry u 0 with | none => false | some e => p u e)
/-- It is due and its turn has come. -/
def entryDue (s : State) : Bool := entryIs s fun u e => e.due (s.ttHead u).2 u && s.tierTurn 0 0
/-- Its range and tier. -/
def entryRange (s : State) (base tier : Nat) : Bool := entryIs s fun u e => e.base u.linear == base && e.len == 64 && e.tier == tier
/-- The GiB of POOL is migrating. -/
def migrating (s : State) : State := { s with mem := Memory.write s.mem 0x110008 8 0x10EB }
theorem wit_TierCarries : entryIs (sTm 0x40001000 0x1030000090005 10 []) (fun _ e => e.bad) = true ∧
    entryDue (sTm 0x40001000 0x1030000090005 10 []) = false ∧ entryDue (sTm 0x40001000 0x1010000090005 10 []) = true ∧
    entryRange (sTm 0x40001000 0x1010000090005 10 []) 0x40001000 1 = true ∧
    entryDue (sTm 0x900000000 0x1010000090005 10 []) = true ∧ entryRange (sTm 0x900000000 0x1010000090005 10 []) 0x900000000 1 = true ∧
    (sTm 0x900000000 0x1010000090005 10 []).rangeVerdict 0 1 0x900000000 64 = .reason 2 ∧
    entryDue (migrating (sTm 0x40001000 0x1010000090005 10 [])) = true ∧
    (migrating (sTm 0x40001000 0x1010000090005 10 [])).rangeVerdict 0 1 0x40001000 64 = .wait ∧
    (sTm 0x40001000 0x1010000090005 10 []).rangeVerdict 0 1 0x40001000 64 = .good ∧
    (sTm 0x40001000 0x1010000090005 10 []).canFit 0 1 (0x40001000 / 32, 0x40001000 / 32 + 1) = true ∧
    entryDue (sTm 0x40001000 0x1010000090005 0 []) = true ∧
    (sTm 0x40001000 0x1010000090005 0 []).rangeVerdict 0 1 0x40001000 64 = .good ∧
    (sTm 0x40001000 0x1010000090005 0 []).canFit 0 1 (0x40001000 / 32, 0x40001000 / 32 + 1) = false := by
  and_intros <;> decide +kernel
/-- One sector of its copy held under a lease that runs out at `v`. -/
def leaseOn (v : BitVec 16) : TierCopy := { ctx := 0, tier := 1, first := 0x2000080, last := 0x2000080, rts := some v, sample := false }
def leased (v : BitVec 16) : State := sTm 0x40001000 0x1010000090005 10 [leaseOn v]
theorem wit_TierLeases : (leased 8).copyKept (leaseOn 8) = true ∧ (leased 11).copyKept (leaseOn 11) = true ∧
    (leased 100).copyKept (leaseOn 100) = true := ⟨by decide +kernel, by decide +kernel, by decide +kernel⟩
theorem wit_TierLeaseRuns :
    (leased 11).range 0 .load (32 * 0x2000080) (32 * (0x2000080 + 1 - 0x2000080)) = .runs [(flatKey spPOOL 0x1000, 32)] ∧
    pooledSectors [(flatKey spPOOL 0x1000, 32)] = [flatKey spPOOL 0x1000 / 32] ∧ (∀ v, (leased v).pts = 9) ∧
    1 ≤ ((9 : BitVec 16) - 8).toNat ∧ ((11 : BitVec 16) - 9).toNat ≤ 2 ∧ 32768 < ((9 : BitVec 16) - 100).toNat ∧
    2 < ((100 : BitVec 16) - 9).toNat :=
  ⟨by decide +kernel, by decide +kernel, fun _ => rfl, by decide +kernel⟩
/-- A granule of POOL that `n` accesses have reached. -/
def sHot (n : Nat) : State :=
  { sTm 0x40001000 0 10 [] with tiers := { sTt.tiers with counters := [{ ctx := 0, granule := 0x4000, count := n, home := spPOOL }] } }
theorem wit_Sampling : (sHot 8).counterOf 0 0x4000 = some { ctx := 0, granule := 0x4000, count := 8, home := spPOOL } ∧
    (sHot 8).rangeVerdict 0 1 (65536 * 0x4000) 65536 = .good ∧
    (sHot 8).tierFits 0 1 ((2048 * 0x4000, 2048 * 0x4000 + 2047) :: (sHot 8).heldStretches 0 1) = true ∧
    (sHot 7).counterOf 0 0x4000 = some { ctx := 0, granule := 0x4000, count := 7, home := spPOOL } ∧
    (sHot 8).ns / 1000000 ≤ (sHot 8).tiers.decays ∧
    ({ sHot 8 with ns := 2000000 } : State).tiers.decays < ({ sHot 8 with ns := 2000000 } : State).ns / 1000000 := by
  and_intros <;> decide +kernel
/-- Charges of contexts 0 and 3 in the interval, past its end. -/
def sRec : State := { s0 with ns := 2000000, energy := { s0.energy with live := [(0, 1000), (3, 77)] } }
theorem chargeSum_ge (s : State) (l : List Nat) (n : Nat) (h : 0 < n) :
    0 < l.foldl (fun a c => a + cellGet 0 s.energy.live c) n := by
  induction l generalizing n with
  | nil => exact h
  | cons c l ih => exact ih (n + cellGet 0 s.energy.live c) (Nat.lt_of_lt_of_le h (Nat.le_add_right _ _))
theorem wit_EnergyIntervals : sRec.energy.quota = [] ∧ sRec.energy.interval < sRec.ns / 1000000 ∧
    sRec.energy.kvtRound < sRec.ns / 100000 ∧ s0.ns / 100000 ≤ s0.energy.kvtRound ∧ sRec.settleOwned.chargeSum ≠ 0 := by
  refine ⟨rfl, by decide, by decide, by decide, ?_⟩
  have h : 0 < allCtxs.foldl (fun a c => a + cellGet 0 sRec.energy.live c) 0 :=
    chargeSum_ge sRec ((List.range 48).drop 1) 1000 (by decide)
  have e : sRec.settleOwned.energy.live = sRec.energy.live := rfl
  unfold State.chargeSum
  rw [e]
  omega
/-- A machine whose PF has mapped VF 3 to context 0, with `q` as its quota. -/
def mapped (q : List (Nat × DWord)) : State :=
  { idle s0 with host := { s0.host with vfmap := [(3, 0)] }, energy := { s0.energy with quota := q, total := [(0, 500)] } }
theorem wit_Quotas : (mapped [(3, 400)]).ctxOfVf 3 = some 0 ∧ (mapped [(3, 400)]).quotaOf 3 = 400 ∧
    (mapped [(3, 400)]).estimate 0 = 500 ∧ (mapped [(3, 400)]).update = [] ∧ (mapped [(3, 400)]).vfOver 3 = true ∧ (mapped []).quotaOf 3 = BitVec.allOnes 64 ∧ (mapped []).ctxOfVf 3 = some 0 ∧
    team0.ctx = 0 ∧ team0.phase = .running ∧ team0.kernel.determ = false :=
  ⟨by decide, by decide, by decide +kernel, rfl, by decide +kernel, by decide, by decide, rfl, rfl, rfl⟩
theorem wit_RegisterWrites : (mapped []).barsLive = true ∧ (0x18000 : DWord).toNat % 0x8000 = 0 ∧ 1 ≤ (7 : DWord).toNat ∧
    (mapped []).ctxOfVf 3 = some 0 ∧ 3 ∉ (mapped []).host.frozenVfs ∧ (mapped []).host.cmdstat.getLsbD 0 = false ∧
    (1 : DWord).getLsbD 0 = true ∧ 4 ∈ ({ mapped [] with host := { (mapped []).host with frozenVfs := [4] } } : State).host.frozenVfs :=
  by decide +kernel
theorem wit_LeaseAndStatus : (mapped []).host.frozenVfs = [] ∧ 255 < (256 : DWord).toNat ∧
    fnKey .pf ∈ ({ mapped [] with host := { (mapped []).host with dberr := [0] } } : State).host.dberr :=
  ⟨by decide, by decide, by decide⟩
/-- The same with a tap queue that is full. -/
def sFull : State :=
  { mapped [] with loop := { (mapped []).loop with queue := List.replicate Config.tapEntries (tapE none) } }
theorem wit_Doorbells : (mapped []).barsLive = true ∧ TapRoom (mapped []) ∧ Config.tapEntries ≤ sFull.tapUsed ∧ recCtx stRec = 0 ∧
    recType stRec = 1 ∧ recType (rcd 9 []) = 9 ∧ recType (rcd 0 []) = 0 ∧ 47 < recCtx (recPut stRec 1 1 60) ∧
    (mapped []).ctxOfVf 3 = some 0 ∧ (mapped []).ctxOfVf 4 = none := by
  refine ⟨by decide, ⟨by decide +kernel, rfl⟩, ?_⟩
  and_intros <;> decide +kernel
/-- A second context of one half-core, and changes of both, with the blocks that name them. -/
def ctx1 : CtxDesc := { loadCtx with ctx := 1, halfmap := 1, hbmmap := 1 }
def small : CtxDesc := { loadCtx with halfmap := 6, hbmmap := 6 }
def block (c half hbm : Nat) : BitVec 2048 :=
  BitVec.ofNat 2048 (c + 0x0101FF00 + 1000 * 2 ^ 32 + 65535 * 2 ^ 64 + half * 2 ^ 512 + hbm * 2 ^ 896)
def sCtx : State := { mapped [] with host := { (mapped []).host with ctxs := [small] } }
theorem test_blocks : CtxDesc.ofBlock (block 1 1 1) = ctx1 ∧ CtxDesc.ofBlock (block 0 2 6) = { small with halfmap := 2 } ∧
    CtxDesc.ofBlock (block 1 2 1) = { ctx1 with halfmap := 2 } := by decide +kernel
theorem wit_ContextCommands : sCtx.barsLive = true ∧ ctx1.parent = none ∧ ctx1.ctx ∉ sCtx.host.dissolving ∧
    ctxsOk ((sCtx.host.ctxs.filter fun x => x.ctx != 1) ++ [ctx1]) = true ∧ sCtx.ctxDesc 1 = none ∧ sCtx.ctxDesc 0 = some small ∧
    ctxsOk ((sCtx.host.ctxs.filter fun x => x.ctx != 0) ++ [{ small with halfmap := 2 }]) = true ∧
    ctxsOk ((sCtx.host.ctxs.filter fun x => x.ctx != 1) ++ [{ ctx1 with halfmap := 2 }]) = false := by
  and_intros <;> decide +kernel
theorem wit_Dissolving : sCtx.barsLive = true ∧ sCtx.ctxDesc 0 = some small ∧ (∀ x ∈ sCtx.host.ctxs, x.parent ≠ some 0) ∧
    small.halfmap.getLsbD 1 = true := by decide +kernel
theorem wit_PfCommands : sCtx.barsLive = true ∧ (sCtx.ctxDesc 0).isSome = true ∧ sCtx.ports.length = 32 ∧
    (sCtx.ports[3]?).map (fun x => tableFind x.keys 0) = some none ∧ tableFind portUp.keys 0 = some 7 ∧
    (pod team0).ports[0]? = some portUp ∧ (pod team0).barsLive = true :=
  ⟨by decide, by decide, by decide, by decide, by decide, rfl, by decide⟩
/-- Context 0 with an error ring, whose first slot holds the KIND `k`. -/
def sErr (k : Nat) : State :=
  { idle s0 with host := { s0.host with ctxs := [{ loadCtx with errlog := 0x20000 }] }, mem := Memory.write s0.mem (flatKey spHBM 0x20008) 1 k }
theorem wit_ErrorDelivery : (sErr 0).host.ctxs = [{ loadCtx with errlog := 0x20000 }] ∧ (sErr 0).host.changes = [] ∧
    loadCtx.halfmap.getLsbD 5 = true ∧ cellGet 0 (sErr 0).host.errSeq 0 = 0 ∧
    Memory.byte (sErr 0).mem (flatKey spHBM 0x20000 + 8) = 0 ∧ Memory.byte (sErr 1).mem (flatKey spHBM 0x20000 + 8) ≠ 0 :=
  by decide +kernel
theorem wit_Freezes : (mapped []).ctxOfVf 3 = some 0 ∧ 3 ∉ (mapped []).host.frozenVfs ∧ (mapped []).vfsOf 0 = [3] ∧
    ((mapped []).ctxDesc 0).isSome = true ∧
    ({ mapped [] with host := { (mapped []).host with vfmap := [(3, 0), (5, 0)] } } : State).vfsOf 0 = [3, 5] :=
  by decide +kernel
/-- The PF over an SPDM session. -/
def sSpdm (n : Nat) : State := { mapped [] with host := { (mapped []).host with spdm := { (mapped []).host.spdm with stage := n, session := true } } }
theorem wit_HostLink : (sSpdm 5).host.spdm.session = true ∧ (mapped []).host.spdm.session = false := ⟨rfl, by decide⟩
theorem wit_SpdmRequests : 3 ≤ (sSpdm 5).host.stage ∧ 4 ≤ (sSpdm 5).host.spdm.stage ∧ (sSpdm 0).host.spdm.stage < 1 ∧
    State.reset.host.stage < 3 := by decide +kernel
/-- A slice and a window unit that pass on. -/
def sOwn : State :=
  { idle s0 with teams := [], mem := [(flatKey spHBM 0x40000001, 7)],
                 host := { s0.host with changes := [{ id := 4, ctx := 0, halves := [0], slices := [1], units := [2] }] } }
theorem wit_OwnerScrubs : (sOwn.host.changes.find? fun y => y.id == 4) = some { id := 4, ctx := 0, halves := [0], slices := [1], units := [2] } ∧
    Memory.wf sOwn.mem = true ∧ (∀ u ∈ sOwn.teams, u.usesHalf [0] = false) ∧ (∀ o ∈ sOwn.ops, o.locks = []) :=
  by decide +kernel
/-- Boot stage `n`, with the firmware `f` staged. -/
def booting (n : Nat) (f : Option (DWord × Nat × Bool × Nat)) : State :=
  { State.reset with host := { State.reset.host with stage := n, staged := f } }
/-- A snapshot as of record 5, in which slot 0 of queue 0 of context 0 holds a launch that waits, of record 3. -/
def snap0 : Snapshot := { n := 5, pts := 9, bytes := [(0x1000020, 1), (0x1000022, 3)], claims := [] }
theorem wit_BootStages : (∀ n ∈ [0, 1, 3, 4, 6], (booting n none).host.stage = n ∧ (booting n none).host.stage < 7 ∧
      (booting n none).host.error = 0) ∧ Memory.wf State.reset.mem = true ∧
    (booting 1 (some (0, 64, true, Config.minVersion))).host.staged = some (0, 64, true, Config.minVersion) ∧
    snap0.bytes.map (fun e => e.1) = [0x1000020, 0x1000022] ∧ (snap0.bytes.map fun e => e.1).Nodup ∧
    (∀ e ∈ snap0.bytes, e.1 < Config.ensBytes) ∧ stateOff 0 0 0 = 0x1000020 :=
  ⟨by decide, by decide, rfl, by decide +kernel⟩

/-! ### Witnesses: every event completes -/

/-- A copy by lanes of one item. -/
def sCpl (done : Bool) : State := withOps s0 [cpOp .cpl [itm done] none]
/-- The engine operation of it. -/
def cplE (done : Bool) : EngOp := { kind := .cpl, d := 30, group := 0, posted := 64, items := [itm done], engine := 0, col := 0 }
/-- One packet at the arbiter of port 0. -/
def sArb1 : State := { idle (pod team0) with cc := 100, ns := 100, arbiters := [(0, { waiting := [waitAt 2 7], pointer := 0 })] }
theorem wit_MemoryEventsComplete : (sCpl false).opAt 0 = some (cpOp .cpl [itm false] none) ∧
    (cpOp .cpl [itm false] none).kind = .engine (cplE false) ∧
    (sCpl false).itemDue (cpOp .cpl [itm false] none) (cplE false) 0 (itm false) = true ∧
    (sCpl false).settleOp (fun p => p.isNone) (cpOp .cpl [itm false] none) = sCpl false ∧
    (sCpl true).opAt 0 = some (cpOp .cpl [itm true] none) ∧ (cplE true).finished = true ∧
    (sCpl true).depsDone (cpOp .cpl [itm true] none) = true ∧ (∀ m n, (cplE true).kind ≠ .cpbox (some m) n) ∧
    (∀ u st, (withOps s0 [mcOp]).teamAt 0 = some u → (u.group 0).station = some st → st.op ≠ mcOp.id) :=
  ⟨rfl, rfl, by decide +kernel, by decide +kernel, rfl, rfl, by decide +kernel, (fun _ _ h => by cases h),
    fun u st h g => (by cases h; cases g)⟩
theorem wit_FabricEventsComplete : NodeHead (atNode [] (pk (cfgP 6))) 0 (pk (cfgP 6)) ∧
    tableFind ((atNode [] (pk (cfgP 6))).nodeAt 0).slots 3 = none ∧
    tableFind sArb1.arbiters 0 = some { waiting := [waitAt 2 7], pointer := 0 } ∧ sArb1.ports[0]? = some portUp ∧
    sArb1.portOpen (waitAt 2 7).pkt.ctx 0 = true ∧ cellGet 0 portUp.txCount 0 ≠ BitVec.allOnes 64 ∧
    LocalRuns sRem [(0x1000, [1, 2].length)] :=
  ⟨test_atNode _ _ rfl, by decide +kernel, rfl, rfl, by decide +kernel, by decide, rfl, by decide, by decide +kernel⟩
theorem wit_LoopEventsComplete : (∀ ty ∈ [1, 2, 3, 4, 5, 6, 7, 8], recWhole (rcd ty []) = true ∧ recType (rcd ty []) = ty ∧
      (tapped (rcd ty [])).launches = []) ∧
    ({ s0 with ns := 5000 } : State).loop.windows < ({ s0 with ns := 5000 } : State).ns / 1000 :=
  ⟨by decide +kernel, by decide⟩
theorem wit_HostEventsComplete : sCtx.fnFrozen .pf = false ∧ sCtx.fnFrozen (.vf 3) = false ∧
    (CtxDesc.ofBlock (block 1 1 1)).parent = none ∧ sCtx.ctxDesc (CtxDesc.ofBlock (block 1 1 1)).ctx = none ∧
    (CtxDesc.ofBlock (block 1 1 1)).ctx ∉ sCtx.host.dissolving ∧ ctxsOk (sCtx.host.ctxs ++ [CtxDesc.ofBlock (block 1 1 1)]) = true := by
  and_intros <;> decide +kernel

/-! ### Witnesses: steps -/

/-- The state in which the next step enters the line `l`. -/
def entering (l : BitVec 512) : State := { s0 with mem := Memory.writeBytes (loadTables []) (loadBase + 0x100) (natLe 64 l.toNat) }
/-- A line whose slots 0 and 1 are a pair. -/
def pairLine (a b : IWord) : BitVec 512 :=
  let body : BitVec 512 := nopWord ++ nopWord ++ nopWord ++ b ++ a ++ 0x021000FF#32
  let par (k : Nat) : BitVec 512 := if quarterParity body k then BitVec.ofNat 512 (2 ^ (28 + k)) else 0
  body ||| par 0 ||| par 1 ||| par 2 ||| par 3
/-- v10 := v4 + v5, and the same into v100, above genmax, from v6. -/
def addWord : IWord := 0x40000500400A000000000000#96
def badWord : IWord := 0x40003200600A000000000000#96
theorem wit_StepRunsDecoded : (entering (loadLine nopWord)).who = some w0 ∧ w0.thr = none ∧ w0.team.arrivesAt w0.frag = none ∧
    (entering (loadLine nopWord)).lineFor w0.team.ctx w0.frag = .line (loadLine nopWord) ∧
    (entering (loadLine 0)).lineFor w0.team.ctx w0.frag = .line (loadLine 0) ∧
    (entering (loadLine nopWord)).wmClear 0 none w0.frag (loadLine nopWord) = true ∧
    (entering (loadLine 0)).wmClear 0 none w0.frag (loadLine 0) = true ∧
    (pairSlots (linePT (loadLine nopWord))).contains (pcSlot w0.frag.pc) = false ∧
    (pairSlots (linePT (loadLine 0))).contains (pcSlot w0.frag.pc) = false ∧
    (decode (lineSlot (loadLine nopWord) 0)).toOption = some .nop ∧ (decode (lineSlot (loadLine 0) 0)).toOption = none ∧
    ((entering (loadLine nopWord)).onFrag w0 fun f => { f with line := some (loadLine nopWord) }).mustWait
      { w0 with iss := w0.latched (loadLine nopWord) false } [.nop] = false ∧
    ((entering (loadLine nopWord)).onFrag w0 fun f => { f with line := some (loadLine nopWord) }).roundStop
      { w0 with iss := w0.latched (loadLine nopWord) false } .nop = false :=
  ⟨by decide +kernel, rfl, by decide +kernel⟩
/-- The instructions of the two pairs. -/
def addI (d a : VReg11) : Instr := .iadd ⟨false, .i32, false, d, a, 5, 0⟩
/-- The premises of the pair statement. -/
def pairReady (a : IWord) (i : Instr) : Prop :=
  let l := pairLine a nopWord
  let s := entering l
  let w' : Who := { w0 with iss := w0.latched l true }
  let s' := s.onFrag w0 fun f => { f with line := some l }
  s.who = some w0 ∧ s.lineFor w0.team.ctx w0.frag = .line l ∧ s.wmClear 0 none w0.frag l = true ∧
    (pairSlots (linePT l)).contains (pcSlot w0.frag.pc) = true ∧ (decode (lineSlot l 0)).toOption = some i ∧
    (decode (lineSlot l 1)).toOption = some .nop ∧ issueClass (lineSlot l 0) = some .v ∧ s'.mustWait w' [i, .nop] = false ∧
    s'.roundStop w' i = false ∧ s'.roundStop w' .nop = false
/-- How the V instruction of the pair ends. -/
def pairLast (a : IWord) (i : Instr) : Option Last :=
  let l := pairLine a nopWord
  let s := entering l
  let r : State := { (s.onFrag w0 fun f => { f with line := some l }) with issue := some (w0.latched l true) }
  match exec i (r.latchAs (w0.latched l true) 0) with
  | .next x => some x.last
  | _ => none
theorem wit_StepRunsPair : pairReady addWord (addI 10 4) ∧ pairReady badWord (addI 100 6) ∧ Instr.closing .nop = false ∧
    pairLast addWord (addI 10 4) = some .retired ∧ pairLast badWord (addI 100 6) = some (.trapped 6 0) :=
  ⟨by unfold pairReady; and_intros <;> decide +kernel, by unfold pairReady; and_intros <;> decide +kernel, rfl, by decide +kernel,
    by decide +kernel⟩
theorem wit_LineEntry : w0.frag.line = none ∧
    (match s0.check 0 .fetch 64 (pcLine w0.frag.pc).toNat with | .ok key _ => key == flatKey spHBM 0x200100 | _ => false) = true ∧
    (match s0.check 0 .fetch 64 0x40000000 with | .fault c => c == 0x20 | _ => false) = true :=
  ⟨rfl, by decide +kernel, by decide +kernel⟩
theorem wit_StepRunsEvents : (idle s0).issue = none ∧ (idle s0).agenda = [] ∧ Instr.isEvent .kvtRecompute = true ∧
    ({ idle s0 with agenda := [.kvtRecompute] } : State).agenda = .kvtRecompute :: [] :=
  ⟨rfl, by decide, rfl, rfl⟩
theorem wit_Invariants : State.reset.canonical ∧ State.reset.numbered :=
  ⟨⟨by decide, by simp [show State.reset.launches = [] from rfl], by simp [show State.reset.teams = [] from rfl]⟩,
    by simp [State.numbered, show State.reset.ops = [] from rfl]⟩
theorem wit_Encoding : Instr.nop.wf = true ∧ encode .nop = some nopWord ∧ (decode nopWord).toOption = some .nop ∧
    issueClass 0 = none ∧ Memory.wf State.reset.mem = true ∧ 5 < 2 ^ 8 :=
  by decide +kernel
/-- The machine steps from reset, and the invariants hold there. -/
theorem wit_StepsKeep : (match step State.reset with | .next _ => true | _ => false) = true := by decide +kernel

/-! ### Single steps, with the results of the spec's worked examples -/

/-- Lane `j` of register `r` of group 0 after `i`. -/
def laneAfter (i : Instr) (s : State) (r j : Nat) : Option (BitVec 32) :=
  match exec i s with
  | .next t => (t.teamAt 0).map fun u => ((u.group 0).vget r).lane j
  | _ => none
/-- FSTAT of group 0 after `i`. -/
def fstatAfter (i : Instr) (s : State) : Option (BitVec 8) :=
  match exec i s with
  | .next t => (t.teamAt 0).map fun u => (u.group 0).fstat.setWidth 8
  | _ => none
/-- s10 of group 0 after `i`. -/
def sAfter (i : Instr) (s : State) : Option DWord :=
  match exec i s with
  | .next t => (t.teamAt 0).map fun u => (u.group 0).sget 10
  | _ => none
/-- The base state with three v registers uniform. -/
def sUni (a b c : BitVec 32) : State :=
  stateOf { team0 with groups := { grp0 with v := [(4, .uniform a), (5, .uniform b), (6, .uniform c)] } :: team0.groups.drop 1 }
/-- The shape example of chapter 6: v4 = (0x1000, 4), v5 = 2. -/
def sShape : State :=
  stateOf { team0 with groups := { grp0 with v := [(4, .affine 0x1000 4), (5, .uniform 2)] } :: team0.groups.drop 1 }
theorem test_shape_scale : (match exec (.shl ⟨false, .i32, false, 42, 4, 5, 0⟩) sShape with
    | .next t => (t.teamAt 0).map fun u => (u.group 0).vget 42
    | _ => none) = some (.affine 0x4000 16) := by decide +kernel
theorem test_add_affine : laneAfter (addI 10 4) s0 10 63 = some (10 + 3 * 63 + 7) := by decide +kernel
theorem test_add_group : sAfter (.iadd ⟨true, .i64, false, 10, 5, 1, 0⟩) s0 = some 5 := by decide +kernel
theorem test_dotq_nearest : laneAfter (.dotq ⟨.flt .e2m1, false, .vec 12 6 .rne false, 4, 5, 0⟩) (sUni 0x06A517C3 0x7932F144 0x30800000)
    12 0 = some 0xBFC00000 := by decide +kernel
theorem test_dotq_toward_zero : laneAfter (.dotq ⟨.flt .e2m1, false, .vec 12 6 .rz false, 4, 5, 0⟩)
    (sUni 0x06A517C3 0x7932F144 0x30800000) 12 0 = some 0xBFBFFFFF := by decide +kernel
theorem test_ffma_tie : laneAfter (.ffma ⟨false, .plain, .f32, .rne, false, 12, 4, 5, 6, 0⟩) (sUni 0x00000200 0x3A800000 0) 12 7 =
    some 0 := by decide +kernel
theorem test_ffma_up : laneAfter (.ffma ⟨false, .plain, .f32, .rup, false, 12, 4, 5, 6, 0⟩) (sUni 0x00000200 0x3A800000 0) 12 7 =
    some 1 := by decide +kernel
theorem test_cvt_saturates : laneAfter (.cvt ⟨false, .flt .e4m3, .flt .f32, .rne, true, 12, 4, 0⟩) (sUni 0x43EB0000 0 0) 12 0 =
    some 0x7E := by decide +kernel
theorem test_cvt_overflows : laneAfter (.cvt ⟨false, .flt .e4m3, .flt .f32, .rne, false, 12, 4, 0⟩) (sUni 0x43EB0000 0 0) 12 0 =
    some 0x7F := by decide +kernel
/-- The tables of the translation example of chapter 12. -/
def sWalk : State :=
  { s0 with
    mem := Memory.write (Memory.write (Memory.write [] (ensKey 0x1428000) 8 0x1581001) (ensKey 0x1581008) 8 0x1582001) (ensKey 0x1582008) 8
      0x10000040046B,
    ports := List.replicate 32 { Port.reset with up := true, keys := [(5, 7)] },
    host := { s0.host with nodes := 8, ctxs := [{ loadCtx with ctx := 5, frcount := 3 }] } }
theorem test_walk : (match sWalk.check 5 .load 1 0x0008000040212345 with
    | .ok key _ => key == flatKey spPOOL (6 * 2 ^ 42 + 0x404345)
    | _ => false) = true := by decide +kernel
theorem test_walk_fetch : (match sWalk.check 5 .fetch 64 0x0008000040212340 with
    | .fault c => c == 0x21
    | _ => false) = true := by decide +kernel
/-- The loaded ADD retires: the next slot of its line follows. -/
theorem test_step_loaded_add : (match step (State.reset.withFetchWord 96 0x40000500400A000000000000) with
    | .next t => (t.teamAt 0).map fun u => (u.frags.map fun f => f.pc)
    | _ => none) = some [loadKernel.pc 0x101] := by decide +kernel

end Sys2Proof.Tests
end

namespace Sys2Proof.Machine
open Sys2Proof

/-! ### Fragments and retirement -/

/-- The team that `onTeam` names holds its update. -/
theorem teamAt_onTeam_self (s : State) (id : Nat) (f : Team → Team) (hf : ∀ t, (f t).id = t.id) :
    (s.onTeam id f).teamAt id = (s.teamAt id).map f := by
  rw [teamAt_onTeam s id id f hf, if_pos rfl]
/-- What `State.retire` makes of a fragment of the issuing team: the issuer, and the parts it has made, count the instruction. -/
def Fragment.afterRetire (w : Who) (fall : Bool) (f : Fragment) : Fragment :=
  if f.id == w.frag.id || f.id ≥ w.team.nextFrag then
    let f' := { f with
      retired := f.retired + 1, inRound := f.inRound + 1, wdog := f.wdog + 1, safe := false, roundGo := false, blocked := false }
    if fall && f.id == w.frag.id then f'.stepTo w.iss else f'
  else f
/-- What `State.retire` makes of the issuing team. -/
def Team.afterRetire (w : Who) (fall : Bool) (t : Team) : Team := { t with frags := t.frags.map (Fragment.afterRetire w fall) }
/-- Retirement of a fragment's instruction changes the fragments of its team alone. -/
theorem retire_eq (s : State) (w : Who) (fall : Bool) (hw : w.thr = none) :
    s.retire w fall = { s with issue := none, last := .retired }.onTeam w.team.id (Team.afterRetire w fall) := by
  unfold State.retire
  rw [hw]
  rfl
@[simp] theorem afterRetire_id (w : Who) (fall : Bool) (f : Fragment) : (f.afterRetire w fall).id = f.id := by
  unfold Fragment.afterRetire
  (repeat' split) <;> rfl
@[simp] theorem afterRetire_region (w : Who) (fall : Bool) (f : Fragment) : (f.afterRetire w fall).region = f.region := by
  unfold Fragment.afterRetire
  (repeat' split) <;> rfl
/-- The issuer goes on at the next slot. -/
theorem afterRetire_pc (w : Who) (f : Fragment) (h : f.id = w.frag.id) : (f.afterRetire w true).pc = w.iss.next := by
  simp [Fragment.afterRetire, h, Fragment.stepTo]
@[simp] theorem retire_last (s : State) (w : Who) (fall : Bool) (hw : w.thr = none) : (s.retire w fall).last = .retired := by
  rw [retire_eq s w fall hw]
  rfl
@[simp] theorem retire_issue (s : State) (w : Who) (fall : Bool) (hw : w.thr = none) : (s.retire w fall).issue = none := by
  rw [retire_eq s w fall hw]
  rfl
/-- The issuing team after a retirement. -/
theorem teamAt_retire (s : State) (w : Who) (fall : Bool) (hw : w.thr = none) :
    (s.retire w fall).teamAt w.team.id = (s.teamAt w.team.id).map (Team.afterRetire w fall) := by
  rw [retire_eq s w fall hw]
  exact teamAt_onTeam_self _ w.team.id (Team.afterRetire w fall) fun _ => rfl
/-- Looking up a fragment after a retirement. -/
@[simp] theorem fragAt_afterRetire (w : Who) (fall : Bool) (t : Team) (k : Nat) :
    (t.afterRetire w fall).fragAt k = (t.fragAt k).map (Fragment.afterRetire w fall) := by
  simp only [Team.afterRetire, Team.fragAt, List.find?_map, Function.comp_def, afterRetire_id]
/-- Teams whose fragments agree up to their cores hold fragments of the same ids. -/
theorem fragAt_of_core {x y : Team} (h : y.frags.map Fragment.core = x.frags.map Fragment.core) {k : Nat} {a : Fragment}
    (ha : x.fragAt k = some a) : ∃ b, y.fragAt k = some b := by
  have core_find (t : Team) : ((t.frags.map Fragment.core).find? fun f => f.id == k) = (t.fragAt k).map Fragment.core := by
    rw [List.find?_map]
    rfl
  have hm : (y.fragAt k).map Fragment.core = some a.core := by rw [← core_find y, h, core_find x, ha]; rfl
  obtain ⟨b, hb, _⟩ := Option.map_eq_some_iff.mp hm
  exact ⟨b, hb⟩

/-! ### What a fragment of the execute slice finds after its instruction -/

/-- A fragment that issues alone, or first of its pair, reads the groups as its team holds them. -/
theorem group_of_issues {s : State} {w : Who} (h : s.FragIssues w) (g : Nat) : w.group g = w.team.group g := by
  obtain ⟨⟨_, hg⟩, _⟩ := h
  rw [Who.group, Team.group, hg]
/-- The latch names the issuer. -/
theorem who_of_issues {s : State} {w : Who} (h : s.FragIssues w) : s.who = some w := h.1.1
/-- The state holds the issuing team, and the team the issuing fragment. -/
theorem team_frag_of_issues {s : State} {w : Who} (h : s.FragIssues w) :
    s.teamAt w.team.id = some w.team ∧ w.team.fragAt w.frag.id = some w.frag := by
  obtain ⟨_, hteam, hfrag, _⟩ := who_some s w (who_of_issues h)
  exact ⟨hteam, hfrag h.2⟩
/-- The issuing team in a later state is related to the issuer's as the change says. -/
theorem TeamChange.teamNow {s t : State} {w : Who} {R : Team → Team → Prop} (h : s.FragIssues w)
    (hc : TeamChange s t w.team.id R) : R w.team (t.teamNow w) := by
  obtain ⟨_, _, hR⟩ := hc
  obtain ⟨y, hy, hxy⟩ := hR w.team (team_frag_of_issues h).1
  rwa [State.teamNow, hy]
/-- An instruction that changes its team by register writes and then retires has the frame of those writes. -/
theorem regFrame_retire {s s' : State} {w : Who} {vs ss ts : Nat → Nat → Prop} (h : s.FragIssues w)
    (hc : TeamChange s s' w.team.id (RegChange vs ss ts)) : RegFrame s (s'.retire w true) w vs ss := by
  have hw : w.thr = none := h.2
  have hr := TeamChange.trans (RegChange.trans vs ss ts) hc (retire_change vs ss ts s' w true hw)
  obtain ⟨hfield, hlen, hgroup, hfrags, hthreads, hv, hs, hf, _⟩ := TeamChange.teamNow h hr
  obtain ⟨hrest, hother, _⟩ := hr
  refine ⟨⟨hrest, hother⟩, ⟨hfield, hlen, hgroup, hfrags, hthreads⟩, hv, fun g r hn => ?_, fun hsome => ?_, hf, ?_⟩
  · simpa only [State.sNow, Who.s, hw, group_of_issues h] using hs g r hn
  · simp [hw] at hsome
  · obtain ⟨hat, hfrag⟩ := team_frag_of_issues h
    obtain ⟨_, _, hteam⟩ := hc
    obtain ⟨y, hy, _, _, _, hcore, _⟩ := hteam w.team hat
    obtain ⟨b, hb⟩ := fragAt_of_core hcore hfrag
    have hid : b.id = w.frag.id := fragAt_id y w.frag.id b hb
    simp [State.fragNow, hw, State.teamNow, teamAt_retire s' w true hw, hy, hb, afterRetire_pc w b hid]

/-! ### FSTAT that stays -/

/-- No group's FSTAT changes, nor what any fragment has yet to commit to it. -/
def FstatKept (x y : Team) : Prop :=
  (∀ g, (y.group g).fstat = (x.group g).fstat) ∧
  y.frags.map (fun f => f.region.pend) = x.frags.map fun f => f.region.pend
theorem FstatKept.refl (x : Team) : FstatKept x x := ⟨fun _ => rfl, rfl⟩
theorem FstatKept.trans (x y z : Team) (h1 : FstatKept x y) (h2 : FstatKept y z) : FstatKept x z :=
  ⟨fun g => (h2.1 g).trans (h1.1 g), h2.2.trans h1.2⟩
/-- Writing v registers sets no FSTAT bit. -/
theorem putV_keeps_fstat (s : State) (w : Who) (l : List VWrite) : TeamChange s (s.putV w l) w.team.id FstatKept := by
  refine TeamChange.foldl FstatKept.refl FstatKept.trans _ l s fun s a _ =>
    TeamChange.onTeam s _ _ _ (fun _ => rfl) fun x => ⟨fun g => ?_, rfl⟩
  rw [group_onGroup]
  split
  · unfold Group.vput; split <;> rfl
  · rfl
/-- Retirement sets no FSTAT bit. -/
theorem retire_keeps_fstat (s : State) (w : Who) (fall : Bool) (hw : w.thr = none) :
    TeamChange s (s.retire w fall) w.team.id FstatKept := by
  rw [retire_eq s w fall hw]
  refine TeamChange.trans FstatKept.trans (TeamChange.latch s _ none .retired _ FstatKept.refl)
    (TeamChange.onTeam _ _ _ _ (fun _ => rfl) fun x => ⟨fun _ => rfl, ?_⟩)
  simp [Team.afterRetire, Function.comp_def]

/-! ### Registers after a list of writes -/

/-- What `State.putV` makes of the issuing team. -/
def Team.putV (t : Team) (l : List VWrite) : Team := l.foldl (fun t x => t.onGroup x.g fun y => y.vput x.r x.v) t
/-- The issuing team after a list of writes. -/
theorem teamAt_putV (w : Who) : ∀ (l : List VWrite) (s : State),
    (s.putV w l).teamAt w.team.id = (s.teamAt w.team.id).map fun t => t.putV l
  | [], s => by simp [State.putV, Team.putV]
  | x :: l, s => by
    have hx : (s.onGroup w.team.id x.g fun y => y.vput x.r x.v).teamAt w.team.id =
        (s.teamAt w.team.id).map fun t => t.onGroup x.g fun y => y.vput x.r x.v :=
      teamAt_onTeam_self s w.team.id (fun t => t.onGroup x.g _) fun _ => rfl
    have ih := teamAt_putV w l (s.onGroup w.team.id x.g fun y => y.vput x.r x.v)
    rw [hx, Option.map_map] at ih
    exact ih
/-- A register that already holds `v`, or that the list writes, holds `v` when every write of it in the list writes `v`. -/
theorem vget_team_putV {g r : Nat} {v : VReg} (hr : r ≠ 0) : ∀ (l : List VWrite) (t : Team), g < t.groups.length →
    (∀ a ∈ l, a.g = g → a.r = r → a.v = v) → ((t.group g).vget r = v ∨ ∃ a ∈ l, a.g = g ∧ a.r = r) →
    ((t.putV l).group g).vget r = v
  | [], _, _, _, h => by simpa [Team.putV] using h
  | x :: l, t, hg, hall, h => by
    have hone : ((t.onGroup x.g fun y => y.vput x.r x.v).group g).vget r =
        if g = x.g ∧ r = x.r then x.v else (t.group g).vget r := by
      rw [group_onGroup]
      by_cases hgx : g = x.g
      · rw [if_pos ⟨hgx, hg⟩, vget_vput]
        simp [hgx, hr]
      · simp [hgx]
    refine vget_team_putV hr l (t.onGroup x.g fun y => y.vput x.r x.v) (by simpa using hg)
      (fun a ha => hall a (List.mem_cons_of_mem x ha)) ?_
    rw [hone]
    by_cases hx : g = x.g ∧ r = x.r
    · rw [if_pos hx]
      exact .inl (hall x List.mem_cons_self hx.1.symm hx.2.symm)
    · rw [if_neg hx]
      refine h.imp_right fun ⟨a, ha, hag, har⟩ => ⟨a, (List.mem_cons.mp ha).resolve_left ?_, hag, har⟩
      rintro rfl
      exact hx ⟨hag.symm, har.symm⟩
/-- A register that a list of writes names holds `v` when every write of it in the list writes `v`. -/
theorem vNow_putV {s : State} {w : Who} {l : List VWrite} {g r : Nat} {v : VReg} (h : s.FragIssues w)
    (hg : g < w.team.groups.length) (hr : r ≠ 0) (hall : ∀ a ∈ l, a.g = g → a.r = r → a.v = v)
    (hex : ∃ a ∈ l, a.g = g ∧ a.r = r) : (s.putV w l).vNow w g r = v := by
  rw [State.vNow, State.teamNow, teamAt_putV, (team_frag_of_issues h).1]
  exact vget_team_putV hr l w.team hg hall (.inr hex)
/-- Retirement changes no v register. -/
theorem vNow_retire (s : State) (w : Who) (fall : Bool) (hw : w.thr = none) (g r : Nat) :
    (s.retire w fall).vNow w g r = s.vNow w g r := by
  rw [State.vNow, State.vNow, State.teamNow, State.teamNow, teamAt_retire s w fall hw]
  cases s.teamAt w.team.id <;> rfl

/-! ### Vector forms that write one register of every qualifying group -/

/-- The writes of `res g` to v[d] of the groups that qualify under `msk`. -/
def Who.vwrites (w : Who) (msk : MaskField) (d : Nat) (res : Nat → VReg) : List VWrite :=
  (w.qual msk).map fun g => ⟨g, d, res g⟩
theorem mem_vwrites {w : Who} {msk : MaskField} {d : Nat} {res : Nat → VReg} {a : VWrite} :
    a ∈ w.vwrites msk d res ↔ a.g ∈ w.qual msk ∧ a.r = d ∧ a.v = res a.g := by
  obtain ⟨g, r, v⟩ := a
  simp only [Who.vwrites, List.mem_map, VWrite.mk.injEq]
  constructor
  · rintro ⟨g', hg, rfl, rfl, rfl⟩
    exact ⟨hg, rfl, rfl⟩
  · rintro ⟨hg, rfl, rfl⟩
    exact ⟨g, hg, rfl, rfl, rfl⟩
/-- A write meets the shape check at v0, below genmax, and with a uniform or affine value (R123). -/
theorem shapeBad_eq_false {w : Who} {x : VWrite} (h : x.r = 0 ∨ x.r < (w.group x.g).genmax ∨ x.v.isGeneral = false) :
    w.shapeBad x = false := by
  rcases h with h | h | h <;> simp [Who.shapeBad, h]
/-- Such a form completes where every write meets the shape check: it raises no FSTAT bit, writes its results, and nothing else. -/
theorem execPlain_vwrites {s : State} {w : Who} {msk : MaskField} {d : Nat} (res : Who → Nat → VReg) (h : s.FragIssues w)
    (hok : ∀ g ∈ w.qual msk, d = 0 ∨ d < (w.group g).genmax ∨ (res w g).isGeneral = false) :
    ∃ t, (execPlain (fun w s => s.writeV w (w.vwrites msk d (res w)) []) s = .next t ∧ t.last = .retired ∧ t.issue = none) ∧
      SameFstat t w ∧ RegFrame s t w (fun g r => g ∈ w.qual msk ∧ r = d) (fun _ _ => False) ∧
      ∀ g ∈ w.qual msk, g < w.team.groups.length → d ≠ 0 → t.vNow w g d = res w g := by
  have hw : w.thr = none := h.2
  have hgood : ∀ x ∈ w.vwrites msk d (res w), w.shapeBad x = false := fun x hx => by
    obtain ⟨hg, hr, hv⟩ := mem_vwrites.mp hx
    exact shapeBad_eq_false (by rw [hr, hv]; exact hok x.g hg)
  refine ⟨(s.putV w (w.vwrites msk d (res w))).retire w true,
    ⟨execOn_ok _ _ _ s _ w (who_of_issues h) rfl (by simp [Stream.allows, hw]) (writeV_ok s w _ [] hgood), retire_last _ w _ hw,
      retire_issue _ w _ hw⟩, ?_, ?_, fun g hg hlt hd => ?_⟩
  · exact TeamChange.teamNow h
      (TeamChange.trans FstatKept.trans (putV_keeps_fstat s w _) (retire_keeps_fstat _ w true hw))
  · refine regFrame_retire (ts := fun _ _ => False) h (putV_change _ _ _ w _ s fun x hx => ?_)
    obtain ⟨hg, hr, _⟩ := mem_vwrites.mp hx
    exact ⟨hg, hr⟩
  · rw [vNow_retire _ w true hw]
    refine vNow_putV h hlt hd (fun a ha hag _ => ?_) ⟨⟨g, d, res w g⟩, mem_vwrites.mpr ⟨hg, rfl, rfl⟩, rfl, rfl⟩
    rw [(mem_vwrites.mp ha).2.2, hag]
/-- R123: where the one group that qualifies would hold a general result at or above genmax, such a form takes the shape fault. -/
theorem execPlain_shapeFault {s : State} {w : Who} {msk : MaskField} {d g : Nat} {res : Who → Nat → VReg}
    {fl : Who → List (Nat × FBits)} (h : s.FragIssues w) (hq : w.qual msk = [g]) (hd : d ≠ 0) (hgen : (w.group g).genmax ≤ d)
    (hres : (res w g).isGeneral = true) :
    execPlain (fun w s => s.writeV w (w.vwrites msk d (res w)) (fl w)) s =
      .next (s.trapWho w 0x06 (BitVec.ofNat 64 g) w.iss.pc) := by
  have hbad : w.shapeBad ⟨g, d, res w g⟩ = true := by simp [Who.shapeBad, hd, hgen, hres]
  have htrap : s.writeV w (w.vwrites msk d (res w)) (fl w) = .trap 0x06 (BitVec.ofNat 64 g) := by
    simp [State.writeV, Who.vwrites, hq, hbad]
  simp [execPlain, execOn, who_of_issues h, Stream.allows, h.2, htrap]

/-! ### The shape of a result (R121, R122) -/

@[simp] theorem isGeneral_ofLanes (f : Nat → Word) : (VReg.ofLanes f).isGeneral = true := rfl
/-- The plain rule gives a general result where a source is general. -/
theorem isGeneral_plainShape {tags : List Nat} (f : Nat → Word) (h : 2 ∈ tags) : (plainShape tags f).isGeneral = true := by
  have hall : ¬(tags.all fun t => t == 0) = true := fun hz => by simpa using List.all_eq_true.mp hz 2 h
  simp [plainShape, hall]
/-- A general result stays general when it is merged: a partial write gives a general value. -/
theorem isGeneral_merge {w : Who} {msk : MaskField} {g r : Nat} {v : VReg} (h : v.isGeneral = true) :
    (w.merge msk g r v).isGeneral = true := by
  unfold Who.merge
  split
  · exact h
  · rfl

/-! ### SHAPE (R136) -/

/-- The register that SHAPE writes for the register it reads. -/
def shapeResult : ShapeKind → VReg → VReg
  | .tight, v => tighten v
  | .gen, v => VReg.ofLanes v.lane
  | .qry, v => .uniform (BitVec.ofNat 32 v.tag)
/-- SHAPE writes it in every group that qualifies without a mask. -/
theorem exec_shape (m : ShapeArgs) (s : State) :
    exec (.shape m) s = execPlain (fun w s =>
      s.writeV w (w.vwrites 0 m.d.toNat fun g => shapeResult m.kind (w.v g m.a.toNat)) []) s := by
  obtain ⟨kind, d, a, msk⟩ := m
  cases kind <;> rfl
/-- The 64 values are equal. -/
def laneConst (v : VReg) : Prop := ∀ j < 64, v.lane j = v.lane 0
/-- Equal values are those of an affine register with step 0. -/
theorem laneConst.laneAffine {v : VReg} (h : laneConst v) : laneAffine v := fun j hj => by simp [h j hj, h 1 (by omega)]
/-- SHAPE.TIGHT chooses the first of the three tags that represents the values. -/
theorem tighten_cases (v : VReg) :
    (laneConst v ∧ tighten v = .uniform (v.lane 0)) ∨
    (¬laneConst v ∧ laneAffine v ∧ tighten v = .affine (v.lane 0) (v.lane 1 - v.lane 0)) ∨
    (¬laneConst v ∧ ¬laneAffine v ∧ tighten v = VReg.ofLanes v.lane) := by
  have hconst : (laneList.all fun i => v.lane i == v.lane 0) = true ↔ laneConst v := by simp [laneList, laneConst]
  have haffine : (laneList.all fun i => v.lane i == v.lane 0 + (v.lane 1 - v.lane 0) * BitVec.ofNat 32 i) = true ↔
      laneAffine v := by simp [laneList, laneAffine]
  unfold tighten
  by_cases hc : laneConst v
  · exact .inl ⟨hc, if_pos (hconst.mpr hc)⟩
  · by_cases ha : laneAffine v
    · exact .inr (.inl ⟨hc, ha, (if_neg (mt hconst.mp hc)).trans (if_pos (haffine.mpr ha))⟩)
    · exact .inr (.inr ⟨hc, ha, (if_neg (mt hconst.mp hc)).trans (if_neg (mt haffine.mp ha))⟩)
/-- SHAPE.TIGHT keeps the 64 values. -/
theorem lane_tighten (v : VReg) (j : Nat) (hj : j < 64) : (tighten v).lane j = v.lane j := by
  rcases tighten_cases v with ⟨hc, e⟩ | ⟨_, ha, e⟩ | ⟨_, _, e⟩
  · rw [e]; exact (hc j hj).symm
  · rw [e]; exact (ha j hj).symm
  · rw [e]; exact lane_ofLanes v.lane j hj
/-- The tag that SHAPE.TIGHT gives is the narrowest that represents the values. -/
theorem tag_tighten (v : VReg) :
    ((tighten v).tag = 0 ↔ laneConst v) ∧ ((tighten v).tag = 1 ↔ laneAffine v ∧ ¬laneConst v) ∧
      ((tighten v).tag = 2 ↔ ¬laneAffine v) := by
  rcases tighten_cases v with ⟨hc, e⟩ | ⟨hc, ha, e⟩ | ⟨hc, ha, e⟩
  · simp [e, VReg.tag, hc, hc.laneAffine]
  · simp [e, VReg.tag, hc, ha]
  · simp [e, VReg.ofLanes, VReg.tag, hc, ha]
/-- The result of SHAPE has the general tag where R136 says so. -/
theorem isGeneral_shapeResult (k : ShapeKind) (v : VReg) : (shapeResult k v).isGeneral = true ↔ shapeGeneral k v := by
  cases k with
  | tight => simpa [shapeResult, shapeGeneral, VReg.isGeneral] using (tag_tighten v).2.2
  | gen => simp [shapeResult, shapeGeneral]
  | qry => simp [shapeResult, shapeGeneral, VReg.isGeneral, VReg.tag]

/-! ### PERM (R137) -/

/-- The lanes that PERM picks, under the plain rule. -/
def permResult (a b : VReg) : VReg := plainShape [a.tag, b.tag] fun i => a.lane ((b.lane i).toNat % 64)
/-- PERM merges them into v[D] of the qualifying groups. -/
theorem exec_perm (m : PermArgs) (s : State) :
    exec (.perm m) s = execPlain (fun w s => s.writeV w
      (w.vwrites m.msk m.d.toNat fun g => w.merge m.msk g m.d.toNat (permResult (w.v g m.a.toNat) (w.v g m.b.toNat)))
      ((w.qual m.msk).map fun g => (g, w.orLanes m.msk g fun _ => 0))) s := rfl

end Sys2Proof.Machine

section
open Sys2Proof Sys2Proof.Machine

/-! ### Register shapes -/

/-- SHAPE completes where no general result meets a register at or above genmax, and takes the shape fault else. -/
theorem Sys2Proof.Claims.shapeForms : Claims.ShapeForms := by
  intro m s w h
  refine ⟨fun hok => ?_, fun g hq hd hgen hshape => ?_⟩
  · have hmeets : ∀ g ∈ w.qual 0, m.d.toNat = 0 ∨ m.d.toNat < (w.group g).genmax ∨
        (shapeResult m.kind (w.v g m.a.toNat)).isGeneral = false := fun g hg => by
      rw [← Bool.not_eq_true, isGeneral_shapeResult]
      exact (hok g hg).imp_left fun hd => by simp [hd]
    obtain ⟨t, ht, hfstat, hframe, hval⟩ :=
      execPlain_vwrites (fun w g => shapeResult m.kind (w.v g m.a.toNat)) h hmeets
    refine ⟨t, by rwa [Retires, exec_shape], hfstat, hframe, fun g hg hlt hd => ?_⟩
    simp only [hval g hg hlt (BitVec.toNat_ne.mp hd)]
    cases m.kind with
    | qry => rfl
    | gen => exact ⟨rfl, lane_ofLanes _⟩
    | tight => exact ⟨lane_tighten _, tag_tighten _⟩
  · rw [Traps, exec_shape]
    exact execPlain_shapeFault h hq (BitVec.toNat_ne.mp hd) hgen ((isGeneral_shapeResult m.kind _).mpr hshape)
/-- A general source of PERM makes its result general, full or partial as the write may be. -/
theorem Sys2Proof.Claims.shapeFault : Claims.ShapeFault := by
  intro m s w g h hq hd hgen hsrc
  rw [Traps, exec_perm]
  refine execPlain_shapeFault h hq (BitVec.toNat_ne.mp hd) hgen (isGeneral_merge (isGeneral_plainShape _ ?_))
  have htag : (w.v g m.a.toNat).tag = 2 := by simpa [VReg.isGeneral] using hsrc
  simp [htag]
/-- Settles O9, through the one register that SHAPE and PERM write in every qualifying group: `execPlain_vwrites` where each
write meets the shape check of R123, `execPlain_shapeFault` where one does not. -/
theorem registerShapes : Obligations.RegisterShapes := ⟨Claims.shapeForms, Claims.shapeFault⟩

end

namespace Sys2Proof.Machine
open Sys2Proof

/-! ### The order of codes of a format with infinities (R57, R155) -/

/-- The bits of a code below its sign. -/
def fltMagCode (t : FltTy) (code : Nat) : Nat := code % 2 ^ ((fmtOf t).p + (fmtOf t).w)
/-- The sign bit of a code is set. -/
def fltNegCode (t : FltTy) (code : Nat) : Bool := code / 2 ^ ((fmtOf t).p + (fmtOf t).w) % 2 == 1
/-- A magnitude code with `p` mantissa bits in units of the smallest subnormal. -/
def gridMag (p k : Nat) : Nat := if k / 2 ^ p = 0 then k % 2 ^ p else (2 ^ p + k % 2 ^ p) * 2 ^ (k / 2 ^ p - 1)
/-- A value of either sign. -/
def signed (neg : Bool) (k : Nat) : Int := if neg then -(k : Int) else k

/-- The next code is the next value: in the same binade the mantissa grows by one, else the exponent does. -/
theorem gridMag_lt_succ (p k : Nat) : gridMag p k < gridMag p (k + 1) := by
  have hpos : 0 < 2 ^ p := Nat.two_pow_pos p
  have hmod : k % 2 ^ p < 2 ^ p := Nat.mod_lt k hpos
  unfold gridMag
  by_cases hwrap : k % 2 ^ p + 1 = 2 ^ p
  · have hk : k + 1 = 2 ^ p * (k / 2 ^ p + 1) := by rw [Nat.mul_add_one]; have := Nat.div_add_mod k (2 ^ p); omega
    have hdiv : (k + 1) / 2 ^ p = k / 2 ^ p + 1 := by rw [hk, Nat.mul_div_cancel_left _ hpos]
    have hrem : (k + 1) % 2 ^ p = 0 := by rw [hk, Nat.mul_mod_right]
    rw [hdiv, hrem]
    rcases hq : k / 2 ^ p with _ | q
    · simpa using hmod
    · have hexp : 0 < 2 ^ q := Nat.two_pow_pos q
      simp only [Nat.add_one_ne_zero, if_false, Nat.add_sub_cancel, Nat.add_zero, pow_succ]
      nlinarith
  · have hdiv : (k + 1) / 2 ^ p = k / 2 ^ p := by
      rw [Nat.div_eq_iff hpos]; have := Nat.div_add_mod k (2 ^ p); rw [Nat.mul_comm]; omega
    have hrem : (k + 1) % 2 ^ p = k % 2 ^ p + 1 := by
      have h1 := Nat.div_add_mod k (2 ^ p); have h2 := Nat.div_add_mod (k + 1) (2 ^ p); rw [hdiv] at h2; omega
    rw [hdiv, hrem]
    split
    · omega
    · exact Nat.mul_lt_mul_of_pos_right (by omega) (Nat.two_pow_pos _)
theorem gridMag_strictMono (p : Nat) : StrictMono (gridMag p) := strictMono_nat_of_lt_succ (gridMag_lt_succ p)
@[simp] theorem gridMag_zero (p : Nat) : gridMag p 0 = 0 := by simp [gridMag]

/-- The exponent field of a code. -/
theorem fltMagCode_div (t : FltTy) (code : Nat) :
    fltMagCode t code / 2 ^ (fmtOf t).p = code / 2 ^ (fmtOf t).p % 2 ^ (fmtOf t).w := by
  rw [fltMagCode, pow_add, Nat.mod_mul_right_div_self]
/-- The mantissa field of a code. -/
theorem fltMagCode_mod (t : FltTy) (code : Nat) : fltMagCode t code % 2 ^ (fmtOf t).p = code % 2 ^ (fmtOf t).p := by
  rw [fltMagCode, pow_add, Nat.mod_mul_right_mod]
/-- Decoding a code of a format with infinities, by its magnitude code. -/
theorem fltDecode_ieee {t : FltTy} (ht : (fmtOf t).sp = .ieee) (code : Nat) :
    fltDecode t code =
      let k := fltMagCode t code
      let e := k / 2 ^ (fmtOf t).p
      let m := k % 2 ^ (fmtOf t).p
      if e = 2 ^ (fmtOf t).w - 1 then (if m = 0 then .inf (fltNegCode t code) else .nan)
      else if e = 0 then .fin (fltNegCode t code) m (1 - ((fmtOf t).bias : Int) - (fmtOf t).p)
      else .fin (fltNegCode t code) (2 ^ (fmtOf t).p + m) ((e : Int) - (fmtOf t).bias - (fmtOf t).p) := by
  simp [fltDecode, ht, fltMagCode_div, fltMagCode_mod, fltNegCode]

/-- The code of +∞ is not that of 0. -/
theorem fltInf_pos (t : FltTy) : 0 < fltInf t := by cases t <;> decide

/-- What a code that is no NaN decodes to: the value that its magnitude code has on the grid of the subnormals, or the infinity
above all of them. -/
inductive DecodesAs (t : FltTy) (code : Nat) : FVal → Prop
  | inf (h : fltMagCode t code = fltInf t) : DecodesAs t code (.inf (fltNegCode t code))
  | fin (m e : Nat) (hlt : fltMagCode t code < fltInf t) (hm : gridMag (fmtOf t).p (fltMagCode t code) = m * 2 ^ e) :
      DecodesAs t code (.fin (fltNegCode t code) m (1 - ((fmtOf t).bias : Int) - (fmtOf t).p + e))

/-- Every code that is no NaN decodes to such a value. -/
theorem decodesAs_of_not_nan {t : FltTy} (ht : (fmtOf t).sp = .ieee) {code : Nat} (h : (fltDecode t code).isNan = false) :
    DecodesAs t code (fltDecode t code) := by
  have hk := Nat.div_add_mod (fltMagCode t code) (2 ^ (fmtOf t).p)
  have hbound : fltMagCode t code / 2 ^ (fmtOf t).p < 2 ^ (fmtOf t).w := by
    rw [Nat.div_lt_iff_lt_mul (Nat.two_pow_pos _), ← pow_add, Nat.add_comm (fmtOf t).w]
    exact Nat.mod_lt _ (Nat.two_pow_pos _)
  have hfin (hne : fltMagCode t code / 2 ^ (fmtOf t).p ≠ 2 ^ (fmtOf t).w - 1) : fltMagCode t code < fltInf t := by
    rw [fltInf, ← Nat.div_lt_iff_lt_mul (Nat.two_pow_pos _)]
    omega
  rw [fltDecode_ieee ht] at h ⊢
  dsimp only at h ⊢
  split at h
  next htop =>
    rw [if_pos htop]
    by_cases hm : fltMagCode t code % 2 ^ (fmtOf t).p = 0
    · rw [if_pos hm]
      exact .inf (by rw [← hk, htop, hm, fltInf, Nat.mul_comm, Nat.add_zero])
    · simp [hm, FVal.isNan] at h
  next htop =>
    rw [if_neg htop]
    by_cases hzero : fltMagCode t code / 2 ^ (fmtOf t).p = 0
    · rw [if_pos hzero]
      simpa using DecodesAs.fin _ 0 (hfin htop) (by simp [gridMag, hzero])
    · rw [if_neg hzero]
      have hexp : (1 : Int) - (fmtOf t).bias - (fmtOf t).p + (fltMagCode t code / 2 ^ (fmtOf t).p - 1 : Nat) =
          (fltMagCode t code / 2 ^ (fmtOf t).p : Nat) - (fmtOf t).bias - (fmtOf t).p := by
        rw [Nat.cast_pred (Nat.pos_of_ne_zero hzero)]
        ring
      rw [← hexp]
      exact .fin _ _ (hfin htop) (by simp [gridMag, hzero])

/-- The difference that `FVal.cmp` takes of finite values, on the grid that their exponents count from. -/
theorem exactSum_sub (na nb : Bool) (ma mb i j : Nat) (q : Int) :
    (exactSum [(Term.val (.fin na ma (q + i))).fin, (Term.val (FVal.fin nb mb (q + j)).neg).fin]).1 * (2 ^ min i j : Nat) =
      signed na (ma * 2 ^ i) - signed nb (mb * 2 ^ j) := by
  have hscale (n : Bool) (m k : Nat) : signed n (m * 2 ^ k) = signed n m * (2 ^ k : Nat) := by cases n <;> simp [signed]
  have hneg : (if (!nb) = true then -(mb : Int) else mb) = -signed nb mb := by cases nb <;> simp [signed]
  have hi : (q + i - min (q + i) (q + j)).toNat = i - min i j := by omega
  have hj : (q + j - min (q + i) (q + j)).toNat = j - min i j := by omega
  have hpi : 2 ^ i = 2 ^ (i - min i j) * 2 ^ min i j := by rw [← pow_add]; congr 1; omega
  have hpj : 2 ^ j = 2 ^ (j - min i j) * 2 ^ min i j := by rw [← pow_add]; congr 1; omega
  simp only [exactSum, minExp, Term.fin, FVal.neg, List.foldl_cons, List.foldl_nil, hi, hj, hneg, hscale]
  rw [hpi, hpj, ← signed]
  push_cast
  ring
/-- Finite values compare as their mantissas on a common grid. -/
theorem cmp_fin (na nb : Bool) (ma mb i j : Nat) (q : Int) :
    FVal.cmp (.fin na ma (q + i)) (.fin nb mb (q + j)) = Int.sign (signed na (ma * 2 ^ i) - signed nb (mb * 2 ^ j)) := by
  have hpos : ((2 ^ min i j : Nat) : Int).sign = 1 := Int.sign_eq_one_of_pos (by positivity)
  rw [← exactSum_sub na nb ma mb i j q, Int.sign_mul, hpos, mul_one]
  generalize hd : (exactSum [(Term.val (.fin na ma (q + i))).fin, (Term.val (FVal.fin nb mb (q + j)).neg).fin]).1 = d
  rcases lt_trichotomy d 0 with h | rfl | h
  · simp [FVal.cmp, hd, h, Int.sign_eq_neg_one_of_neg h]
  · simp [FVal.cmp, hd]
  · simp [FVal.cmp, hd, h.not_gt, h.ne', Int.sign_eq_one_of_pos h]
/-- The greater magnitude decides the sign of a difference. -/
theorem sign_signed_sub_of_lt {k n : Nat} (h : k < n) (a b : Bool) :
    Int.sign (signed a k - signed b n) = (if b then 1 else -1) ∧ Int.sign (signed b n - signed a k) = (if b then -1 else 1) := by
  cases b with
  | true => exact ⟨Int.sign_eq_one_of_pos (by unfold signed; grind), Int.sign_eq_neg_one_of_neg (by unfold signed; grind)⟩
  | false => exact ⟨Int.sign_eq_neg_one_of_neg (by unfold signed; grind), Int.sign_eq_one_of_pos (by unfold signed; grind)⟩

/-- Codes that are no NaN compare as the values of their magnitude codes, an infinity being the value that follows the finite ones. -/
theorem cmp_fltDecode {t : FltTy} {a b : Nat} {x y : FVal} (hx : DecodesAs t a x) (hy : DecodesAs t b y) :
    x.cmp y = Int.sign (signed (fltNegCode t a) (gridMag (fmtOf t).p (fltMagCode t a)) -
      signed (fltNegCode t b) (gridMag (fmtOf t).p (fltMagCode t b))) := by
  have hmono := gridMag_strictMono (fmtOf t).p
  cases hx with
  | fin ma i ha hma =>
    cases hy with
    | fin mb j hb hmb => rw [cmp_fin, hma, hmb]
    | inf hb =>
      rw [(sign_signed_sub_of_lt (hmono (hb ▸ ha)) _ _).1]
      cases fltNegCode t b <;> rfl
  | inf ha =>
    cases hy with
    | fin mb j hb hmb =>
      rw [(sign_signed_sub_of_lt (hmono (ha ▸ hb)) _ _).2]
      cases fltNegCode t a <;> rfl
    | inf hb =>
      have hpos : 0 < gridMag (fmtOf t).p (fltInf t) := by simpa using hmono (fltInf_pos t)
      rw [ha, hb]
      cases fltNegCode t a <;> cases fltNegCode t b
      case false.true => exact (Int.sign_eq_one_of_pos (by simp only [signed]; grind)).symm
      case true.false => exact (Int.sign_eq_neg_one_of_neg (by simp only [signed]; grind)).symm
      all_goals rw [sub_self]; rfl
/-- The value that `DecodesAs` names has the sign of the code. -/
theorem DecodesAs.sign {t : FltTy} {a : Nat} {x : FVal} (hx : DecodesAs t a x) : x.sign = fltNegCode t a := by
  cases hx <;> rfl

/-- The place of a code in the order of R155. -/
def fltRank (t : FltTy) (code : Nat) : Int :=
  if fltNegCode t code then -(fltMagCode t code : Int) - 1 else fltMagCode t code
/-- Codes that are no NaN stand in the order of their ranks, −0 below +0. -/
theorem before_fltDecode {t : FltTy} {a b : Nat} {x y : FVal} (hx : DecodesAs t a x) (hy : DecodesAs t b y) :
    x.before y = true ↔ fltRank t a < fltRank t b := by
  have hmono := gridMag_strictMono (fmtOf t).p
  have hlt := hmono.lt_iff_lt (a := fltMagCode t a) (b := fltMagCode t b)
  have hgt := hmono.lt_iff_lt (a := fltMagCode t b) (b := fltMagCode t a)
  have ha := hmono.lt_iff_lt (a := 0) (b := fltMagCode t a)
  have hb := hmono.lt_iff_lt (a := 0) (b := fltMagCode t b)
  rw [gridMag_zero] at ha hb
  simp only [FVal.before, cmp_fltDecode hx hy, hx.sign, hy.sign, Int.sign_neg_iff, Bool.or_eq_true, Bool.and_eq_true, decide_eq_true_eq,
    beq_iff_eq, Int.sign_eq_zero_iff_zero, Bool.not_eq_true']
  cases hna : fltNegCode t a <;> cases hnb : fltNegCode t b <;> simp [fltRank, hna, hnb, signed] <;> omega

/-! ### FMIN and FMAX of codes (R155) -/

/-- The types of R153. -/
theorem fltTyOk_iff {t : FltTy} : fltTyOk t = true ↔ t = .f32 ∨ t = .f16 ∨ t = .bf16 := by simp [fltTyOk, or_assoc]
/-- The types of R153 have infinities. -/
theorem ieee_of_fltTyOk {t : FltTy} (ht : fltTyOk t = true) : (fmtOf t).sp = .ieee := by
  rcases fltTyOk_iff.mp ht with rfl | rfl | rfl <;> rfl
/-- A code of a format with infinities is a sign, an exponent and a mantissa. -/
theorem width_of_ieee {t : FltTy} (ht : (fmtOf t).sp = .ieee) : (fmtOf t).width = (fmtOf t).p + (fmtOf t).w + 1 := by
  simp [Fmt.width, ht]
  omega
/-- A field of a word that holds the low bits of `a`. -/
theorem toNat_extract_ofNat (a i n : Nat) (h : i + n ≤ 32) :
    ((BitVec.ofNat 32 a).extractLsb' i n).toNat = a / 2 ^ i % 2 ^ n := by
  rw [BitVec.extractLsb'_toNat, BitVec.toNat_ofNat, Nat.shiftRight_eq_div_pow, ← Nat.mod_mul_right_div_self, ← pow_add,
    Nat.mod_mod_of_dvd a (pow_dvd_pow 2 h), pow_add, Nat.mod_mul_right_div_self]
/-- The code of a NaN has the exponent of an infinity and a mantissa that is not 0 (R57). -/
theorem isNan_of_ieee {t : FltTy} (ht : (fmtOf t).sp = .ieee) (a : Nat) :
    (fltDecode t a).isNan = true ↔
      a / 2 ^ (fmtOf t).p % 2 ^ (fmtOf t).w = 2 ^ (fmtOf t).w - 1 ∧ a % 2 ^ (fmtOf t).p ≠ 0 := by
  rw [fltDecode_ieee ht, ← fltMagCode_div, ← fltMagCode_mod]
  dsimp only
  split
  next htop => split <;> simp [FVal.isNan, *]
  next htop => split <;> simp [FVal.isNan, htop]
/-- A NaN of a type of R153 is a NaN code of it. -/
theorem isNan_fltDecode {t : FltTy} (ht : fltTyOk t = true) (a : Nat) :
    (fltDecode t a).isNan = nanCode t (BitVec.ofNat 32 a) := by
  rw [Bool.eq_iff_iff, isNan_of_ieee (ieee_of_fltTyOk ht)]
  rcases fltTyOk_iff.mp ht with rfl | rfl | rfl <;>
    simp [nanCode, fmtOf, ← BitVec.toNat_inj, toNat_extract_ofNat, -BitVec.extractLsb'_toNat]
/-- The rank of a code is that of the word which holds it. -/
theorem codeRank_ofNat {t : FltTy} (ht : (fmtOf t).sp = .ieee) (a : Nat) :
    codeRank (fmtOf t).width (BitVec.ofNat 32 a) = fltRank t a := by
  have hle : (fmtOf t).p + (fmtOf t).w < 32 := by cases t <;> decide
  have hneg : (BitVec.ofNat 32 a).getLsbD ((fmtOf t).p + (fmtOf t).w) = fltNegCode t a := by
    rw [BitVec.getLsbD_ofNat, Nat.testBit_eq_decide_div_mod_eq, decide_eq_true hle, Bool.true_and]
    rfl
  have hmag : (BitVec.ofNat 32 a).toNat % 2 ^ ((fmtOf t).p + (fmtOf t).w) = fltMagCode t a := by
    rw [BitVec.toNat_ofNat, Nat.mod_mod_of_dvd _ (pow_dvd_pow 2 hle.le), fltMagCode]
  rw [codeRank, width_of_ieee ht, Nat.add_sub_cancel, hneg, hmag, fltRank]
/-- The rank tells which of two codes that are no NaN comes first. -/
theorem before_eq_rank {t : FltTy} (ht : fltTyOk t = true) {a b : Nat} (ha : (fltDecode t a).isNan = false)
    (hb : (fltDecode t b).isNan = false) : (fltDecode t a).before (fltDecode t b) = decide (fltRank t a < fltRank t b) :=
  have hi := ieee_of_fltTyOk ht
  Bool.eq_iff_iff.mpr ((before_fltDecode (decodesAs_of_not_nan hi ha) (decodesAs_of_not_nan hi hb)).trans decide_eq_true_iff.symm)
/-- The code that FMIN or FMAX gives is the word of R155 for the low words of the sources. -/
theorem ofNat_fltPick {t : FltTy} (ht : fltTyOk t = true) (mx : Bool) (a b : Nat) :
    BitVec.ofNat 32 (fltPick t mx a b) = pickWord t mx (BitVec.ofNat 32 a) (BitVec.ofNat 32 b) := by
  have hnan : BitVec.ofNat 32 (fltNaN t) = nanWord t := by rcases fltTyOk_iff.mp ht with rfl | rfl | rfl <;> decide
  have hwidth : (if t = .f32 then 32 else 16) = (fmtOf t).width := by rcases fltTyOk_iff.mp ht with rfl | rfl | rfl <;> decide
  have hlow (c : Nat) : (BitVec.ofNat 32 c).toNat % 2 ^ (fmtOf t).width = c % 2 ^ (fmtOf t).width := by
    rw [BitVec.toNat_ofNat, Nat.mod_mod_of_dvd _ (pow_dvd_pow 2 (by cases t <;> decide))]
  simp only [fltPick, pickWord, hwidth, codeRank_ofNat (ieee_of_fltTyOk ht), ← isNan_fltDecode ht, hlow]
  cases ha : (fltDecode t a).isNan <;> cases hb : (fltDecode t b).isNan
  case false.false => cases mx <;> simp [before_eq_rank ht, ha, hb, apply_ite (BitVec.ofNat 32)]
  all_goals simp [hnan]
/-- FMIN and FMAX give codes of 32 bits. -/
theorem fltPick_lt {t : FltTy} (ht : fltTyOk t = true) (mx : Bool) (a b : Nat) : fltPick t mx a b < 2 ^ 32 := by
  have hnan : fltNaN t < 2 ^ 32 := by rcases fltTyOk_iff.mp ht with rfl | rfl | rfl <;> decide
  have hlow (c : Nat) : c % 2 ^ (fmtOf t).width < 2 ^ 32 :=
    (Nat.mod_lt c (Nat.two_pow_pos _)).trans_le (Nat.pow_le_pow_right (by decide) (by cases t <;> decide))
  unfold fltPick
  dsimp only
  (repeat' split) <;> simp only [hnan, hlow]
/-- The result in a G form, from the low words of s registers. -/
theorem setWidth_pickWord {t : FltTy} (ht : fltTyOk t = true) (mx : Bool) (x y : DWord) :
    (pickWord t mx (x.setWidth 32) (y.setWidth 32)).setWidth 64 = BitVec.ofNat 64 (fltPick t mx x.toNat y.toNat) := by
  simp only [← BitVec.ofNat_toNat, ← ofNat_fltPick ht, BitVec.toNat_ofNat, Nat.mod_eq_of_lt (fltPick_lt ht mx _ _)]

/-! ### Lanes of results (R121, R122) -/

/-- The lanes of a uniform register are equal. -/
theorem lane_of_tag_zero {v : VReg} (h : v.tag = 0) (i j : Nat) : v.lane i = v.lane j := by
  cases v with
  | uniform => rfl
  | affine | general => simp [VReg.tag] at h
/-- A lane of a result under the plain rule, where the lanes agree when every source is uniform. -/
theorem lane_plainShape {tags : List Nat} {f : Nat → Word} {j : Nat} (hj : j < 64) (h : (∀ t ∈ tags, t = 0) → f 0 = f j) :
    (plainShape tags f).lane j = f j := by
  unfold plainShape
  split
  next hall => exact h fun t ht => by simpa using List.all_eq_true.mp hall t ht
  next => exact lane_ofLanes f j hj
/-- An active lane receives the new value, be the write full or partial. -/
theorem lane_merge {w : Who} {msk : MaskField} {g r j : Nat} {v : VReg} (hj : j < 64) (h : (w.eff msk g).getLsbD j = true) :
    (w.merge msk g r v).lane j = v.lane j := by
  unfold Who.merge
  split
  · rfl
  · rw [lane_ofLanes _ j hj, if_pos h]

/-! ### Forms that raise no FSTAT bit -/

/-- No bits raise nothing. -/
@[simp] theorem raiseF_zero (s : State) (w : Who) (g : Nat) : s.raiseF w g 0 = s := rfl
@[simp] theorem orLanes_zero (w : Who) (msk : MaskField) (g : Nat) : (w.orLanes msk g fun _ => 0) = 0 := by
  simp [Who.orLanes]
/-- A vector form with one 32-bit result that raises no bit writes its results, and nothing else. -/
theorem vecOne_noFlags (w : Who) (msk : MaskField) (d : Nat) (res : Nat → VReg) (s : State) :
    vecOne w msk d res (fun _ _ => 0) s = s.writeV w (w.vwrites msk d fun g => w.merge msk g d (res g)) [] := by
  simp only [vecOne, State.writeV, orLanes_zero, List.foldl_map, raiseF_zero, List.foldl_fixed]
  rfl
/-- A G form that raises no bit writes its words, and nothing else. -/
theorem gform_noFlags (w : Who) (d : Nat) (f : Nat → Nat) (s : State) :
    gform w d (fun g => (f g, 0)) s = gformW w d (fun g => BitVec.ofNat 64 (f g)) s := rfl

/-! ### G forms (R39, R141) -/

/-- What a fragment's write of s[r] of group `g` makes of the state. -/
theorem setS_frag (s : State) {w : Who} (hw : w.thr = none) (g r : Nat) (v : DWord) :
    s.setS w g r v = s.onTeam w.team.id fun t => t.onGroup g fun x => x.sput r v := by
  unfold State.setS
  rw [hw]
  rfl
/-- Writing an s register of some groups changes those registers alone. -/
theorem setS_change (vs ss ts : Nat → Nat → Prop) {w : Who} (hw : w.thr = none) {r : Nat} (f : Nat → DWord) (l : List Nat)
    (s : State) (h : ∀ g ∈ l, ss g r) : TeamChange s (l.foldl (fun s g => s.setS w g r (f g)) s) w.team.id (RegChange vs ss ts) := by
  refine TeamChange.foldl (RegChange.refl vs ss ts) (RegChange.trans vs ss ts) _ l s fun s g hg => ?_
  rw [setS_frag s hw]
  refine TeamChange.onTeam _ _ _ _ (fun _ => rfl) fun y => RegChange.onGroup vs ss ts y g _ (fun a => ?_) (fun a k _ => ?_)
    (fun a k hk => ?_) fun a => ?_
  · unfold Group.sput; split <;> rfl
  · unfold Group.sput; split <;> rfl
  · rw [sget_sput, if_neg]
    rintro ⟨rfl, _⟩
    exact hk (h g hg)
  · unfold Group.sput; split <;> simp
/-- Writing s registers sets no FSTAT bit. -/
theorem setS_keeps_fstat {w : Who} (hw : w.thr = none) (r : Nat) (f : Nat → DWord) (l : List Nat) (s : State) :
    TeamChange s (l.foldl (fun s g => s.setS w g r (f g)) s) w.team.id FstatKept := by
  refine TeamChange.foldl FstatKept.refl FstatKept.trans _ l s fun s g _ => ?_
  rw [setS_frag s hw]
  refine TeamChange.onTeam s _ _ _ (fun _ => rfl) fun x => ⟨fun k => ?_, rfl⟩
  rw [group_onGroup]
  split
  · unfold Group.sput; split <;> rfl
  · rfl
/-- The issuing team holds in s[r] of every group of the list what was written there. -/
theorem sget_setS {w : Who} (hw : w.thr = none) {r g : Nat} (hr : r ≠ 0) (f : Nat → DWord) :
    ∀ (l : List Nat) (s : State) (t : Team), s.teamAt w.team.id = some t → g < t.groups.length →
      (g ∈ l ∨ (t.group g).sget r = f g) →
    ∃ u, (l.foldl (fun s g => s.setS w g r (f g)) s).teamAt w.team.id = some u ∧ (u.group g).sget r = f g
  | [], _, t, ht, _, h => ⟨t, ht, by simpa using h⟩
  | k :: l, s, t, ht, hg, h => by
    have hone : ((t.onGroup k fun x => x.sput r (f k)).group g).sget r = if g = k then f k else (t.group g).sget r := by
      rw [group_onGroup]
      by_cases hk : g = k
      · rw [if_pos ⟨hk, hg⟩, sget_sput]
        simp [hk, hr]
      · simp [hk]
    refine sget_setS hw hr f l (s.setS w k r (f k)) (t.onGroup k fun x => x.sput r (f k)) ?_ (by simpa using hg) ?_
    · rw [setS_frag s hw, teamAt_onTeam_self s w.team.id (fun t => t.onGroup k _) fun _ => rfl, ht]
      rfl
    · rw [hone]
      by_cases hk : g = k
      · exact .inr (by rw [if_pos hk, hk])
      · rw [if_neg hk]
        exact h.imp_left fun hm => (List.mem_cons.mp hm).resolve_left hk
/-- Retirement changes no s register. -/
theorem sNow_retire (s : State) (w : Who) (fall : Bool) (hw : w.thr = none) (g r : Nat) :
    (s.retire w fall).sNow w g r = s.sNow w g r := by
  simp only [State.sNow, State.teamNow, hw, teamAt_retire s w fall hw]
  cases s.teamAt w.team.id <;> rfl
/-- A G form of a fragment completes: it raises no FSTAT bit, writes its words, and nothing else. -/
theorem execPlain_gformW {s : State} {w : Who} (d : Nat) (f : Who → Nat → DWord) (h : s.FragIssues w) :
    ∃ t, (execPlain (fun w s => gformW w d (f w) s) s = .next t ∧ t.last = .retired ∧ t.issue = none) ∧
      SameFstat t w ∧ RegFrame s t w (fun _ _ => False) (fun g r => g ∈ w.present ∧ r = d) ∧
      ∀ g ∈ w.present, g < w.team.groups.length → d ≠ 0 → t.sNow w g d = f w g := by
  have hw : w.thr = none := h.2
  refine ⟨(w.present.foldl (fun s g => s.setS w g d (f w g)) s).retire w true,
    ⟨execOn_ok _ _ _ s _ w (who_of_issues h) rfl (by simp [Stream.allows, hw]) rfl, retire_last _ w _ hw, retire_issue _ w _ hw⟩,
    ?_, ?_, fun g hg hlt hd => ?_⟩
  · exact TeamChange.teamNow h
      (TeamChange.trans FstatKept.trans (setS_keeps_fstat hw d (f w) _ s) (retire_keeps_fstat _ w true hw))
  · exact regFrame_retire (ts := fun _ _ => False) h (setS_change _ _ _ hw (f w) _ s fun g hg => ⟨hg, rfl⟩)
  · obtain ⟨u, hu, hval⟩ := sget_setS hw hd (f w) w.present s w.team (team_frag_of_issues h).1 hlt (.inl hg)
    rw [sNow_retire _ w true hw]
    simpa only [State.sNow, hw, State.teamNow, hu, Option.getD_some] using hval

/-! ### FMIN and FMAX (R155) -/

/-- The register that FMIN or FMAX gives for two registers, under the plain rule. -/
def minMaxResult (t : FltTy) (mx : Bool) (a b : VReg) : VReg :=
  plainShape [a.tag, b.tag] fun i => BitVec.ofNat 32 (fltPick t mx (a.lane i).toNat (b.lane i).toNat)
/-- Its lanes are the words of R155. -/
theorem lane_minMaxResult {t : FltTy} (ht : fltTyOk t = true) (mx : Bool) (a b : VReg) {j : Nat} (hj : j < 64) :
    (minMaxResult t mx a b).lane j = pickWord t mx (a.lane j) (b.lane j) := by
  rw [minMaxResult, lane_plainShape hj, ofNat_fltPick ht, BitVec.ofNat_toNat, BitVec.ofNat_toNat, BitVec.setWidth_eq,
    BitVec.setWidth_eq]
  intro h
  rw [lane_of_tag_zero (h a.tag (by simp)) 0 j, lane_of_tag_zero (h b.tag (by simp)) 0 j]
/-- What FMIN and FMAX do to the state before they retire. -/
def minMaxBody (mx : Bool) (m : FMinArgs) : Who → State → Result :=
  flt2Body m.g .rne m.d.toNat m.a.toNat m.b.toNat m.msk fun _ x y => (fltPick m.ty mx x y, 0)
/-- FMIN and FMAX of a type of R153 break no operand limit. -/
theorem exec_minMax (mx : Bool) {m : FMinArgs} (ht : fltTyOk m.ty = true) (s : State) :
    exec (if mx then .fmax m else .fmin m) s = execPlain (minMaxBody mx m) s := by
  have hlimits : execPlain (minMaxBody mx m) s = execOn .execOnly false (fun _ => fltTyOk m.ty) (minMaxBody mx m) s := by
    rw [ht]
    rfl
  rw [hlimits]
  cases mx <;> rfl
/-- In lanes they merge their result into v[D] of the qualifying groups. -/
theorem minMaxBody_lanes (mx : Bool) {m : FMinArgs} (hg : m.g = false) :
    minMaxBody mx m = fun w s => s.writeV w (w.vwrites m.msk m.d.toNat fun g =>
      w.merge m.msk g m.d.toNat (minMaxResult m.ty mx (w.v g m.a.toNat) (w.v g m.b.toNat))) [] := by
  funext w s
  rw [minMaxBody, hg, ← vecOne_noFlags]
  rfl
/-- In the G form they write s[D] of the present groups. -/
theorem minMaxBody_group (mx : Bool) {m : FMinArgs} (hg : m.g = true) :
    minMaxBody mx m = fun w s => gformW w m.d.toNat (fun g =>
      BitVec.ofNat 64 (fltPick m.ty mx (w.s g m.a.toNat).toNat (w.s g m.b.toNat).toNat)) s := by
  funext w s
  rw [minMaxBody, hg, ← gform_noFlags]
  rfl

end Sys2Proof.Machine

section
open Sys2Proof Sys2Proof.Machine

/-! ### FMIN and FMAX -/

/-- Settles O12: `execPlain_vwrites` and `execPlain_gformW` give the frame, and the codes that the model picks by their exact values are
those that R155 picks by rank (`ofNat_fltPick`), for decoded values stand in the order of their codes (`before_fltDecode`). -/
theorem minMax : Obligations.MinMax := by
  intro mx m s w h hty
  refine ⟨fun hg hok => ?_, fun hg => ?_⟩
  · obtain ⟨t, ht, hfstat, hframe, hval⟩ := execPlain_vwrites (fun w g =>
      w.merge m.msk g m.d.toNat (minMaxResult m.ty mx (w.v g m.a.toNat) (w.v g m.b.toNat))) h
      fun g hq => (hok g hq).imp (fun hd => by simp [hd]) .inl
    refine ⟨t, by rwa [Retires, exec_minMax mx hty, minMaxBody_lanes mx hg], hfstat, hframe, fun g hq hlt hd j hj hact => ?_⟩
    rw [hval g hq hlt (BitVec.toNat_ne.mp hd), lane_merge hj hact, lane_minMaxResult hty mx _ _ hj]
  · obtain ⟨t, ht, hfstat, hframe, hval⟩ := execPlain_gformW m.d.toNat (fun w g =>
      BitVec.ofNat 64 (fltPick m.ty mx (w.s g m.a.toNat).toNat (w.s g m.b.toNat).toNat)) h
    refine ⟨t, by rwa [Retires, exec_minMax mx hty, minMaxBody_group mx hg], hfstat, hframe, fun g hp hlt hd => ?_⟩
    rw [hval g hp hlt (BitVec.toNat_ne.mp hd), setWidth_pickWord hty]

end

namespace Sys2Proof.Machine
open Sys2Proof

/-! ### Reads that are 0 in deterministic mode (R227) -/

/-- Where the issuing team alone changes, memory stays. -/
theorem OnlyTeam.mem_eq {s t : State} {w : Who} (h : OnlyTeam s t w) : t.mem = s.mem := (congrArg State.mem h.1 :)
/-- So do the outstanding operations. -/
theorem OnlyTeam.ops_eq {s t : State} {w : Who} (h : OnlyTeam s t w) : t.ops = s.ops := (congrArg State.ops h.1 :)

/-- The note of such a read: DETREAD is set in deterministic mode. -/
def State.noteDet (s : State) (w : Who) : State := if w.determ then s.setDetRead w else s
/-- What such a read gives where the item is `v`. -/
def Who.detValue (w : Who) (v : DWord) : DWord := if w.determ then 0 else v
/-- The write of such a read is a write of s registers with the note. -/
theorem writeDet_eq (s : State) (w : Who) (d : SReg) (v : DWord) :
    s.writeDet w d v = .ok ((s.setAllS w d.toNat fun _ => w.detValue v).noteDet w) := by
  unfold State.writeDet State.noteDet Who.detValue
  split <;> rfl
/-- Outside deterministic mode there is no note. -/
theorem noteDet_of_not_determ (s : State) {w : Who} (hd : w.team.kernel.determ = false) : s.noteDet w = s := by
  simp [State.noteDet, Who.determ, hd]
@[simp] theorem noteDet_mem (s : State) (w : Who) : (s.noteDet w).mem = s.mem := by unfold State.noteDet; split <;> rfl
@[simp] theorem noteDet_ops (s : State) (w : Who) : (s.noteDet w).ops = s.ops := by unfold State.noteDet; split <;> rfl
@[simp] theorem noteDet_last (s : State) (w : Who) : (s.noteDet w).last = s.last := by unfold State.noteDet; split <;> rfl
@[simp] theorem noteDet_issue (s : State) (w : Who) : (s.noteDet w).issue = s.issue := by unfold State.noteDet; split <;> rfl

/-- Of the issuing team a state holds, the note changes DETREAD alone. -/
theorem teamAt_setDetRead (s : State) (w : Who) :
    (s.setDetRead w).teamAt w.team.id = (s.teamAt w.team.id).map fun t => { t with detRead := true } :=
  teamAt_onTeam_self s w.team.id (fun t => { t with detRead := true }) fun _ => rfl
/-- DETREAD is set in deterministic mode, where the state holds the issuing team. -/
theorem detRead_noteDet {s : State} {w : Who} {u : Team} (hat : s.teamAt w.team.id = some u)
    (hd : w.team.kernel.determ = true) : ((s.noteDet w).teamNow w).detRead = true := by
  simp [State.noteDet, Who.determ, hd, State.teamNow, teamAt_setDetRead, hat]
/-- But for DETREAD, the note changes nothing of the issuing team. -/
theorem teamNow_noteDet (s : State) (w : Who) :
    { (s.noteDet w).teamNow w with detRead := (s.teamNow w).detRead } = s.teamNow w := by
  unfold State.noteDet
  split
  · rw [State.teamNow, State.teamNow, teamAt_setDetRead]
    cases s.teamAt w.team.id <;> rfl
  · rfl
@[simp] theorem groups_noteDet (s : State) (w : Who) : ((s.noteDet w).teamNow w).groups = (s.teamNow w).groups :=
  (congrArg Team.groups (teamNow_noteDet s w) :)
@[simp] theorem frags_noteDet (s : State) (w : Who) : ((s.noteDet w).teamNow w).frags = (s.teamNow w).frags :=
  (congrArg Team.frags (teamNow_noteDet s w) :)
@[simp] theorem threads_noteDet (s : State) (w : Who) : ((s.noteDet w).teamNow w).threads = (s.teamNow w).threads :=
  (congrArg Team.threads (teamNow_noteDet s w) :)
@[simp] theorem sNow_noteDet (s : State) (w : Who) (g r : Nat) : (s.noteDet w).sNow w g r = s.sNow w g r := by
  simp [State.sNow, Team.group, Team.threadAt]
@[simp] theorem vNow_noteDet (s : State) (w : Who) (g r : Nat) : (s.noteDet w).vNow w g r = s.vNow w g r := by
  simp [State.vNow, Team.group]
@[simp] theorem fragNow_noteDet (s : State) (w : Who) : (s.noteDet w).fragNow w = s.fragNow w := by
  simp [State.fragNow, Team.fragAt, Team.threadAt]
theorem SameFstat.noteDet {s : State} {w : Who} (h : SameFstat s w) : SameFstat (s.noteDet w) w := by
  simpa [SameFstat, Team.group] using h

/-- Updates of one team that keep its id commute where they do so on every team. -/
theorem onTeam_comm (s : State) (id : Nat) {f g : Team → Team} (hf : ∀ t, (f t).id = t.id) (hg : ∀ t, (g t).id = t.id)
    (hfg : ∀ t, g (f t) = f (g t)) : (s.onTeam id f).onTeam id g = (s.onTeam id g).onTeam id f := by
  simp only [State.onTeam, List.map_map, State.mk.injEq, List.map_inj_left, true_and, and_true, Function.comp_apply]
  intro t _
  by_cases ht : t.id = id <;> simp [ht, hf, hg, hfg]
/-- The note may be taken after the retirement, which touches the fragments alone. -/
theorem retire_noteDet (s : State) {w : Who} (fall : Bool) (hw : w.thr = none) :
    (s.noteDet w).retire w fall = (s.retire w fall).noteDet w := by
  unfold State.noteDet
  split
  · rw [retire_eq _ w fall hw, retire_eq s w fall hw]
    exact onTeam_comm { s with issue := none, last := .retired } w.team.id (fun _ => rfl) (fun _ => rfl) fun _ => rfl
  · rfl
/-- A fragment's read under R227 completes: its writes are those of the G form with its value, and the note follows. -/
theorem execPlain_writeDet {s : State} {w : Who} (d : SReg) (v : State → DWord) (h : s.FragIssues w) :
    ∃ t u, execPlain (fun w s => s.writeDet w d (v s)) s = .next (t.noteDet w) ∧ t.teamAt w.team.id = some u ∧
      t.last = .retired ∧ t.issue = none ∧ SameFstat t w ∧
      RegFrame s t w (fun _ _ => False) (fun g r => g ∈ w.present ∧ r = d.toNat) ∧
      ∀ g ∈ w.present, g < w.team.groups.length → d ≠ 0 → t.sNow w g d.toNat = w.detValue (v s) := by
  have hw : w.thr = none := h.2
  have hallows : Stream.allows .execOnly w = true := by simp [Stream.allows, hw]
  obtain ⟨t, ⟨ht, hlast, hissue⟩, hfstat, hframe, hval⟩ := execPlain_gformW d.toNat (fun w _ => w.detValue (v s)) h
  have hretire : (s.setAllS w d.toNat fun _ => w.detValue (v s)).retire w true = t :=
    Host.Outcome.next.inj ((execOn_ok _ _ _ s _ w (who_of_issues h) rfl hallows rfl).symm.trans ht)
  obtain ⟨u, hu, _⟩ := (TeamChange.trans FstatKept.trans (setS_keeps_fstat hw d.toNat (fun _ => w.detValue (v s)) w.present s)
    (retire_keeps_fstat _ w true hw)).2.2 w.team (team_frag_of_issues h).1
  refine ⟨t, u, ?_, hretire ▸ hu, hlast, hissue, hfstat, hframe, fun g hg hlt hd => hval g hg hlt (BitVec.toNat_ne.mp hd)⟩
  rw [← hretire, ← retire_noteDet _ true hw]
  exact execOn_ok _ _ _ s _ w (who_of_issues h) rfl hallows (writeDet_eq s w d (v s))

end Sys2Proof.Machine

section
open Sys2Proof Sys2Proof.Machine

/-! ### SEQRD -/

/-- Settles O42: SEQRD is a read under R227 of the number of the last record applied (`execPlain_writeDet`), and the note that it takes
in deterministic mode changes DETREAD alone. -/
theorem sequenceNumbers : Obligations.SequenceNumbers := by
  intro r s w h
  obtain ⟨t, u, hexec, hat, hlast, hissue, hfstat, hframe, hval⟩ :=
    execPlain_writeDet r (fun s => BitVec.ofNat 64 s.loop.applied) h
  have ⟨hteam, _, hv, hs, _, _, hpc⟩ := hframe
  refine ⟨t.noteDet w, ⟨hexec, by simpa using hlast, by simpa using hissue⟩, by simpa using hteam.mem_eq,
    by simpa using hteam.ops_eq, hfstat.noteDet, by simpa using hpc, fun g k hk => ?_, fun g k => ?_, fun hd => ?_,
    detRead_noteDet hat, fun g hg hlt hr => ?_⟩
  · rw [sNow_noteDet]
    exact hs g k (not_and_or.mpr hk)
  · rw [vNow_noteDet]
    exact hv g k id
  · rwa [noteDet_of_not_determ t hd]
  · rw [sNow_noteDet, hval g hg hlt hr]
    rfl

end
